-- ==== Sys2Proof/Word.lean ====
section
/-! DEFINITION. The words of the machine: instruction words, register values, bytes, and the plainest arithmetic on them. -/

namespace Sys2Proof

/-- An instruction word (R66): 32 bits. -/
abbrev Word := BitVec 32

/-- A register value (R20): 64 bits. -/
abbrev Reg := BitVec 64

/-- One byte of memory (R4). -/
abbrev Byte := BitVec 8

/-- Bits `lo` to `lo + n - 1` of a value, as R42's `bits`. -/
abbrev bf {m : Nat} (w : BitVec m) (lo n : Nat) : BitVec n := w.extractLsb' lo n

/-- A truth value as the least bit of a word. -/
abbrev bit {n : Nat} (b : Bool) : BitVec n := if b then 1 else 0

end Sys2Proof
end

