-- ==== Sys2Proof/Syntax.lean ====
section
/-! DEFINITION. The instruction set: one constructor per row of the opcode table. The first 258 rows are 32-bit words
(R66); a word's constructor carries the fields of the word as the opcode table names them. Eight words hold nothing
but a payload (the prefix, the three hints, `mark`, `trap`, `brk` and `cwait`): their constructors name the kind of word, and
the payload is read from the instruction register `State.ir`, which holds the word in hand. The last 101 rows are the
machine's events, which have no encoding; what the outside world or the choice of the moment supplies to an event is
read from `State.input`. -/

namespace Sys2Proof

/-- The instructions and events of the Fjarlon. -/
inductive Instr where
  /-- `IADD_32` (R99). Adds two 32-bit operands in each active lane, wrapping modulo 2^32. -/
  | iadd32 (d a b : BitVec 7)
  /-- `IADD_64` (R99). Adds two 64-bit operands in each active lane, wrapping modulo 2^64. -/
  | iadd64 (d a b : BitVec 7)
  /-- `ISUB_32` (R99). Subtracts B from A at 32 bits, wrapping. -/
  | isub32 (d a b : BitVec 7)
  /-- `ISUB_64` (R99). Subtracts B from A at 64 bits, wrapping. -/
  | isub64 (d a b : BitVec 7)
  /-- `IMUL_32` (R99). Writes the low 32 bits of the product. -/
  | imul32 (d a b : BitVec 7)
  /-- `IMUL_64` (R99). Writes the low 64 bits of the product. -/
  | imul64 (d a b : BitVec 7)
  /-- `IMULH_32` (R99). Writes the high half of the signed 32-bit product. -/
  | imulh32 (d a b : BitVec 7)
  /-- `IMULH_64` (R99). Writes the high half of the signed 64-bit product. -/
  | imulh64 (d a b : BitVec 7)
  /-- `IMULHN_32` (R99). Writes the high half of the natural 32-bit product. -/
  | imulhn32 (d a b : BitVec 7)
  /-- `IMULHN_64` (R99). Writes the high half of the natural 64-bit product. -/
  | imulhn64 (d a b : BitVec 7)
  /-- `IDIV_32` (R99). Signed 32-bit division toward zero; division by zero sets IDZ. -/
  | idiv32 (d a b : BitVec 7)
  /-- `IDIV_64` (R99). Signed 64-bit division toward zero; division by zero sets IDZ. -/
  | idiv64 (d a b : BitVec 7)
  /-- `IDIVN_32` (R99). Natural 32-bit division; division by zero sets IDZ. -/
  | idivn32 (d a b : BitVec 7)
  /-- `IDIVN_64` (R99). Natural 64-bit division; division by zero sets IDZ. -/
  | idivn64 (d a b : BitVec 7)
  /-- `IREM_32` (R99). Signed 32-bit remainder; a zero divisor returns the dividend and sets IDZ. -/
  | irem32 (d a b : BitVec 7)
  /-- `IREM_64` (R99). Signed 64-bit remainder; a zero divisor returns the dividend and sets IDZ. -/
  | irem64 (d a b : BitVec 7)
  /-- `IREMN_32` (R99). Natural 32-bit remainder. -/
  | iremn32 (d a b : BitVec 7)
  /-- `IREMN_64` (R99). Natural 64-bit remainder. -/
  | iremn64 (d a b : BitVec 7)
  /-- `IMIN_I_32` (R99). Signed 32-bit minimum. -/
  | iminI32 (d a b : BitVec 7)
  /-- `IMIN_I_64` (R99). Signed 64-bit minimum. -/
  | iminI64 (d a b : BitVec 7)
  /-- `IMIN_N_32` (R99). Natural 32-bit minimum. -/
  | iminN32 (d a b : BitVec 7)
  /-- `IMIN_N_64` (R99). Natural 64-bit minimum. -/
  | iminN64 (d a b : BitVec 7)
  /-- `IMAX_I_32` (R99). Signed 32-bit maximum. -/
  | imaxI32 (d a b : BitVec 7)
  /-- `IMAX_I_64` (R99). Signed 64-bit maximum. -/
  | imaxI64 (d a b : BitVec 7)
  /-- `IMAX_N_32` (R99). Natural 32-bit maximum. -/
  | imaxN32 (d a b : BitVec 7)
  /-- `IMAX_N_64` (R99). Natural 64-bit maximum. -/
  | imaxN64 (d a b : BitVec 7)
  /-- `IABS_32` (R99). Signed 32-bit absolute value. -/
  | iabs32 (d a : BitVec 7)
  /-- `IABS_64` (R99). Signed 64-bit absolute value. -/
  | iabs64 (d a : BitVec 7)
  /-- `AND_32` (R99). Bitwise and at 32 bits. -/
  | and32 (d a b : BitVec 7)
  /-- `AND_64` (R99). Bitwise and at 64 bits. -/
  | and64 (d a b : BitVec 7)
  /-- `OR_32` (R99). Bitwise or at 32 bits. -/
  | or32 (d a b : BitVec 7)
  /-- `OR_64` (R99). Bitwise or at 64 bits. -/
  | or64 (d a b : BitVec 7)
  /-- `XOR_32` (R99). Bitwise exclusive or at 32 bits. -/
  | xor32 (d a b : BitVec 7)
  /-- `XOR_64` (R99). Bitwise exclusive or at 64 bits. -/
  | xor64 (d a b : BitVec 7)
  /-- `ANDN_32` (R99). A and not B at 32 bits. -/
  | andn32 (d a b : BitVec 7)
  /-- `ANDN_64` (R99). A and not B at 64 bits. -/
  | andn64 (d a b : BitVec 7)
  /-- `SHL_32` (R99). Shift left by the whole 32-bit value of B. -/
  | shl32 (d a b : BitVec 7)
  /-- `SHL_64` (R99). Shift left by the whole 64-bit value of B. -/
  | shl64 (d a b : BitVec 7)
  /-- `SHR_32` (R99). Logical shift right at 32 bits. -/
  | shr32 (d a b : BitVec 7)
  /-- `SHR_64` (R99). Logical shift right at 64 bits. -/
  | shr64 (d a b : BitVec 7)
  /-- `SRA_32` (R99). Arithmetic shift right at 32 bits. -/
  | sra32 (d a b : BitVec 7)
  /-- `SRA_64` (R99). Arithmetic shift right at 64 bits. -/
  | sra64 (d a b : BitVec 7)
  /-- `ROTL_32` (R99). Rotate left at 32 bits. -/
  | rotl32 (d a b : BitVec 7)
  /-- `ROTL_64` (R99). Rotate left at 64 bits. -/
  | rotl64 (d a b : BitVec 7)
  /-- `IMAD_32` (R99). Computes A times B plus the fourth operand at 32 bits. -/
  | imad32 (d a b : BitVec 7)
  /-- `IMAD_64` (R99). Computes A times B plus the fourth operand at 64 bits. -/
  | imad64 (d a b : BitVec 7)
  /-- `IADD_IMM_32` (R100). Adds a sign-extended immediate at 32 bits. -/
  | iaddImm32 (d a : BitVec 7) (i : BitVec 12)
  /-- `IADD_IMM_64` (R100). Adds a sign-extended immediate at 64 bits. -/
  | iaddImm64 (d a : BitVec 7) (i : BitVec 12)
  /-- `AND_IMM` (R100). Ands A with a sign-extended immediate. -/
  | andImm (d a : BitVec 7) (i : BitVec 12)
  /-- `OR_IMM` (R100). Ors A with a sign-extended immediate. -/
  | orImm (d a : BitVec 7) (i : BitVec 12)
  /-- `XOR_IMM` (R100). Exclusive-ors A with a sign-extended immediate. -/
  | xorImm (d a : BitVec 7) (i : BitVec 12)
  /-- `SHL_IMM_32` (R101). Shift left by an immediate amount at 32 bits. -/
  | shlImm32 (d a : BitVec 7) (k : BitVec 5)
  /-- `SHL_IMM_64` (R101). Shift left by an immediate amount at 64 bits. -/
  | shlImm64 (d a : BitVec 7) (k : BitVec 6)
  /-- `SHR_IMM_32` (R101). Logical shift right by an immediate at 32 bits. -/
  | shrImm32 (d a : BitVec 7) (k : BitVec 5)
  /-- `SHR_IMM_64` (R101). Logical shift right by an immediate at 64 bits. -/
  | shrImm64 (d a : BitVec 7) (k : BitVec 6)
  /-- `SRA_IMM_32` (R101). Arithmetic shift right by an immediate at 32 bits. -/
  | sraImm32 (d a : BitVec 7) (k : BitVec 5)
  /-- `SRA_IMM_64` (R101). Arithmetic shift right by an immediate at 64 bits. -/
  | sraImm64 (d a : BitVec 7) (k : BitVec 6)
  /-- `ROTL_IMM_32` (R101). Rotate left by an immediate at 32 bits. -/
  | rotlImm32 (d a : BitVec 7) (k : BitVec 5)
  /-- `ROTL_IMM_64` (R101). Rotate left by an immediate at 64 bits. -/
  | rotlImm64 (d a : BitVec 7) (k : BitVec 6)
  /-- `MOVI` (R102). Writes a 19-bit sign-extended immediate, or a hint-extended immediate, to D. -/
  | movi (d : BitVec 7) (i : BitVec 19)
  /-- `POPC_32` (R103). Counts the set bits of the low 32 bits of A. -/
  | popc32 (d a : BitVec 7)
  /-- `POPC_64` (R103). Counts the set bits of A. -/
  | popc64 (d a : BitVec 7)
  /-- `CLZ_32` (R103). Counts leading zeros of the low 32 bits. -/
  | clz32 (d a : BitVec 7)
  /-- `CLZ_64` (R103). Counts leading zeros of 64 bits. -/
  | clz64 (d a : BitVec 7)
  /-- `CTZ_32` (R103). Counts trailing zeros of the low 32 bits. -/
  | ctz32 (d a : BitVec 7)
  /-- `CTZ_64` (R103). Counts trailing zeros of 64 bits. -/
  | ctz64 (d a : BitVec 7)
  /-- `BREV_32` (R103). Reverses the low 32 bits. -/
  | brev32 (d a : BitVec 7)
  /-- `BREV_64` (R103). Reverses 64 bits. -/
  | brev64 (d a : BitVec 7)
  /-- `BFX_I64` (R104). Extracts and sign-extends a bit field. -/
  | bfxI64 (d a b : BitVec 7)
  /-- `BFX_N64` (R104). Extracts a bit field zero-extended. -/
  | bfxN64 (d a b : BitVec 7)
  /-- `BFI` (R104). Inserts bits of A into B under the fourth-operand control word. -/
  | bfi (d a b : BitVec 7)
  /-- `BILV` (R105). Spreads the bits of A at a stride and offset. -/
  | bilv (d a b : BitVec 7)
  /-- `BDILV` (R105). Gathers strided bits of A together. -/
  | bdilv (d a b : BitVec 7)
  /-- `PERM8` (R103). Permutes the bytes of A under nibble selectors in B. -/
  | perm8 (d a b : BitVec 7)
  /-- `FSH_32` (R103). Funnel shift at 32 bits. -/
  | fsh32 (d a b : BitVec 7)
  /-- `FSH_64` (R103). Funnel shift at 64 bits. -/
  | fsh64 (d a b : BitVec 7)
  /-- `SEXT_I8` (R103). Sign-extends the low 8 bits to 64. -/
  | sextI8 (d a : BitVec 7)
  /-- `SEXT_I16` (R103). Sign-extends the low 16 bits to 64. -/
  | sextI16 (d a : BitVec 7)
  /-- `SEXT_I32` (R103). Sign-extends the low 32 bits to 64. -/
  | sextI32 (d a : BitVec 7)
  /-- `ZEXT_N8` (R103). Zero-extends the low 8 bits. -/
  | zextN8 (d a : BitVec 7)
  /-- `ZEXT_N16` (R103). Zero-extends the low 16 bits. -/
  | zextN16 (d a : BitVec 7)
  /-- `ZEXT_N32` (R103). Zero-extends the low 32 bits. -/
  | zextN32 (d a : BitVec 7)
  /-- `MOV` (R103). Copies all 64 bits of A to D. -/
  | mov (d a : BitVec 7)
  /-- `ADDR` (R106). Forms A plus B and traps if the result is not canonical. -/
  | addr (d a b : BitVec 7)
  /-- `DOT4_I8` (R103). Signed 4-way byte dot product added to the fourth operand. -/
  | dot4I8 (d a b : BitVec 7)
  /-- `DOT4_N8` (R103). Natural 4-way byte dot product added to the fourth operand. -/
  | dot4N8 (d a b : BitVec 7)
  /-- `ICMP` (R107). Compares integers and writes the truth of the condition to a predicate. -/
  | icmp (p c : BitVec 4) (a b : BitVec 7) (t : BitVec 4)
  /-- `FCMP` (R131). Compares floats, with unordered handling, into a predicate. -/
  | fcmp (p c : BitVec 4) (a b : BitVec 7) (t : BitVec 4)
  /-- `PSET` (R108). Writes a predicate from a 4-bit truth table of two predicates. -/
  | pset (p l a b : BitVec 4)
  /-- `ISEL` (R109). Selects A or B per lane by a predicate. -/
  | isel (d a b : BitVec 7) (p : BitVec 4) (n : BitVec 1)
  /-- `BRA` (R111). Branches each lane whose predicate holds to a PC-relative target. -/
  | bra (p : BitVec 4) (n : BitVec 1) (o : BitVec 20)
  /-- `CALL` (R112). Pushes the return address to the result queue and branches. -/
  | call (p : BitVec 4) (n : BitVec 1) (o : BitVec 20)
  /-- `BRX` (R113). Jumps to the 64-bit address in A after alignment and canonical checks. -/
  | brx (a : BitVec 7)
  /-- `RET` (R113). Jumps to the address in A, marked as a return. -/
  | ret (a : BitVec 7)
  /-- `FUSE` (R115). Waits a bounded time at a fusion point for the group's threads to gather. -/
  | fuse (a : BitVec 7)
  /-- `TICK` (R250). Writes the global tick at issue. -/
  | tick (d : BitVec 7)
  /-- `BALLOT` (R121). Rendezvous writing a bit per member whose A is nonzero. -/
  | ballot (d a b : BitVec 7)
  /-- `VOTE_ANY` (R121). Rendezvous returning 1 if any member's A is nonzero. -/
  | voteAny (d a b : BitVec 7)
  /-- `VOTE_ALL` (R121). Rendezvous returning 1 if every member's A is nonzero. -/
  | voteAll (d a b : BitVec 7)
  /-- `VOTE_EQ` (R121). Rendezvous returning 1 if all members' A are equal. -/
  | voteEq (d a b : BitVec 7)
  /-- `MATCH_32` (R122). Rendezvous returning the members whose 32-bit key equals this thread's. -/
  | match32 (d a b : BitVec 7)
  /-- `MATCH_64` (R122). Rendezvous returning the members whose 64-bit key equals this thread's. -/
  | match64 (d a b : BitVec 7)
  /-- `SHFL_IDX` (R121). Rendezvous returning A of the member at a given position. -/
  | shflIdx (d a b : BitVec 7)
  /-- `SHFL_UP` (R121). Rendezvous returning A of the member c positions below. -/
  | shflUp (d a b : BitVec 7)
  /-- `SHFL_DN` (R121). Rendezvous returning A of the member c positions above. -/
  | shflDn (d a b : BitVec 7)
  /-- `SHFL_XOR` (R121). Rendezvous returning A of the member at position p xor c. -/
  | shflXor (d a b : BitVec 7)
  /-- `REDUX_ADD_32` (R121). Rendezvous returning the 32-bit sum of members' A. -/
  | reduxAdd32 (d a b : BitVec 7)
  /-- `REDUX_MIN_I32` (R121). Rendezvous returning the signed minimum. -/
  | reduxMinI32 (d a b : BitVec 7)
  /-- `REDUX_MIN_N32` (R121). Rendezvous returning the natural minimum. -/
  | reduxMinN32 (d a b : BitVec 7)
  /-- `REDUX_MAX_I32` (R121). Rendezvous returning the signed maximum. -/
  | reduxMaxI32 (d a b : BitVec 7)
  /-- `REDUX_MAX_N32` (R121). Rendezvous returning the natural maximum. -/
  | reduxMaxN32 (d a b : BitVec 7)
  /-- `REDUX_AND` (R121). Rendezvous returning the and of members' low 32 bits. -/
  | reduxAnd (d a b : BitVec 7)
  /-- `REDUX_OR` (R121). Rendezvous returning the or of members' low 32 bits. -/
  | reduxOr (d a b : BitVec 7)
  /-- `REDUX_XOR` (R121). Rendezvous returning the xor of members' low 32 bits. -/
  | reduxXor (d a b : BitVec 7)
  /-- `REDUX_ADD_64` (R121). Rendezvous returning the 64-bit sum of members' A. -/
  | reduxAdd64 (d a b : BitVec 7)
  /-- `SYSRD` (R252). Reads a special value by selector. -/
  | sysrd (d : BitVec 7) (s : BitVec 8)
  /-- `SYSWR_IMODE` (R252). Writes IMODE and returns its former value. -/
  | syswrImode (d a : BitVec 7)
  /-- `SYSWR_SRG` (R252). Writes the stochastic generator, 0 stored as 1, and returns its former value. -/
  | syswrSrg (d a : BitVec 7)
  /-- `FFLAGS_RD` (R139). Returns TSW. -/
  | fflagsRd (d : BitVec 7)
  /-- `FFLAGS_CLR` (R139). Returns TSW and clears the sticky flags named in A. -/
  | fflagsClr (d a : BitVec 7)
  /-- `FFLAGS_CTL` (R139). Returns TSW and sets RM and FTZ from A. -/
  | fflagsCtl (d a : BitVec 7)
  /-- `FADD` (R126). FP32 addition rounded under the thread's mode. -/
  | fadd (d a b : BitVec 7)
  /-- `FSUB` (R126). FP32 subtraction. -/
  | fsub (d a b : BitVec 7)
  /-- `FMUL` (R126). FP32 multiplication. -/
  | fmul (d a b : BitVec 7)
  /-- `FFMA` (R126). FP32 fused multiply-add rounded once. -/
  | ffma (d a b : BitVec 7)
  /-- `FMIN` (R127). IEEE minimum. -/
  | fmin (d a b : BitVec 7)
  /-- `FMAX` (R127). IEEE maximum. -/
  | fmax (d a b : BitVec 7)
  /-- `FMINN` (R127). IEEE minimumNumber. -/
  | fminn (d a b : BitVec 7)
  /-- `FMAXN` (R127). IEEE maximumNumber. -/
  | fmaxn (d a b : BitVec 7)
  /-- `FABS` (R128). Clears the sign bit. -/
  | fabs (d a : BitVec 7)
  /-- `FNEG` (R128). Inverts the sign bit. -/
  | fneg (d a : BitVec 7)
  /-- `FRCP` (R129). Correctly rounded reciprocal. -/
  | frcp (d a : BitVec 7)
  /-- `FRSQ` (R129). Correctly rounded reciprocal square root. -/
  | frsq (d a : BitVec 7)
  /-- `FSQRT` (R129). Correctly rounded square root. -/
  | fsqrt (d a : BitVec 7)
  /-- `FEXP2` (R130). Faithful 2^x by the 28-bit rule. -/
  | fexp2 (d a : BitVec 7)
  /-- `FLOG2` (R130). Faithful log2 x. -/
  | flog2 (d a : BitVec 7)
  /-- `FSIN` (R130). Faithful sin of pi times x. -/
  | fsin (d a : BitVec 7)
  /-- `FCOS` (R130). Faithful cos of pi times x. -/
  | fcos (d a : BitVec 7)
  /-- `FCLASS` (R128). Writes a one-hot 10-bit class mask of an FP32 value. -/
  | fclass (d a : BitVec 7)
  /-- `HADD2_F16` (R132). Packed FP16 pair addition. -/
  | hadd2F16 (d a b : BitVec 7)
  /-- `HADD2_BF16` (R132). Packed BF16 pair addition. -/
  | hadd2Bf16 (d a b : BitVec 7)
  /-- `HMUL2_F16` (R132). Packed FP16 pair multiplication. -/
  | hmul2F16 (d a b : BitVec 7)
  /-- `HMUL2_BF16` (R132). Packed BF16 pair multiplication. -/
  | hmul2Bf16 (d a b : BitVec 7)
  /-- `HFMA2_F16` (R132). Packed FP16 pair fused multiply-add. -/
  | hfma2F16 (d a b : BitVec 7)
  /-- `HFMA2_BF16` (R132). Packed BF16 pair fused multiply-add. -/
  | hfma2Bf16 (d a b : BitVec 7)
  /-- `FDOT2_F16` (R133). Two-element FP16 dot accumulated to FP32 with one rounding. -/
  | fdot2F16 (d a b : BitVec 7)
  /-- `FDOT2_BF16` (R133). Two-element BF16 dot accumulated to FP32. -/
  | fdot2Bf16 (d a b : BitVec 7)
  /-- `F8DOT4_E4M3` (R133). Four-element E4M3 dot accumulated to FP32. -/
  | f8dot4E4m3 (d a b : BitVec 7)
  /-- `F8DOT4_E5M2` (R133). Four-element E5M2 dot accumulated to FP32. -/
  | f8dot4E5m2 (d a b : BitVec 7)
  /-- `FPACK_F16` (R134). Rounds two FP32 values to FP16 and packs them. -/
  | fpackF16 (d a b : BitVec 7)
  /-- `FPACK_BF16` (R134). Rounds two FP32 values to BF16 and packs them. -/
  | fpackBf16 (d a b : BitVec 7)
  /-- `FPACK_E4M3` (R134). Rounds four FP32 values to saturating E4M3 and packs them. -/
  | fpackE4m3 (d a b : BitVec 7)
  /-- `FPACK_E5M2` (R134). Rounds four FP32 values to saturating E5M2 and packs them. -/
  | fpackE5m2 (d a b : BitVec 7)
  /-- `FRND` (R136). Rounds a float to an integral value in its own format. -/
  | frnd (d a : BitVec 7) (s t : BitVec 4) (r : BitVec 3)
  /-- `FCVT` (R136). Converts between float and Denusk types; a Denusk encode is a 32-thread rendezvous (R138). -/
  | fcvt (d a : BitVec 7) (s t : BitVec 4) (r : BitVec 3)
  /-- `FCVTI` (R136). Converts a float to a saturated integer. -/
  | fcvti (d a : BitVec 7) (s t : BitVec 4) (r : BitVec 3)
  /-- `ICVTF` (R136). Converts an integer to a float. -/
  | icvtf (d a : BitVec 7) (s t : BitVec 4) (r : BitVec 3)
  /-- `LD` (R143). Plain load from global, scratchpad or record window. -/
  | ld (d a : BitVec 7) (s : BitVec 2) (z : BitVec 3) (o : BitVec 7)
  /-- `ST` (R144). Plain store to global or scratchpad. -/
  | st (d a : BitVec 7) (s : BitVec 2) (z : BitVec 3) (o : BitVec 7)
  /-- `LD_ACQ` (R143). Load that is an acquire at scope SC. -/
  | ldAcq (d a : BitVec 7) (s : BitVec 2) (z c : BitVec 3) (o : BitVec 4)
  /-- `ST_REL` (R144). Store that is a release at scope SC. -/
  | stRel (d a : BitVec 7) (s : BitVec 2) (z c : BitVec 3) (o : BitVec 4)
  /-- `LDX` (R143). Plain load with register-indexed address. -/
  | ldx (d a b : BitVec 7) (s : BitVec 2) (z : BitVec 3)
  /-- `STX` (R144). Plain store with register-indexed address. -/
  | stx (d a b : BitVec 7) (s : BitVec 2) (z : BitVec 3)
  /-- `ATOM_ADD` (R148). Atomic add at the home slice returning the old value. -/
  | atomAdd (d a b : BitVec 7) (t : BitVec 2)
  /-- `ATOM_MIN` (R148). Atomic minimum returning the old value. -/
  | atomMin (d a b : BitVec 7) (t : BitVec 2)
  /-- `ATOM_MAX` (R148). Atomic maximum returning the old value. -/
  | atomMax (d a b : BitVec 7) (t : BitVec 2)
  /-- `ATOM_AND` (R148). Atomic and returning the old value. -/
  | atomAnd (d a b : BitVec 7) (t : BitVec 1)
  /-- `ATOM_OR` (R148). Atomic or returning the old value. -/
  | atomOr (d a b : BitVec 7) (t : BitVec 1)
  /-- `ATOM_XOR` (R148). Atomic xor returning the old value. -/
  | atomXor (d a b : BitVec 7) (t : BitVec 1)
  /-- `ATOM_EXCH` (R148). Atomic exchange. -/
  | atomExch (d a b : BitVec 7) (t : BitVec 1)
  /-- `ATOM_CAS` (R148). Atomic compare-and-swap with the fourth operand as new value. -/
  | atomCas (d a b : BitVec 7) (t : BitVec 1)
  /-- `ATOM_FADD` (R148). Atomic FP32 add with RNE. -/
  | atomFadd (d a b : BitVec 7)
  /-- `ATOM_FMIN` (R148). Atomic FP32 minimumNumber. -/
  | atomFmin (d a b : BitVec 7)
  /-- `ATOM_FMAX` (R148). Atomic FP32 maximumNumber. -/
  | atomFmax (d a b : BitVec 7)
  /-- `ATOM_INCB` (R148). Atomic bounded increment below a limit. -/
  | atomIncb (d a b : BitVec 7)
  /-- `ATOM_DECB` (R148). Atomic bounded decrement above a floor. -/
  | atomDecb (d a b : BitVec 7)
  /-- `ARED_ADD` (R148). Atomic add returning nothing. -/
  | aredAdd (a b : BitVec 7) (t : BitVec 2)
  /-- `ARED_MIN` (R148). Atomic minimum returning nothing. -/
  | aredMin (a b : BitVec 7) (t : BitVec 2)
  /-- `ARED_MAX` (R148). Atomic maximum returning nothing. -/
  | aredMax (a b : BitVec 7) (t : BitVec 2)
  /-- `ARED_AND` (R148). Atomic and returning nothing. -/
  | aredAnd (a b : BitVec 7) (t : BitVec 1)
  /-- `ARED_OR` (R148). Atomic or returning nothing. -/
  | aredOr (a b : BitVec 7) (t : BitVec 1)
  /-- `ARED_XOR` (R148). Atomic xor returning nothing. -/
  | aredXor (a b : BitVec 7) (t : BitVec 1)
  /-- `ARED_EXCH` (R148). Atomic exchange returning nothing. -/
  | aredExch (a b : BitVec 7) (t : BitVec 1)
  /-- `ARED_FADD` (R148). Atomic FP32 add returning nothing. -/
  | aredFadd (a b : BitVec 7)
  /-- `ARED_FMIN` (R148). Atomic FP32 minimumNumber returning nothing. -/
  | aredFmin (a b : BitVec 7)
  /-- `ARED_FMAX` (R148). Atomic FP32 maximumNumber returning nothing. -/
  | aredFmax (a b : BitVec 7)
  /-- `ARED_INCB` (R148). Atomic bounded increment returning nothing. -/
  | aredIncb (a b : BitVec 7)
  /-- `ARED_DECB` (R148). Atomic bounded decrement returning nothing. -/
  | aredDecb (a b : BitVec 7)
  /-- `FENCE` (R146). Full fence, both acquire and release, at scope SC. -/
  | fence (s : BitVec 3)
  /-- `FENCE_ACQ` (R146). Acquire fence at scope SC. -/
  | fenceAcq (s : BitVec 3)
  /-- `FENCE_REL` (R146). Release fence at scope SC. -/
  | fenceRel (s : BitVec 3)
  /-- `BAR_ARM` (R151). Arms, re-arms or disarms a barrier register with expected arrivals and bytes. -/
  | barArm (r : BitVec 4) (a b : BitVec 7)
  /-- `BAR_ARRIVE` (R152). Delivers n arrivals to a barrier as a release; may complete the phase. -/
  | barArrive (s : BitVec 3) (r : BitVec 4) (a : BitVec 7)
  /-- `BAR_EXPECT` (R152). Raises the barrier's standing byte expectation. -/
  | barExpect (r : BitVec 4) (a : BitVec 7)
  /-- `BAR_WAIT` (R153). Waits until the phase of the given parity has completed. -/
  | barWait (s : BitVec 3) (r : BitVec 4) (a : BitVec 7)
  /-- `BAR_SYNC` (R153). Arrives at a barrier and then waits for the phase. -/
  | barSync (s : BitVec 3) (r : BitVec 4) (a : BitVec 7)
  /-- `BAR_TEST` (R153). Writes phase-passed and broken predicates without waiting. -/
  | barTest (s : BitVec 3) (r : BitVec 4) (a : BitVec 7) (p : BitVec 4)
  /-- `GSYNC` (R155). Synchronises every live thread of the group. -/
  | gsync (s : BitVec 3)
  /-- `WSYNC` (R155). Synchronises the workgroup or the cluster launch. -/
  | wsync (s : BitVec 3)
  /-- `PREF` (R161). Prefetches a sector into L2 or L1; never faults. -/
  | pref (a : BitVec 7)
  /-- `CINV` (R161). Discards unowned words of a range from the workgroup's L1. -/
  | cinv (a b : BitVec 7)
  /-- `CWB` (R161). Waits for write-throughs of a range to be acknowledged, and written back at .sys. -/
  | cwb (s : BitVec 3) (a b : BitVec 7)
  /-- `ICINV` (R161). Invalidates instruction caches for a range. -/
  | icinv (s : BitVec 3) (a b : BitVec 7)
  /-- `XST` (R156). Stores into a cluster peer's shadow exchange bank. -/
  | xst (d a : BitVec 7) (e : BitVec 2) (z : BitVec 3) (o : BitVec 7)
  /-- `STC_32` (R159). Compress-stores active members' 32-bit values contiguously from a base. -/
  | stc32 (d a b : BitVec 7)
  /-- `STC_64` (R159). Compress-stores active members' 64-bit values contiguously. -/
  | stc64 (d a b : BitVec 7)
  /-- `LDE_32` (R160). Expand-loads consecutive 32-bit values to active members. -/
  | lde32 (d a b : BitVec 7)
  /-- `LDE_64` (R160). Expand-loads consecutive 64-bit values to active members. -/
  | lde64 (d a b : BitVec 7)
  /-- `WALKSET` (R165). Reads a walk descriptor, grants a configuration and computes the first step. -/
  | walkset (d a b : BitVec 7)
  /-- `WALKLD_32` (R166). Loads a 32-bit element of the lane's assignment. -/
  | walkld32 (d a : BitVec 7)
  /-- `WALKLD_ROW` (R166). Writes the lane's assigned row. -/
  | walkldRow (d : BitVec 7)
  /-- `WALKLD_COL` (R166). Writes the lane's assigned column. -/
  | walkldCol (d : BitVec 7)
  /-- `WALKLD_64` (R166). Loads a 64-bit element of the lane's assignment. -/
  | walkld64 (d a : BitVec 7)
  /-- `WALKST_32` (R166). Stores a 32-bit element to the lane's assignment. -/
  | walkst32 (d a : BitVec 7)
  /-- `WALKST_64` (R166). Stores a 64-bit element to the lane's assignment. -/
  | walkst64 (d a : BitVec 7)
  /-- `WALKNEXT` (R165). Computes the next walk step and returns its element count. -/
  | walknext (d : BitVec 7)
  /-- `MMA` (R175). Accepts a matrix product command, optionally ganged, into the matrix queue. -/
  | mma (a b : BitVec 5) (c g : BitVec 3) (r : BitVec 4) (m : BitVec 6)
  /-- `MTRANS` (R181). Accepts a transpose by constant-matrix product. -/
  | mtrans (a b : BitVec 5) (c g : BitVec 3) (r : BitVec 4)
  /-- `MPERM` (R182). Accepts a row permutation or gather by index vector. -/
  | mperm (a b : BitVec 5) (c g : BitVec 3) (r : BitVec 4)
  /-- `MRSUM` (R183). Accepts a row-sum into one accumulator column. -/
  | mrsum (a b : BitVec 5) (c g : BitVec 3) (r : BitVec 4)
  /-- `GANG` (R177). Writes or invalidates a gang register. -/
  | gang (i : BitVec 3) (a : BitVec 7)
  /-- `ACCLD` (R185). Accepts a copy from scratchpad into an accumulator tile. -/
  | accld (i : BitVec 3) (s : BitVec 5)
  /-- `ACCST` (R186). Accepts a rounded copy from a tile into scratchpad. -/
  | accst (i : BitVec 3) (s : BitVec 5)
  /-- `ACCZERO` (R185). Accepts a clear of a whole tile. -/
  | acczero (i : BitVec 3)
  /-- `MWAIT` (R187). Waits until the group's matrix completion count is at most n. -/
  | mwait (n : BitVec 3)
  /-- `MFLAGS` (R188). Waits for engine work, reads and clears the engine flag word. -/
  | mflags (s : BitVec 5) (a : BitVec 7)
  /-- `TCFG` (R196). Sets the group's lookup configuration. -/
  | tcfg (s : BitVec 5)
  /-- `TBUILD` (R198). Accepts a table build from a scratchpad activation row. -/
  | tbuild (t : BitVec 3) (s : BitVec 5)
  /-- `TLOOK` (R205). Accepts a lookup product into accumulator rows. -/
  | tlook (s : BitVec 5) (c : BitVec 3) (m : BitVec 8)
  /-- `TINV` (R208). Invalidates the tables of a mask. -/
  | tinv (m : BitVec 8)
  /-- `TSTAT` (R208). Returns a table's state image. -/
  | tstat (t : BitVec 3) (s : BitVec 5)
  /-- `TSPILL` (R210). Accepts a write of a table image to scratchpad. -/
  | tspill (t : BitVec 3) (s : BitVec 5)
  /-- `TFILL` (R210). Accepts a load of a table from a scratchpad image. -/
  | tfill (t : BitVec 3) (s : BitVec 5)
  /-- `TWAIT_POLL` (R207). Waits for lookup commands and returns and clears the poll register. -/
  | twaitPoll (s : BitVec 5)
  /-- `CPY` (R223). Workgroup collective that forms and queues a box copy command. -/
  | cpy (r : BitVec 4) (s t : BitVec 5) (n : BitVec 1)
  /-- `LAY` (R230). Queues a tensor permute, split and merge on the cluster's tambour. -/
  | lay (r : BitVec 4) (s h : BitVec 5) (n : BitVec 1)
  /-- `LAYQ` (R231). Checks a layout and returns its pass count and destination rank. -/
  | layq (s h d : BitVec 5)
  /-- `TOPK` (R237). Queues a per-row top-k search on the copy engine. -/
  | topk (r : BitVec 4) (s : BitVec 5) (n : BitVec 1)
  /-- `TEXP` (R239). Queues expansion of a histogram into tile records. -/
  | texp (r : BitVec 4) (s : BitVec 5) (n : BitVec 1)
  /-- `COLL` (R242). Queues a collective on the package's collective engine. -/
  | coll (r : BitVec 4) (s : BitVec 5) (n : BitVec 1)
  /-- `REC` (R244). Writes 8 bytes into the thread's record buffer. -/
  | recInit (a : BitVec 7) (s : BitVec 4)
  /-- `EMIT` (R245). Places the record buffer in a successor queue, waiting on back-pressure. -/
  | emit (p : BitVec 3)
  /-- `EMITQ` (R247). Emits only if possible at once and reports success in a predicate. -/
  | emitq (p : BitVec 3) (q : BitVec 4)
  /-- `EPORT` (R248). Declares the thread done with a port. -/
  | eport (p : BitVec 3)
  /-- `NOP` (R114). Issues with no effect. -/
  | nop
  /-- `EXIT` (R250). Ends the thread after its group's lookup count reaches zero. -/
  | exit
  /-- `YIELD` (R250). Ends the thread's turn on its lane. -/
  | yieldTurn
  /-- `MARK` (R251). Places a block identifier in the trace stream when tracing is on. -/
  | mark
  /-- `TRAP` (R251). Raises the software-trap fault with a 20-bit code. -/
  | trap
  /-- `BRK` (R251). Raises the breakpoint trap when breakpoints are enabled, else no effect. -/
  | brk
  /-- `BAR_SWAP` (R157). Cluster rendezvous that swaps exchange areas and shadow banks. -/
  | barSwap
  /-- `TWAIT` (R207). Waits for lookup commands and takes a pending table-range fault. -/
  | twait
  /-- `CWAIT` (R218). Waits until the group's engine completion count is at most n. -/
  | cwait
  /-- `PREFIX` (R76). Prefix word adding mask, policy, rounding and a fourth operand to the next instruction. -/
  | prefixWord
  /-- `WIDE_IMMEDIATE_HINT` (R81). Hint word extending the immediate of its group's instruction. -/
  | wideHint
  /-- `MODIFIER_HINT` (R80). Hint word adding scope, ordering and cache policy to a memory instruction. -/
  | modifierHint
  /-- `STALL_HINT` (R82). Hint word setting stall counts for the following six instruction groups. -/
  | stallHint
  /-- `ZERO_WORD` (R88). The all-zero word traps with the zero-word fault. -/
  | zeroWord
  /-- `RESULT_ARRIVAL` (R23). A variable-latency result arrives and fills its queue slot or register. -/
  | resultArrival
  /-- `FUSE_TIMEOUT` (R115). The bounded fuse wait expires and the thread proceeds. -/
  | fuseTimeout
  /-- `MATRIX_COMMAND_COMPLETE` (R169). The matrix engine finishes a command's writes and lowers completion counts. -/
  | matrixCommandComplete
  /-- `LOOKUP_COMMAND_COMPLETE` (R193). The lookup engine finishes a command and lowers the lookup count. -/
  | lookupCommandComplete
  /-- `COPY_COMMAND_COMPLETE` (R217). The copy engine finishes a cpy, topk or texp and delivers its arrival. -/
  | copyCommandComplete
  /-- `TAMBOUR_COMMAND_COMPLETE` (R232). The tambour finishes a lay and delivers its arrival. -/
  | tambourCommandComplete
  /-- `ENGINE_TRANSLATION_FAULT` (R253). A running cpy, lay or texp meets a translation fault and stops at its granule. -/
  | engineTranslationFault
  /-- `COLL_COMPLETE` (R243). A collective completes, writes DONE status and delivers. -/
  | collComplete
  /-- `PEER_HALTED_NOTICE` (R360). A participant's halt is notified; others set PEER_HALTED and stall. -/
  | peerHaltedNotice
  /-- `PEER_RESUMED_NOTICE` (R360). The halted participant resumes; others clear PEER_HALTED and continue. -/
  | peerResumedNotice
  /-- `COLL_PEER_LOST` (R361). A participant is lost and survivors complete with PEER_LOST. -/
  | collPeerLost
  /-- `LAUNCH_PLACEMENT` (R304). The die scheduler places a candidate launch or resumption on cores, or reserves. -/
  | launchPlacement
  /-- `GATHER_TIMER_EXPIRY` (R298). The oldest counted record has waited TIMER ticks and the gather becomes launchable. -/
  | gatherTimerExpiry
  /-- `RECORD_ADMISSION` (R297). A waiting record is admitted to its queue once room appears. -/
  | recordAdmission
  /-- `GRAPH_END` (R310). With outstanding work zero and writes performed, status and signal are stored. -/
  | graphEnd
  /-- `PRE_EMPTION` (R306). A reservation held 65,536 ticks pre-empts lower-priority workgroups. -/
  | preEmption
  /-- `GRAPH_STALL` (R307). A region's stall timeout passes and it takes the graph-stall fault. -/
  | graphStall
  /-- `ISSUE_AGING` (R308). A weave ready 16,384 clocks without issue takes class 16. -/
  | issueAging
  /-- `SERVICE_RESUME` (R332). A SERVICE write with ACTION 0 releases the deliveries of an entry. -/
  | serviceResume
  /-- `SERVICE_KILL_GROUP` (R332). A SERVICE write with ACTION 1 kills the deliveries' groups. -/
  | serviceKillGroup
  /-- `HALT_REQUEST` (R374). Writing HALTREQ halts every group of the named region. -/
  | haltRequest
  /-- `HARDWARE_BREAKPOINT` (R375). A thread about to issue at an enabled BRKPC takes the breakpoint trap. -/
  | hardwareBreakpoint
  /-- `DBGDATA_READ` (R376). Reads the item named by DBGSEL of a halted thread. -/
  | dbgdataRead
  /-- `DBGDATA_WRITE` (R376). Writes the item named by DBGSEL of a halted thread. -/
  | dbgdataWrite
  /-- `SAMPLE_LATCH` (R380). At each tick multiple of 2^K all counters are latched into a sample. -/
  | sampleLatch
  /-- `SAMPLER_CONFIG_WRITE` (R379). Writes the sampler configuration, clearing counters when EN turns on. -/
  | samplerConfigWrite
  /-- `STOPTICK_WRITE` (R372). Writes STOPTICK and arms a stop if it lies ahead. -/
  | stoptickWrite
  /-- `MODULE_STOP` (R373). The tick reaches STOPTICK and every clock domain is gated. -/
  | moduleStop
  /-- `STOP_RESUME` (R373). Writing RESUME restarts every domain together. -/
  | stopResume
  /-- `CLOCK_MODE_CHANGE` (R384). At a tick multiple of 65,536 the written clock mode and point take effect. -/
  | clockModeChange
  /-- `LOCK_LOST` (R384). An island cannot hold the point; all islands drop together and LOCKST records it. -/
  | lockLost
  /-- `LOCKST_CLEAR` (R384). Writing 1 to LOST clears it. -/
  | lockstClear
  /-- `CEVT_CLEAR` (R395). Writing 1 to a CEVT bit clears it. -/
  | cevtClear
  /-- `TICK_CORRECTION` (R371). A package holds or doubles one tick increment to agree with its partners. -/
  | tickCorrection
  /-- `POWER_THROTTLE` (R397). Power or temperature exceeds its bound and busiest islands are lowered. -/
  | powerThrottle
  /-- `CRITICAL_TEMPERATURE` (R397). At critical temperature every island drops to point 0 and event 7 is raised. -/
  | criticalTemperature
  /-- `CRITICAL_TEMPERATURE_TIMEOUT` (R397). If point 0 does not suffice within 1 s the module enters Failed. -/
  | criticalTemperatureTimeout
  /-- `POWER_ON` (R387). Power-on starts the boot ROM, clearing and extending measurements. -/
  | powerOn
  /-- `BOOT_MEASURE` (R388). The image is read, format-checked and measured, or Recovery is entered. -/
  | bootMeasure
  /-- `BOOT_LOAD` (R387). Code sections are loaded and measured into MR2. -/
  | bootLoad
  /-- `HBM_TRAINING_DONE` (R387). HBM4E training ends; failure enters Failed. -/
  | hbmTrainingDone
  /-- `LINK_TRAINING_DONE` (R387). Host and CXL port training ends. -/
  | linkTrainingDone
  /-- `FABRIC_PORTS_SETTLED` (R387). Every enabled scale-up port is Up or Failed and the module becomes Ready. -/
  | fabricPortsSettled
  /-- `TAIL_WRITE` (R287). A doorbell TAIL write copies ring packets or is rejected as overrun. -/
  | tailWrite
  /-- `LAUNCH_PACKET` (R294). A launch packet is checked and its entry records enqueued, or rejected. -/
  | launchPacket
  /-- `NOP_PACKET` (R289). A nop packet is processed with no effect. -/
  | nopPacket
  /-- `WAIT_PACKET` (R289). A wait packet checks its signal word and completes when it reaches SIGVAL. -/
  | waitPacket
  /-- `WAIT_PACKET_RECHECK` (R289). The waited word is re-read after a graph-end signal or every 1,024 ticks. -/
  | waitPacketRecheck
  /-- `SIGNAL_PACKET` (R289). Once earlier graphs ended, the signal packet stores SIGVAL as a release. -/
  | signalPacket
  /-- `HOST_APERTURE_ACCESS` (R368). A host BAR 4 access is performed at the home slice. -/
  | hostApertureAccess
  /-- `HOST_COMPLETION_TIMEOUT` (R367). A host-window access times out and ends with machine check. -/
  | hostCompletionTimeout
  /-- `CTX_CREATE` (R394). Creates a context from a context block. -/
  | ctxCreate
  /-- `CTX_DESTROY` (R393). Kills a context's work and frees its resources. -/
  | ctxDestroy
  /-- `QUEUE_SET` (R393). Sets up, enables or disables a host queue. -/
  | queueSet
  /-- `INVAL` (R347). Invalidates cached translations of a context range. -/
  | inval
  /-- `ROUTE_SET` (R350). Writes one routing-table entry. -/
  | routeSet
  /-- `PORT_DISABLE` (R350). PORT_CTL 0 disables a scale-up port. -/
  | portDisable
  /-- `PORT_ENABLE` (R350). PORT_CTL 1 enables a port, starting Detect. -/
  | portEnable
  /-- `PORT_CLEAR_FAILED` (R350). PORT_CTL 2 clears Failed and returns the port to Down. -/
  | portClearFailed
  /-- `PKG_SET` (R393). Sets the package number while no context exists. -/
  | pkgSet
  /-- `CXL_SET` (R369). Configures a CXL port as memory tier or peer. -/
  | cxlSet
  /-- `POWER_SET` (R396). Sets the power limit and island mask. -/
  | powerSet
  /-- `MR_EXTEND` (R390). Extends MR4 to MR7 with a digest. -/
  | mrExtend
  /-- `ATTEST` (R391). Produces a signed attestation report to host memory. -/
  | attest
  /-- `CERT_GET` (R393). Writes the device certificate chain to host memory. -/
  | certGet
  /-- `IMAGE_LOAD` (R389). In Recovery, stages a host image and continues boot if it passes. -/
  | imageLoad
  /-- `IMAGE_WRITE` (R393). Replaces the slot's image once it passes the format check. -/
  | imageWrite
  /-- `RESET` (R387). Resets the module and restarts the tick. -/
  | reset
  /-- `ATTREQ_WRITE` (R391). A context writes ATTREQ to request an attestation report. -/
  | attreqWrite
  /-- `ATTESTATION_REPORT_DONE` (R391). The signed report lands in the buffer as a release and ATTREQ reads 0. -/
  | attestationReportDone
  /-- `GANG_LAUNCH` (R362). Writing GANGLAUNCH starts a multi-package launch by sending prepare packets. -/
  | gangLaunch
  /-- `GANG_PREPARE` (R363). A member checks its packet, reserves resources and answers. -/
  | gangPrepare
  /-- `GANG_ACK` (R363). The leader receives a member's acknowledgement or refusal. -/
  | gangAck
  /-- `GANG_DECISION` (R363). The leader decides commit or abort and writes GSTAT. -/
  | gangDecision
  /-- `GANG_DECISION_REPEAT` (R363). Every 65,536 ticks the decision is resent to unconfirmed members. -/
  | gangDecisionRepeat
  /-- `GANG_COMMIT` (R364). A member receives commit and enqueues or releases its first coll. -/
  | gangCommit
  /-- `GANG_ABORT` (R364). A member receives abort and releases or traps its gang region. -/
  | gangAbort
  /-- `REMOTE_ACCESS_ARRIVAL` (R353). A request from another package is admitted by binding and translated. -/
  | remoteAccessArrival
  /-- `REMOTE_RECORD_ARRIVAL` (R355). A remote record arrives for a graph instance of its GRAPHID. -/
  | remoteRecordArrival
  /-- `REMOTE_RECORD_TIMEOUT` (R356). A remote record finds no instance within the fabric timeout and is refused. -/
  | remoteRecordTimeout
  /-- `CREDIT_RETURN` (R355). A remote port's credit returns when the target admits a record. -/
  | creditReturn
  /-- `UNSUPPORTED_REQUEST` (R349). An unsupported request class is answered with an error and counted. -/
  | unsupportedRequest
  /-- `LINK_PARTNER_DETECTED` (R350). A port in Detect sees its partner and trains. -/
  | linkPartnerDetected
  /-- `LINK_DETECT_TIMEOUT` (R350). Detect lasts 2^24 ticks and the port fails. -/
  | linkDetectTimeout
  /-- `LINK_TRAIN_DONE` (R350). Training ends and the port verifies, or fails after three attempts. -/
  | linkTrainDone
  /-- `LINK_VERIFY_DONE` (R350). Verification ends and the port is Up or Failed. -/
  | linkVerifyDone
  /-- `LINK_RETRAIN` (R350). The retry rate is exceeded and an Up port retrains. -/
  | linkRetrain
  /-- `L1_EVICTION` (R275). L1 evicts a line, clearing owned and valid bits. -/
  | l1Eviction
  /-- `WRITE_THROUGH_ACK` (R273). A home slice acknowledges a write-through after its revocations apply. -/
  | writeThroughAck
  /-- `SLICE_MAP_CHANGE` (R281). The slice map changes and its generation increments. -/
  | sliceMapChange
  /-- `BUCKET_HANDOVER` (R281). The old home passes a bucket's registrations to the new home. -/
  | bucketHandover
  /-- `GENERATION_REFUSAL` (R281). A request to a retired bucket is refused and resent under the current map. -/
  | generationRefusal
  /-- `PATROL_SCRUB` (R284). The patrol scrub checks an L2 sector and corrects or reports errors. -/
  | patrolScrub
  /-- `LAZY_WRITEBACK_DEADLINE` (R268). A deferred write-back reaches 32,768 ticks and is performed. -/
  | lazyWritebackDeadline
  /-- `REGISTER_WRITE` (R385). A write to a device or management register with no behaviour of its own. -/
  | registerWrite
  /-- `UNDEFINED_INSTRUCTION` (R88). An instruction group whose word is a nonzero major-0x00 word, a reserved major, a reserved-subclass hint or another reserved encoding traps with the undefined-instruction fault. -/
  | undefinedInstruction
  /-- `COPY_BYTES_LANDED` (R152). Bytes written by a running cpy land and are delivered to the receiving barriers as an m = 0 delivery, which can complete a phase or raise an overrun fault. -/
  | copyBytesLanded
  /-- `RESERVED_TYPE_PACKET` (R288). A host-queue packet whose TYPE is reserved is rejected, raising the context's service error event while HEAD advances. -/
  | reservedTypePacket
  /-- `POWER_LOSS` (R393). The module loses power, ending all work and possibly leaving a partly written image slot. -/
  | powerLoss
  /-- `REMOTE_RECORD_REFUSED` (R356). A refused remote record returns to the sender, its credit comes back, and the sender counts it stranded. -/
  | remoteRecordRefused
  /-- `UNREACHABLE_RECORD_TIMEOUT` (R356). A record sent to an unreachable package is stranded after one fabric timeout. -/
  | unreachableRecordTimeout
  deriving DecidableEq, Repr

end Sys2Proof
end

