-- ==== Sys2Proof/Decode.lean ====
section
/-! DEFINITION. The decoder, total on every word and rejecting by name, and after it the encoder. Both are written from
the encoding tables of spec/03 (R66 to R88). A reserved source or destination code, predicate selector, size or scope
in a word whose operation is assigned is not a matter of decoding: `Instr.wellFormed` refuses it. -/

namespace Sys2Proof

/-- Why a word is no instruction (R88, items 1, 2, 3 and 10). Each is the undefined-instruction fault when it executes. -/
inductive Reject where
  /-- A nonzero word of major 0x00, or a word of a reserved major (R85). -/
  | reservedMajor
  /-- A function, sub-operation or hint subclass that R86, R87 or R79 reserves. -/
  | reservedFunction
  /-- A nonzero reserved field, or an unused operand field other than 0x00 (R71). -/
  | reservedField
  /-- A pair of type codes that R75 gives no conversion. -/
  | reservedType
  deriving DecidableEq, Repr

/-- The type codes of `fcmp`: FP32, FP16 and BF16 (R75). -/
def isFcmpType (t : BitVec 4) : Bool := t = 8 ∨ t = 9 ∨ t = 10

/-- An integer type code, 0 to 7 (R75). -/
def isIntType (t : BitVec 4) : Bool := t.toNat ≤ 7

/-- A float type code, 8 to 12 (R75). -/
def isFloatType (t : BitVec 4) : Bool := 8 ≤ t.toNat ∧ t.toNat ≤ 12

/-- A Denusk type code, 13 or 14 (R75). -/
def isDenuskType (t : BitVec 4) : Bool := t = 13 ∨ t = 14

/-- TS and TD of `frnd` (R75). -/
def isFrndPair (s t : BitVec 4) : Bool := s = t ∧ isFcmpType s

/-- TS and TD of `fcvt` (R75). -/
def isFcvtPair (s t : BitVec 4) : Bool := s ≠ t ∧ (isFloatType s || isDenuskType s) ∧ (isFloatType t || isDenuskType t)

/-- TS and TD of `fcvti` (R75). -/
def isFcvtiPair (s t : BitVec 4) : Bool := isFloatType s ∧ isIntType t

/-- TS and TD of `icvtf` (R75). -/
def isIcvtfPair (s t : BitVec 4) : Bool := isIntType s ∧ isFloatType t

/-- Major 0x01 (R85, R86, R87): `IADD_32`, `ISUB_32`, `IMUL_32`, `IMULH_32`, and the rest of its table. -/
def decodeInt32 (w : Word) : Except Reject Instr :=
  match bf w 0 5 with
  | 0x0#5 => .ok (.iadd32 (bf w 19 7) (bf w 12 7) (bf w 5 7))
  | 0x1#5 => .ok (.isub32 (bf w 19 7) (bf w 12 7) (bf w 5 7))
  | 0x2#5 => .ok (.imul32 (bf w 19 7) (bf w 12 7) (bf w 5 7))
  | 0x3#5 => .ok (.imulh32 (bf w 19 7) (bf w 12 7) (bf w 5 7))
  | 0x4#5 => .ok (.imulhn32 (bf w 19 7) (bf w 12 7) (bf w 5 7))
  | 0x5#5 => .ok (.idiv32 (bf w 19 7) (bf w 12 7) (bf w 5 7))
  | 0x6#5 => .ok (.idivn32 (bf w 19 7) (bf w 12 7) (bf w 5 7))
  | 0x7#5 => .ok (.irem32 (bf w 19 7) (bf w 12 7) (bf w 5 7))
  | 0x8#5 => .ok (.iremn32 (bf w 19 7) (bf w 12 7) (bf w 5 7))
  | 0x9#5 => .ok (.iminI32 (bf w 19 7) (bf w 12 7) (bf w 5 7))
  | 0xA#5 => .ok (.iminN32 (bf w 19 7) (bf w 12 7) (bf w 5 7))
  | 0xB#5 => .ok (.imaxI32 (bf w 19 7) (bf w 12 7) (bf w 5 7))
  | 0xC#5 => .ok (.imaxN32 (bf w 19 7) (bf w 12 7) (bf w 5 7))
  | 0xD#5 => if bf w 5 7 = 0x0#7 then .ok (.iabs32 (bf w 19 7) (bf w 12 7))
    else .error .reservedField
  | 0xE#5 => .ok (.and32 (bf w 19 7) (bf w 12 7) (bf w 5 7))
  | 0xF#5 => .ok (.or32 (bf w 19 7) (bf w 12 7) (bf w 5 7))
  | 0x10#5 => .ok (.xor32 (bf w 19 7) (bf w 12 7) (bf w 5 7))
  | 0x11#5 => .ok (.andn32 (bf w 19 7) (bf w 12 7) (bf w 5 7))
  | 0x12#5 => .ok (.shl32 (bf w 19 7) (bf w 12 7) (bf w 5 7))
  | 0x13#5 => .ok (.shr32 (bf w 19 7) (bf w 12 7) (bf w 5 7))
  | 0x14#5 => .ok (.sra32 (bf w 19 7) (bf w 12 7) (bf w 5 7))
  | 0x15#5 => .ok (.rotl32 (bf w 19 7) (bf w 12 7) (bf w 5 7))
  | 0x16#5 => .ok (.imad32 (bf w 19 7) (bf w 12 7) (bf w 5 7))
  | _ => .error .reservedFunction

/-- Major 0x02 (R85, R86, R87): `IADD_64`, `ISUB_64`, `IMUL_64`, `IMULH_64`, and the rest of its table. -/
def decodeInt64 (w : Word) : Except Reject Instr :=
  match bf w 0 5 with
  | 0x0#5 => .ok (.iadd64 (bf w 19 7) (bf w 12 7) (bf w 5 7))
  | 0x1#5 => .ok (.isub64 (bf w 19 7) (bf w 12 7) (bf w 5 7))
  | 0x2#5 => .ok (.imul64 (bf w 19 7) (bf w 12 7) (bf w 5 7))
  | 0x3#5 => .ok (.imulh64 (bf w 19 7) (bf w 12 7) (bf w 5 7))
  | 0x4#5 => .ok (.imulhn64 (bf w 19 7) (bf w 12 7) (bf w 5 7))
  | 0x5#5 => .ok (.idiv64 (bf w 19 7) (bf w 12 7) (bf w 5 7))
  | 0x6#5 => .ok (.idivn64 (bf w 19 7) (bf w 12 7) (bf w 5 7))
  | 0x7#5 => .ok (.irem64 (bf w 19 7) (bf w 12 7) (bf w 5 7))
  | 0x8#5 => .ok (.iremn64 (bf w 19 7) (bf w 12 7) (bf w 5 7))
  | 0x9#5 => .ok (.iminI64 (bf w 19 7) (bf w 12 7) (bf w 5 7))
  | 0xA#5 => .ok (.iminN64 (bf w 19 7) (bf w 12 7) (bf w 5 7))
  | 0xB#5 => .ok (.imaxI64 (bf w 19 7) (bf w 12 7) (bf w 5 7))
  | 0xC#5 => .ok (.imaxN64 (bf w 19 7) (bf w 12 7) (bf w 5 7))
  | 0xD#5 => if bf w 5 7 = 0x0#7 then .ok (.iabs64 (bf w 19 7) (bf w 12 7))
    else .error .reservedField
  | 0xE#5 => .ok (.and64 (bf w 19 7) (bf w 12 7) (bf w 5 7))
  | 0xF#5 => .ok (.or64 (bf w 19 7) (bf w 12 7) (bf w 5 7))
  | 0x10#5 => .ok (.xor64 (bf w 19 7) (bf w 12 7) (bf w 5 7))
  | 0x11#5 => .ok (.andn64 (bf w 19 7) (bf w 12 7) (bf w 5 7))
  | 0x12#5 => .ok (.shl64 (bf w 19 7) (bf w 12 7) (bf w 5 7))
  | 0x13#5 => .ok (.shr64 (bf w 19 7) (bf w 12 7) (bf w 5 7))
  | 0x14#5 => .ok (.sra64 (bf w 19 7) (bf w 12 7) (bf w 5 7))
  | 0x15#5 => .ok (.rotl64 (bf w 19 7) (bf w 12 7) (bf w 5 7))
  | 0x16#5 => .ok (.imad64 (bf w 19 7) (bf w 12 7) (bf w 5 7))
  | _ => .error .reservedFunction

/-- Major 0x03 (R85, R86, R87): `POPC_32`, `POPC_64`, `CLZ_32`, `CLZ_64`, and the rest of its table. -/
def decodeBits (w : Word) : Except Reject Instr :=
  match bf w 0 5 with
  | 0x0#5 => if bf w 5 7 = 0x0#7 then .ok (.popc32 (bf w 19 7) (bf w 12 7))
    else .error .reservedField
  | 0x1#5 => if bf w 5 7 = 0x0#7 then .ok (.popc64 (bf w 19 7) (bf w 12 7))
    else .error .reservedField
  | 0x2#5 => if bf w 5 7 = 0x0#7 then .ok (.clz32 (bf w 19 7) (bf w 12 7))
    else .error .reservedField
  | 0x3#5 => if bf w 5 7 = 0x0#7 then .ok (.clz64 (bf w 19 7) (bf w 12 7))
    else .error .reservedField
  | 0x4#5 => if bf w 5 7 = 0x0#7 then .ok (.ctz32 (bf w 19 7) (bf w 12 7))
    else .error .reservedField
  | 0x5#5 => if bf w 5 7 = 0x0#7 then .ok (.ctz64 (bf w 19 7) (bf w 12 7))
    else .error .reservedField
  | 0x6#5 => if bf w 5 7 = 0x0#7 then .ok (.brev32 (bf w 19 7) (bf w 12 7))
    else .error .reservedField
  | 0x7#5 => if bf w 5 7 = 0x0#7 then .ok (.brev64 (bf w 19 7) (bf w 12 7))
    else .error .reservedField
  | 0x8#5 => .ok (.bfxI64 (bf w 19 7) (bf w 12 7) (bf w 5 7))
  | 0x9#5 => .ok (.bfxN64 (bf w 19 7) (bf w 12 7) (bf w 5 7))
  | 0xA#5 => .ok (.bfi (bf w 19 7) (bf w 12 7) (bf w 5 7))
  | 0xB#5 => .ok (.bilv (bf w 19 7) (bf w 12 7) (bf w 5 7))
  | 0xC#5 => .ok (.bdilv (bf w 19 7) (bf w 12 7) (bf w 5 7))
  | 0xD#5 => .ok (.perm8 (bf w 19 7) (bf w 12 7) (bf w 5 7))
  | 0xE#5 => .ok (.fsh32 (bf w 19 7) (bf w 12 7) (bf w 5 7))
  | 0xF#5 => .ok (.fsh64 (bf w 19 7) (bf w 12 7) (bf w 5 7))
  | 0x10#5 => if bf w 5 7 = 0x0#7 then .ok (.sextI8 (bf w 19 7) (bf w 12 7))
    else .error .reservedField
  | 0x11#5 => if bf w 5 7 = 0x0#7 then .ok (.sextI16 (bf w 19 7) (bf w 12 7))
    else .error .reservedField
  | 0x12#5 => if bf w 5 7 = 0x0#7 then .ok (.sextI32 (bf w 19 7) (bf w 12 7))
    else .error .reservedField
  | 0x13#5 => if bf w 5 7 = 0x0#7 then .ok (.zextN8 (bf w 19 7) (bf w 12 7))
    else .error .reservedField
  | 0x14#5 => if bf w 5 7 = 0x0#7 then .ok (.zextN16 (bf w 19 7) (bf w 12 7))
    else .error .reservedField
  | 0x15#5 => if bf w 5 7 = 0x0#7 then .ok (.zextN32 (bf w 19 7) (bf w 12 7))
    else .error .reservedField
  | 0x16#5 => if bf w 5 7 = 0x0#7 then .ok (.mov (bf w 19 7) (bf w 12 7))
    else .error .reservedField
  | 0x17#5 => .ok (.addr (bf w 19 7) (bf w 12 7) (bf w 5 7))
  | 0x18#5 => .ok (.dot4I8 (bf w 19 7) (bf w 12 7) (bf w 5 7))
  | 0x19#5 => .ok (.dot4N8 (bf w 19 7) (bf w 12 7) (bf w 5 7))
  | _ => .error .reservedFunction

/-- Major 0x04 (R85, R86, R87): `IADD_IMM_32`. -/
def decodeIaddImm32 (w : Word) : Except Reject Instr :=
  .ok (.iaddImm32 (bf w 19 7) (bf w 12 7) (bf w 0 12))

/-- Major 0x05 (R85, R86, R87): `IADD_IMM_64`. -/
def decodeIaddImm64 (w : Word) : Except Reject Instr :=
  .ok (.iaddImm64 (bf w 19 7) (bf w 12 7) (bf w 0 12))

/-- Major 0x06 (R85, R86, R87): `AND_IMM`. -/
def decodeAndImm (w : Word) : Except Reject Instr :=
  .ok (.andImm (bf w 19 7) (bf w 12 7) (bf w 0 12))

/-- Major 0x07 (R85, R86, R87): `OR_IMM`. -/
def decodeOrImm (w : Word) : Except Reject Instr :=
  .ok (.orImm (bf w 19 7) (bf w 12 7) (bf w 0 12))

/-- Major 0x08 (R85, R86, R87): `XOR_IMM`. -/
def decodeXorImm (w : Word) : Except Reject Instr :=
  .ok (.xorImm (bf w 19 7) (bf w 12 7) (bf w 0 12))

/-- Major 0x09 (R85, R86, R87): `SHL_IMM_32`, `SHL_IMM_64`, `SHR_IMM_32`, `SHR_IMM_64`, and the rest of its table. -/
def decodeShiftImm (w : Word) : Except Reject Instr :=
  match bf w 9 3 with
  | 0x0#3 => if bf w 5 4 = 0x0#4 then .ok (.shlImm32 (bf w 19 7) (bf w 12 7) (bf w 0 5))
    else .error .reservedField
  | 0x1#3 => if bf w 6 3 = 0x0#3 then .ok (.shlImm64 (bf w 19 7) (bf w 12 7) (bf w 0 6))
    else .error .reservedField
  | 0x2#3 => if bf w 5 4 = 0x0#4 then .ok (.shrImm32 (bf w 19 7) (bf w 12 7) (bf w 0 5))
    else .error .reservedField
  | 0x3#3 => if bf w 6 3 = 0x0#3 then .ok (.shrImm64 (bf w 19 7) (bf w 12 7) (bf w 0 6))
    else .error .reservedField
  | 0x4#3 => if bf w 5 4 = 0x0#4 then .ok (.sraImm32 (bf w 19 7) (bf w 12 7) (bf w 0 5))
    else .error .reservedField
  | 0x5#3 => if bf w 6 3 = 0x0#3 then .ok (.sraImm64 (bf w 19 7) (bf w 12 7) (bf w 0 6))
    else .error .reservedField
  | 0x6#3 => if bf w 5 4 = 0x0#4 then .ok (.rotlImm32 (bf w 19 7) (bf w 12 7) (bf w 0 5))
    else .error .reservedField
  | 0x7#3 => if bf w 6 3 = 0x0#3 then .ok (.rotlImm64 (bf w 19 7) (bf w 12 7) (bf w 0 6))
    else .error .reservedField

/-- Major 0x0A (R85, R86, R87): `MOVI`. -/
def decodeMovi (w : Word) : Except Reject Instr :=
  .ok (.movi (bf w 19 7) (bf w 0 19))

/-- Major 0x0B (R85, R86, R87): `fcmp` for the float types 8 to 10, `icmp` for every other type code (R75, R107). -/
def decodeCompare (w : Word) : Except Reject Instr :=
  if isFcmpType (bf w 0 4) then .ok (.fcmp (bf w 22 4) (bf w 18 4) (bf w 11 7) (bf w 4 7) (bf w 0 4))
  else .ok (.icmp (bf w 22 4) (bf w 18 4) (bf w 11 7) (bf w 4 7) (bf w 0 4))

/-- Major 0x0C (R85, R86, R87): `PSET`. -/
def decodePset (w : Word) : Except Reject Instr :=
  if bf w 0 10 = 0x0#10 then .ok (.pset (bf w 22 4) (bf w 18 4) (bf w 14 4) (bf w 10 4))
  else .error .reservedField

/-- Major 0x0D (R85, R86, R87): `BRA`. -/
def decodeBra (w : Word) : Except Reject Instr :=
  if bf w 20 1 = 0x0#1 then .ok (.bra (bf w 22 4) (bf w 21 1) (bf w 0 20))
  else .error .reservedField

/-- Major 0x0E (R85, R86, R87): `CALL`. -/
def decodeCall (w : Word) : Except Reject Instr :=
  if bf w 20 1 = 0x0#1 then .ok (.call (bf w 22 4) (bf w 21 1) (bf w 0 20))
  else .error .reservedField

/-- Major 0x0F (R85, R86, R87): `NOP`, `BRX`, `RET`, `EXIT`, and the rest of its table. -/
def decodeControl (w : Word) : Except Reject Instr :=
  match bf w 0 5 with
  | 0x0#5 => if bf w 5 21 = 0x0#21 then .ok .nop
    else .error .reservedField
  | 0x1#5 => if bf w 19 7 = 0x0#7 ∧ bf w 5 7 = 0x0#7 then .ok (.brx (bf w 12 7))
    else .error .reservedField
  | 0x2#5 => if bf w 19 7 = 0x0#7 ∧ bf w 5 7 = 0x0#7 then .ok (.ret (bf w 12 7))
    else .error .reservedField
  | 0x3#5 => if bf w 5 21 = 0x0#21 then .ok .exit
    else .error .reservedField
  | 0x4#5 => if bf w 5 21 = 0x0#21 then .ok .yieldTurn
    else .error .reservedField
  | 0x5#5 => if bf w 19 7 = 0x0#7 ∧ bf w 5 7 = 0x0#7 then .ok (.fuse (bf w 12 7))
    else .error .reservedField
  | 0x6#5 => if bf w 5 14 = 0x0#14 then .ok (.tick (bf w 19 7))
    else .error .reservedField
  | _ => .error .reservedFunction

/-- Major 0x10 (R85, R86, R87): `BALLOT`, `VOTE_ANY`, `VOTE_ALL`, `VOTE_EQ`, and the rest of its table. -/
def decodeLane (w : Word) : Except Reject Instr :=
  match bf w 0 5 with
  | 0x0#5 => .ok (.ballot (bf w 19 7) (bf w 12 7) (bf w 5 7))
  | 0x1#5 => .ok (.voteAny (bf w 19 7) (bf w 12 7) (bf w 5 7))
  | 0x2#5 => .ok (.voteAll (bf w 19 7) (bf w 12 7) (bf w 5 7))
  | 0x3#5 => .ok (.voteEq (bf w 19 7) (bf w 12 7) (bf w 5 7))
  | 0x4#5 => .ok (.match32 (bf w 19 7) (bf w 12 7) (bf w 5 7))
  | 0x5#5 => .ok (.match64 (bf w 19 7) (bf w 12 7) (bf w 5 7))
  | 0x6#5 => .ok (.shflIdx (bf w 19 7) (bf w 12 7) (bf w 5 7))
  | 0x7#5 => .ok (.shflUp (bf w 19 7) (bf w 12 7) (bf w 5 7))
  | 0x8#5 => .ok (.shflDn (bf w 19 7) (bf w 12 7) (bf w 5 7))
  | 0x9#5 => .ok (.shflXor (bf w 19 7) (bf w 12 7) (bf w 5 7))
  | 0xA#5 => .ok (.reduxAdd32 (bf w 19 7) (bf w 12 7) (bf w 5 7))
  | 0xB#5 => .ok (.reduxMinI32 (bf w 19 7) (bf w 12 7) (bf w 5 7))
  | 0xC#5 => .ok (.reduxMinN32 (bf w 19 7) (bf w 12 7) (bf w 5 7))
  | 0xD#5 => .ok (.reduxMaxI32 (bf w 19 7) (bf w 12 7) (bf w 5 7))
  | 0xE#5 => .ok (.reduxMaxN32 (bf w 19 7) (bf w 12 7) (bf w 5 7))
  | 0xF#5 => .ok (.reduxAnd (bf w 19 7) (bf w 12 7) (bf w 5 7))
  | 0x10#5 => .ok (.reduxOr (bf w 19 7) (bf w 12 7) (bf w 5 7))
  | 0x11#5 => .ok (.reduxXor (bf w 19 7) (bf w 12 7) (bf w 5 7))
  | 0x12#5 => .ok (.reduxAdd64 (bf w 19 7) (bf w 12 7) (bf w 5 7))
  | _ => .error .reservedFunction

/-- Major 0x11 (R85, R86, R87): `SYSRD`, `SYSWR_IMODE`, `SYSWR_SRG`, `FFLAGS_RD`, and the rest of its table. -/
def decodeSystem (w : Word) : Except Reject Instr :=
  if bf w 8 11 = 0x0#11 then .ok (.sysrd (bf w 19 7) (bf w 0 8))
  else if bf w 0 12 = 0x120#12 then .ok (.syswrImode (bf w 19 7) (bf w 12 7))
  else if bf w 0 12 = 0x121#12 then .ok (.syswrSrg (bf w 19 7) (bf w 12 7))
  else if bf w 0 19 = 0x200#19 then .ok (.fflagsRd (bf w 19 7))
  else if bf w 0 12 = 0x201#12 then .ok (.fflagsClr (bf w 19 7) (bf w 12 7))
  else if bf w 0 12 = 0x202#12 then .ok (.fflagsCtl (bf w 19 7) (bf w 12 7))
  else .error .reservedFunction

/-- Major 0x12 (R85, R86, R87): `MARK`, `TRAP`, `BRK`. -/
def decodeMark (w : Word) : Except Reject Instr :=
  match bf w 24 2 with
  | 0x0#2 => if bf w 20 4 = 0x0#4 then .ok .mark
    else .error .reservedField
  | 0x1#2 => if bf w 20 4 = 0x0#4 then .ok .trap
    else .error .reservedField
  | 0x2#2 => if bf w 20 4 = 0x0#4 then .ok .brk
    else .error .reservedField
  | _ => .error .reservedFunction

/-- Major 0x14 (R85, R86, R87): `FADD`, `FSUB`, `FMUL`, `FFMA`, and the rest of its table. -/
def decodeFloat (w : Word) : Except Reject Instr :=
  match bf w 0 5 with
  | 0x0#5 => .ok (.fadd (bf w 19 7) (bf w 12 7) (bf w 5 7))
  | 0x1#5 => .ok (.fsub (bf w 19 7) (bf w 12 7) (bf w 5 7))
  | 0x2#5 => .ok (.fmul (bf w 19 7) (bf w 12 7) (bf w 5 7))
  | 0x3#5 => .ok (.ffma (bf w 19 7) (bf w 12 7) (bf w 5 7))
  | 0x4#5 => .ok (.fmin (bf w 19 7) (bf w 12 7) (bf w 5 7))
  | 0x5#5 => .ok (.fmax (bf w 19 7) (bf w 12 7) (bf w 5 7))
  | 0x6#5 => .ok (.fminn (bf w 19 7) (bf w 12 7) (bf w 5 7))
  | 0x7#5 => .ok (.fmaxn (bf w 19 7) (bf w 12 7) (bf w 5 7))
  | 0x8#5 => if bf w 5 7 = 0x0#7 then .ok (.fabs (bf w 19 7) (bf w 12 7))
    else .error .reservedField
  | 0x9#5 => if bf w 5 7 = 0x0#7 then .ok (.fneg (bf w 19 7) (bf w 12 7))
    else .error .reservedField
  | 0xA#5 => if bf w 5 7 = 0x0#7 then .ok (.frcp (bf w 19 7) (bf w 12 7))
    else .error .reservedField
  | 0xB#5 => if bf w 5 7 = 0x0#7 then .ok (.frsq (bf w 19 7) (bf w 12 7))
    else .error .reservedField
  | 0xC#5 => if bf w 5 7 = 0x0#7 then .ok (.fsqrt (bf w 19 7) (bf w 12 7))
    else .error .reservedField
  | 0xD#5 => if bf w 5 7 = 0x0#7 then .ok (.fexp2 (bf w 19 7) (bf w 12 7))
    else .error .reservedField
  | 0xE#5 => if bf w 5 7 = 0x0#7 then .ok (.flog2 (bf w 19 7) (bf w 12 7))
    else .error .reservedField
  | 0xF#5 => if bf w 5 7 = 0x0#7 then .ok (.fsin (bf w 19 7) (bf w 12 7))
    else .error .reservedField
  | 0x10#5 => if bf w 5 7 = 0x0#7 then .ok (.fcos (bf w 19 7) (bf w 12 7))
    else .error .reservedField
  | 0x11#5 => if bf w 5 7 = 0x0#7 then .ok (.fclass (bf w 19 7) (bf w 12 7))
    else .error .reservedField
  | _ => .error .reservedFunction

/-- Major 0x15 (R85, R86, R87): `HADD2_F16`, `HADD2_BF16`, `HMUL2_F16`, `HMUL2_BF16`, and the rest of its table. -/
def decodePacked (w : Word) : Except Reject Instr :=
  match bf w 0 5 with
  | 0x0#5 => .ok (.hadd2F16 (bf w 19 7) (bf w 12 7) (bf w 5 7))
  | 0x1#5 => .ok (.hadd2Bf16 (bf w 19 7) (bf w 12 7) (bf w 5 7))
  | 0x2#5 => .ok (.hmul2F16 (bf w 19 7) (bf w 12 7) (bf w 5 7))
  | 0x3#5 => .ok (.hmul2Bf16 (bf w 19 7) (bf w 12 7) (bf w 5 7))
  | 0x4#5 => .ok (.hfma2F16 (bf w 19 7) (bf w 12 7) (bf w 5 7))
  | 0x5#5 => .ok (.hfma2Bf16 (bf w 19 7) (bf w 12 7) (bf w 5 7))
  | 0x6#5 => .ok (.fdot2F16 (bf w 19 7) (bf w 12 7) (bf w 5 7))
  | 0x7#5 => .ok (.fdot2Bf16 (bf w 19 7) (bf w 12 7) (bf w 5 7))
  | 0x8#5 => .ok (.f8dot4E4m3 (bf w 19 7) (bf w 12 7) (bf w 5 7))
  | 0x9#5 => .ok (.f8dot4E5m2 (bf w 19 7) (bf w 12 7) (bf w 5 7))
  | 0xA#5 => .ok (.fpackF16 (bf w 19 7) (bf w 12 7) (bf w 5 7))
  | 0xB#5 => .ok (.fpackBf16 (bf w 19 7) (bf w 12 7) (bf w 5 7))
  | 0xC#5 => .ok (.fpackE4m3 (bf w 19 7) (bf w 12 7) (bf w 5 7))
  | 0xD#5 => .ok (.fpackE5m2 (bf w 19 7) (bf w 12 7) (bf w 5 7))
  | _ => .error .reservedFunction

/-- Major 0x16 (R85, R86, R87): the pair TS, TD selects the operation (R75). -/
def decodeConvert (w : Word) : Except Reject Instr :=
  if bf w 0 1 = 0x0#1 then
    if isFrndPair (bf w 8 4) (bf w 4 4) then .ok (.frnd (bf w 19 7) (bf w 12 7) (bf w 8 4) (bf w 4 4) (bf w 1 3))
    else if isFcvtPair (bf w 8 4) (bf w 4 4) then .ok (.fcvt (bf w 19 7) (bf w 12 7) (bf w 8 4) (bf w 4 4) (bf w 1 3))
    else if isFcvtiPair (bf w 8 4) (bf w 4 4) then .ok (.fcvti (bf w 19 7) (bf w 12 7) (bf w 8 4) (bf w 4 4) (bf w 1 3))
    else if isIcvtfPair (bf w 8 4) (bf w 4 4) then .ok (.icvtf (bf w 19 7) (bf w 12 7) (bf w 8 4) (bf w 4 4) (bf w 1 3))
    else .error .reservedType
  else .error .reservedField

/-- Major 0x17 (R85, R86, R87): `ISEL`. -/
def decodeIsel (w : Word) : Except Reject Instr :=
  .ok (.isel (bf w 19 7) (bf w 12 7) (bf w 5 7) (bf w 1 4) (bf w 0 1))

/-- Major 0x18 (R85, R86, R87): `LD`. -/
def decodeLd (w : Word) : Except Reject Instr :=
  .ok (.ld (bf w 19 7) (bf w 12 7) (bf w 10 2) (bf w 7 3) (bf w 0 7))

/-- Major 0x19 (R85, R86, R87): `ST`. -/
def decodeSt (w : Word) : Except Reject Instr :=
  .ok (.st (bf w 19 7) (bf w 12 7) (bf w 10 2) (bf w 7 3) (bf w 0 7))

/-- Major 0x1A (R85, R86, R87): `LD_ACQ`. -/
def decodeLdAcq (w : Word) : Except Reject Instr :=
  .ok (.ldAcq (bf w 19 7) (bf w 12 7) (bf w 10 2) (bf w 7 3) (bf w 4 3) (bf w 0 4))

/-- Major 0x1B (R85, R86, R87): `ST_REL`. -/
def decodeStRel (w : Word) : Except Reject Instr :=
  .ok (.stRel (bf w 19 7) (bf w 12 7) (bf w 10 2) (bf w 7 3) (bf w 4 3) (bf w 0 4))

/-- Major 0x1C (R85, R86, R87): `LDX`. -/
def decodeLdx (w : Word) : Except Reject Instr :=
  .ok (.ldx (bf w 19 7) (bf w 12 7) (bf w 5 7) (bf w 3 2) (bf w 0 3))

/-- Major 0x1D (R85, R86, R87): `STX`. -/
def decodeStx (w : Word) : Except Reject Instr :=
  .ok (.stx (bf w 19 7) (bf w 12 7) (bf w 5 7) (bf w 3 2) (bf w 0 3))

/-- Major 0x1E (R85, R86, R87): `ATOM_ADD`, `ATOM_MIN`, `ATOM_MAX`, `ATOM_AND`, and the rest of its table. -/
def decodeAtom (w : Word) : Except Reject Instr :=
  if bf w 2 3 = 0x0#3 then .ok (.atomAdd (bf w 19 7) (bf w 12 7) (bf w 5 7) (bf w 0 2))
  else if bf w 2 3 = 0x1#3 then .ok (.atomMin (bf w 19 7) (bf w 12 7) (bf w 5 7) (bf w 0 2))
  else if bf w 2 3 = 0x2#3 then .ok (.atomMax (bf w 19 7) (bf w 12 7) (bf w 5 7) (bf w 0 2))
  else if bf w 1 4 = 0x6#4 then .ok (.atomAnd (bf w 19 7) (bf w 12 7) (bf w 5 7) (bf w 0 1))
  else if bf w 1 4 = 0x7#4 then .ok (.atomOr (bf w 19 7) (bf w 12 7) (bf w 5 7) (bf w 0 1))
  else if bf w 1 4 = 0x8#4 then .ok (.atomXor (bf w 19 7) (bf w 12 7) (bf w 5 7) (bf w 0 1))
  else if bf w 1 4 = 0x9#4 then .ok (.atomExch (bf w 19 7) (bf w 12 7) (bf w 5 7) (bf w 0 1))
  else if bf w 1 4 = 0xA#4 then .ok (.atomCas (bf w 19 7) (bf w 12 7) (bf w 5 7) (bf w 0 1))
  else if bf w 0 5 = 0x16#5 then .ok (.atomFadd (bf w 19 7) (bf w 12 7) (bf w 5 7))
  else if bf w 0 5 = 0x17#5 then .ok (.atomFmin (bf w 19 7) (bf w 12 7) (bf w 5 7))
  else if bf w 0 5 = 0x18#5 then .ok (.atomFmax (bf w 19 7) (bf w 12 7) (bf w 5 7))
  else if bf w 0 5 = 0x19#5 then .ok (.atomIncb (bf w 19 7) (bf w 12 7) (bf w 5 7))
  else if bf w 0 5 = 0x1A#5 then .ok (.atomDecb (bf w 19 7) (bf w 12 7) (bf w 5 7))
  else .error .reservedFunction

/-- Major 0x1F (R85, R86, R87): `ARED_ADD`, `ARED_MIN`, `ARED_MAX`, `ARED_AND`, and the rest of its table. -/
def decodeAred (w : Word) : Except Reject Instr :=
  if bf w 19 7 = 0x0#7 ∧ bf w 2 3 = 0x0#3 then .ok (.aredAdd (bf w 12 7) (bf w 5 7) (bf w 0 2))
  else if bf w 19 7 = 0x0#7 ∧ bf w 2 3 = 0x1#3 then .ok (.aredMin (bf w 12 7) (bf w 5 7) (bf w 0 2))
  else if bf w 19 7 = 0x0#7 ∧ bf w 2 3 = 0x2#3 then .ok (.aredMax (bf w 12 7) (bf w 5 7) (bf w 0 2))
  else if bf w 19 7 = 0x0#7 ∧ bf w 1 4 = 0x6#4 then .ok (.aredAnd (bf w 12 7) (bf w 5 7) (bf w 0 1))
  else if bf w 19 7 = 0x0#7 ∧ bf w 1 4 = 0x7#4 then .ok (.aredOr (bf w 12 7) (bf w 5 7) (bf w 0 1))
  else if bf w 19 7 = 0x0#7 ∧ bf w 1 4 = 0x8#4 then .ok (.aredXor (bf w 12 7) (bf w 5 7) (bf w 0 1))
  else if bf w 19 7 = 0x0#7 ∧ bf w 1 4 = 0x9#4 then .ok (.aredExch (bf w 12 7) (bf w 5 7) (bf w 0 1))
  else if bf w 19 7 = 0x0#7 ∧ bf w 0 5 = 0x16#5 then .ok (.aredFadd (bf w 12 7) (bf w 5 7))
  else if bf w 19 7 = 0x0#7 ∧ bf w 0 5 = 0x17#5 then .ok (.aredFmin (bf w 12 7) (bf w 5 7))
  else if bf w 19 7 = 0x0#7 ∧ bf w 0 5 = 0x18#5 then .ok (.aredFmax (bf w 12 7) (bf w 5 7))
  else if bf w 19 7 = 0x0#7 ∧ bf w 0 5 = 0x19#5 then .ok (.aredIncb (bf w 12 7) (bf w 5 7))
  else if bf w 19 7 = 0x0#7 ∧ bf w 0 5 = 0x1A#5 then .ok (.aredDecb (bf w 12 7) (bf w 5 7))
  else .error .reservedFunction

/-- Major 0x20 (R85, R86, R87): `FENCE`, `FENCE_ACQ`, `FENCE_REL`, `BAR_ARM`, and the rest of its table. -/
def decodeSync (w : Word) : Except Reject Instr :=
  match bf w 21 5 with
  | 0x0#5 => if bf w 0 18 = 0x0#18 then .ok (.fence (bf w 18 3))
    else .error .reservedField
  | 0x1#5 => if bf w 0 18 = 0x0#18 then .ok (.fenceAcq (bf w 18 3))
    else .error .reservedField
  | 0x2#5 => if bf w 0 18 = 0x0#18 then .ok (.fenceRel (bf w 18 3))
    else .error .reservedField
  | 0x3#5 => if bf w 18 3 = 0x0#3 then .ok (.barArm (bf w 14 4) (bf w 7 7) (bf w 0 7))
    else .error .reservedField
  | 0x4#5 => if bf w 0 7 = 0x0#7 then .ok (.barArrive (bf w 18 3) (bf w 14 4) (bf w 7 7))
    else .error .reservedField
  | 0x5#5 => if bf w 18 3 = 0x0#3 ∧ bf w 0 7 = 0x0#7 then .ok (.barExpect (bf w 14 4) (bf w 7 7))
    else .error .reservedField
  | 0x6#5 => if bf w 0 7 = 0x0#7 then .ok (.barWait (bf w 18 3) (bf w 14 4) (bf w 7 7))
    else .error .reservedField
  | 0x7#5 => if bf w 0 7 = 0x0#7 then .ok (.barSync (bf w 18 3) (bf w 14 4) (bf w 7 7))
    else .error .reservedField
  | 0x8#5 => if bf w 4 3 = 0x0#3 then .ok (.barTest (bf w 18 3) (bf w 14 4) (bf w 7 7) (bf w 0 4))
    else .error .reservedField
  | 0x9#5 => if bf w 0 21 = 0x0#21 then .ok .barSwap
    else .error .reservedField
  | 0xA#5 => if bf w 0 18 = 0x0#18 then .ok (.gsync (bf w 18 3))
    else .error .reservedField
  | 0xB#5 => if bf w 0 18 = 0x0#18 then .ok (.wsync (bf w 18 3))
    else .error .reservedField
  | 0xC#5 => if bf w 14 7 = 0x0#7 ∧ bf w 0 7 = 0x0#7 then .ok (.pref (bf w 7 7))
    else .error .reservedField
  | 0xD#5 => if bf w 14 7 = 0x0#7 then .ok (.cinv (bf w 7 7) (bf w 0 7))
    else .error .reservedField
  | 0xE#5 => if bf w 14 4 = 0x0#4 then .ok (.cwb (bf w 18 3) (bf w 7 7) (bf w 0 7))
    else .error .reservedField
  | 0xF#5 => if bf w 14 4 = 0x0#4 then .ok (.icinv (bf w 18 3) (bf w 7 7) (bf w 0 7))
    else .error .reservedField
  | _ => .error .reservedFunction

/-- Major 0x21 (R85, R86, R87): `XST`. -/
def decodeXst (w : Word) : Except Reject Instr :=
  .ok (.xst (bf w 19 7) (bf w 12 7) (bf w 10 2) (bf w 7 3) (bf w 0 7))

/-- Major 0x22 (R85, R86, R87): `STC_32`, `STC_64`, `LDE_32`, `LDE_64`. -/
def decodeCompress (w : Word) : Except Reject Instr :=
  match bf w 0 5 with
  | 0x0#5 => .ok (.stc32 (bf w 19 7) (bf w 12 7) (bf w 5 7))
  | 0x1#5 => .ok (.stc64 (bf w 19 7) (bf w 12 7) (bf w 5 7))
  | 0x2#5 => .ok (.lde32 (bf w 19 7) (bf w 12 7) (bf w 5 7))
  | 0x3#5 => .ok (.lde64 (bf w 19 7) (bf w 12 7) (bf w 5 7))
  | _ => .error .reservedFunction

/-- Major 0x23 (R85, R86, R87): `WALKSET`, `WALKLD_32`, `WALKLD_ROW`, `WALKLD_COL`, and the rest of its table. -/
def decodeWalk (w : Word) : Except Reject Instr :=
  match bf w 0 5 with
  | 0x0#5 => .ok (.walkset (bf w 19 7) (bf w 12 7) (bf w 5 7))
  | 0x1#5 => if bf w 5 7 = 0x0#7 then .ok (.walkld32 (bf w 19 7) (bf w 12 7))
    else if bf w 5 14 = 0x71#14 then .ok (.walkldRow (bf w 19 7))
    else if bf w 5 14 = 0x73#14 then .ok (.walkldCol (bf w 19 7))
    else .error .reservedField
  | 0x2#5 => if bf w 5 7 = 0x0#7 then .ok (.walkld64 (bf w 19 7) (bf w 12 7))
    else .error .reservedField
  | 0x3#5 => if bf w 5 7 = 0x0#7 then .ok (.walkst32 (bf w 19 7) (bf w 12 7))
    else .error .reservedField
  | 0x4#5 => if bf w 5 7 = 0x0#7 then .ok (.walkst64 (bf w 19 7) (bf w 12 7))
    else .error .reservedField
  | 0x5#5 => if bf w 5 14 = 0x0#14 then .ok (.walknext (bf w 19 7))
    else .error .reservedField
  | _ => .error .reservedFunction

/-- Major 0x24 (R85, R86, R87): `MMA`. -/
def decodeMma (w : Word) : Except Reject Instr :=
  .ok (.mma (bf w 21 5) (bf w 16 5) (bf w 13 3) (bf w 10 3) (bf w 6 4) (bf w 0 6))

/-- Major 0x25 (R85, R86, R87): `MTRANS`, `MPERM`, `MRSUM`. -/
def decodeTileOp (w : Word) : Except Reject Instr :=
  match bf w 24 2 with
  | 0x0#2 => if bf w 0 4 = 0x0#4 then .ok (.mtrans (bf w 19 5) (bf w 14 5) (bf w 11 3) (bf w 8 3) (bf w 4 4))
    else .error .reservedField
  | 0x1#2 => if bf w 0 4 = 0x0#4 then .ok (.mperm (bf w 19 5) (bf w 14 5) (bf w 11 3) (bf w 8 3) (bf w 4 4))
    else .error .reservedField
  | 0x2#2 => if bf w 0 4 = 0x0#4 then .ok (.mrsum (bf w 19 5) (bf w 14 5) (bf w 11 3) (bf w 8 3) (bf w 4 4))
    else .error .reservedField
  | _ => .error .reservedFunction

/-- Major 0x26 (R85, R86, R87): `GANG`, `ACCLD`, `ACCST`, `ACCZERO`, and the rest of its table. -/
def decodeMatrixCtl (w : Word) : Except Reject Instr :=
  match bf w 22 4 with
  | 0x0#4 => if bf w 14 5 = 0x0#5 ∧ bf w 0 7 = 0x0#7 then .ok (.gang (bf w 19 3) (bf w 7 7))
    else .error .reservedField
  | 0x1#4 => if bf w 0 14 = 0x0#14 then .ok (.accld (bf w 19 3) (bf w 14 5))
    else .error .reservedField
  | 0x2#4 => if bf w 0 14 = 0x0#14 then .ok (.accst (bf w 19 3) (bf w 14 5))
    else .error .reservedField
  | 0x3#4 => if bf w 0 19 = 0x0#19 then .ok (.acczero (bf w 19 3))
    else .error .reservedField
  | 0x4#4 => if bf w 0 19 = 0x0#19 then .ok (.mwait (bf w 19 3))
    else .error .reservedField
  | 0x5#4 => if bf w 19 3 = 0x0#3 ∧ bf w 0 7 = 0x0#7 then .ok (.mflags (bf w 14 5) (bf w 7 7))
    else .error .reservedField
  | _ => .error .reservedFunction

/-- Major 0x27 (R85, R86, R87): `TCFG`, `TBUILD`, `TLOOK`, `TINV`, and the rest of its table. -/
def decodeLookup (w : Word) : Except Reject Instr :=
  match bf w 23 3 with
  | 0x0#3 => if bf w 20 3 = 0x0#3 ∧ bf w 0 15 = 0x0#15 then .ok (.tcfg (bf w 15 5))
    else .error .reservedField
  | 0x1#3 => if bf w 0 15 = 0x0#15 then .ok (.tbuild (bf w 20 3) (bf w 15 5))
    else .error .reservedField
  | 0x2#3 => if bf w 20 3 = 0x0#3 ∧ bf w 0 4 = 0x0#4 then .ok (.tlook (bf w 15 5) (bf w 12 3) (bf w 4 8))
    else .error .reservedField
  | 0x3#3 => if bf w 12 11 = 0x0#11 ∧ bf w 0 4 = 0x0#4 then .ok (.tinv (bf w 4 8))
    else .error .reservedField
  | 0x4#3 => if bf w 0 15 = 0x0#15 then .ok (.tstat (bf w 20 3) (bf w 15 5))
    else .error .reservedField
  | 0x5#3 => if bf w 0 15 = 0x0#15 then .ok (.tspill (bf w 20 3) (bf w 15 5))
    else .error .reservedField
  | 0x6#3 => if bf w 0 15 = 0x0#15 then .ok (.tfill (bf w 20 3) (bf w 15 5))
    else .error .reservedField
  | 0x7#3 => if bf w 0 23 = 0x0#23 then .ok .twait
    else if bf w 20 3 = 0x1#3 ∧ bf w 0 15 = 0x0#15 then .ok (.twaitPoll (bf w 15 5))
    else .error .reservedField

/-- Major 0x28 (R85, R86, R87): `CPY`, `LAY`, `LAYQ`, `TOPK`, and the rest of its table. -/
def decodeEngine (w : Word) : Except Reject Instr :=
  match bf w 22 4 with
  | 0x0#4 => if bf w 1 7 = 0x0#7 then .ok (.cpy (bf w 18 4) (bf w 13 5) (bf w 8 5) (bf w 0 1))
    else .error .reservedField
  | 0x1#4 => if bf w 1 7 = 0x0#7 then .ok (.lay (bf w 18 4) (bf w 13 5) (bf w 8 5) (bf w 0 1))
    else .error .reservedField
  | 0x2#4 => if bf w 18 4 = 0x0#4 ∧ bf w 5 3 = 0x0#3 then .ok (.layq (bf w 13 5) (bf w 8 5) (bf w 0 5))
    else .error .reservedField
  | 0x3#4 => if bf w 1 12 = 0x0#12 then .ok (.topk (bf w 18 4) (bf w 13 5) (bf w 0 1))
    else .error .reservedField
  | 0x4#4 => if bf w 1 12 = 0x0#12 then .ok (.texp (bf w 18 4) (bf w 13 5) (bf w 0 1))
    else .error .reservedField
  | 0x5#4 => if bf w 1 12 = 0x0#12 then .ok (.coll (bf w 18 4) (bf w 13 5) (bf w 0 1))
    else .error .reservedField
  | 0x6#4 => if bf w 8 14 = 0x0#14 then .ok .cwait
    else .error .reservedField
  | _ => .error .reservedFunction

/-- Major 0x29 (R85, R86, R87): `REC`, `EMIT`, `EMITQ`, `EPORT`. -/
def decodeRecords (w : Word) : Except Reject Instr :=
  match bf w 23 3 with
  | 0x0#3 => if bf w 20 3 = 0x0#3 ∧ bf w 0 9 = 0x0#9 then .ok (.recInit (bf w 13 7) (bf w 9 4))
    else .error .reservedField
  | 0x1#3 => if bf w 0 20 = 0x0#20 then .ok (.emit (bf w 20 3))
    else .error .reservedField
  | 0x2#3 => if bf w 13 7 = 0x0#7 ∧ bf w 0 9 = 0x0#9 then .ok (.emitq (bf w 20 3) (bf w 9 4))
    else .error .reservedField
  | 0x3#3 => if bf w 0 20 = 0x0#20 then .ok (.eport (bf w 20 3))
    else .error .reservedField
  | _ => .error .reservedFunction

/-- Major 0x3E (R85, R86, R87): `PREFIX`. One with nonzero reserved bits is an undefined instruction, whatever follows it, a zero word too
(DESIGN CHOICE: notes/assumptions/103). -/
def decodePrefix (w : Word) : Except Reject Instr :=
  if bf w 0 8 = 0x0#8 then .ok .prefixWord
  else .error .reservedField

/-- Major 0x3F (R85, R86, R87): `WIDE_IMMEDIATE_HINT`, `MODIFIER_HINT`, `STALL_HINT`. A hint with nonzero reserved bits is an undefined
instruction, whatever follows it, a zero word too (DESIGN CHOICE: notes/assumptions/103). -/
def decodeHint (w : Word) : Except Reject Instr :=
  if bf w 25 1 = 0x1#1 then .ok .wideHint
  else if bf w 23 3 = 0x2#3 ∧ bf w 0 15 = 0x0#15 then .ok .modifierHint
  else if bf w 24 2 = 0x0#2 then .ok .stallHint
  else .error .reservedFunction

/-- The decoder's first level: major 0 first (R88), then the opcode map of R85. -/
def decodeWord (w : Word) : Except Reject Instr :=
  match bf w 26 6 with
  | 0x0#6 => if bf w 0 26 = 0x0#26 then .ok .zeroWord else .error .reservedMajor
  | 0x1#6 => decodeInt32 w
  | 0x2#6 => decodeInt64 w
  | 0x3#6 => decodeBits w
  | 0x4#6 => decodeIaddImm32 w
  | 0x5#6 => decodeIaddImm64 w
  | 0x6#6 => decodeAndImm w
  | 0x7#6 => decodeOrImm w
  | 0x8#6 => decodeXorImm w
  | 0x9#6 => decodeShiftImm w
  | 0xA#6 => decodeMovi w
  | 0xB#6 => decodeCompare w
  | 0xC#6 => decodePset w
  | 0xD#6 => decodeBra w
  | 0xE#6 => decodeCall w
  | 0xF#6 => decodeControl w
  | 0x10#6 => decodeLane w
  | 0x11#6 => decodeSystem w
  | 0x12#6 => decodeMark w
  | 0x14#6 => decodeFloat w
  | 0x15#6 => decodePacked w
  | 0x16#6 => decodeConvert w
  | 0x17#6 => decodeIsel w
  | 0x18#6 => decodeLd w
  | 0x19#6 => decodeSt w
  | 0x1A#6 => decodeLdAcq w
  | 0x1B#6 => decodeStRel w
  | 0x1C#6 => decodeLdx w
  | 0x1D#6 => decodeStx w
  | 0x1E#6 => decodeAtom w
  | 0x1F#6 => decodeAred w
  | 0x20#6 => decodeSync w
  | 0x21#6 => decodeXst w
  | 0x22#6 => decodeCompress w
  | 0x23#6 => decodeWalk w
  | 0x24#6 => decodeMma w
  | 0x25#6 => decodeTileOp w
  | 0x26#6 => decodeMatrixCtl w
  | 0x27#6 => decodeLookup w
  | 0x28#6 => decodeEngine w
  | 0x29#6 => decodeRecords w
  | 0x3E#6 => decodePrefix w
  | 0x3F#6 => decodeHint w
  | _ => .error .reservedMajor

/-- What the machine does with a fetched word: the instruction it decodes to, or the undefined instruction (R88). -/
def decode (w : Word) : Instr :=
  match decodeWord w with
  | .ok i => i
  | .error _ => .undefinedInstruction

/-- The word of an instruction, laid out from the formats of R72 and the codes of R85 to R87; an event has none. The
payload of the eight words that hold nothing else is taken from the instruction register `ir`. -/
def encode (i : Instr) (ir : Word) : Option Word :=
  match i with
  | .iadd32 d a b => some (0x1#6 ++ d ++ a ++ b ++ 0x0#5)
  | .iadd64 d a b => some (0x2#6 ++ d ++ a ++ b ++ 0x0#5)
  | .isub32 d a b => some (0x1#6 ++ d ++ a ++ b ++ 0x1#5)
  | .isub64 d a b => some (0x2#6 ++ d ++ a ++ b ++ 0x1#5)
  | .imul32 d a b => some (0x1#6 ++ d ++ a ++ b ++ 0x2#5)
  | .imul64 d a b => some (0x2#6 ++ d ++ a ++ b ++ 0x2#5)
  | .imulh32 d a b => some (0x1#6 ++ d ++ a ++ b ++ 0x3#5)
  | .imulh64 d a b => some (0x2#6 ++ d ++ a ++ b ++ 0x3#5)
  | .imulhn32 d a b => some (0x1#6 ++ d ++ a ++ b ++ 0x4#5)
  | .imulhn64 d a b => some (0x2#6 ++ d ++ a ++ b ++ 0x4#5)
  | .idiv32 d a b => some (0x1#6 ++ d ++ a ++ b ++ 0x5#5)
  | .idiv64 d a b => some (0x2#6 ++ d ++ a ++ b ++ 0x5#5)
  | .idivn32 d a b => some (0x1#6 ++ d ++ a ++ b ++ 0x6#5)
  | .idivn64 d a b => some (0x2#6 ++ d ++ a ++ b ++ 0x6#5)
  | .irem32 d a b => some (0x1#6 ++ d ++ a ++ b ++ 0x7#5)
  | .irem64 d a b => some (0x2#6 ++ d ++ a ++ b ++ 0x7#5)
  | .iremn32 d a b => some (0x1#6 ++ d ++ a ++ b ++ 0x8#5)
  | .iremn64 d a b => some (0x2#6 ++ d ++ a ++ b ++ 0x8#5)
  | .iminI32 d a b => some (0x1#6 ++ d ++ a ++ b ++ 0x9#5)
  | .iminI64 d a b => some (0x2#6 ++ d ++ a ++ b ++ 0x9#5)
  | .iminN32 d a b => some (0x1#6 ++ d ++ a ++ b ++ 0xA#5)
  | .iminN64 d a b => some (0x2#6 ++ d ++ a ++ b ++ 0xA#5)
  | .imaxI32 d a b => some (0x1#6 ++ d ++ a ++ b ++ 0xB#5)
  | .imaxI64 d a b => some (0x2#6 ++ d ++ a ++ b ++ 0xB#5)
  | .imaxN32 d a b => some (0x1#6 ++ d ++ a ++ b ++ 0xC#5)
  | .imaxN64 d a b => some (0x2#6 ++ d ++ a ++ b ++ 0xC#5)
  | .iabs32 d a => some (0x1#6 ++ d ++ a ++ 0xD#12)
  | .iabs64 d a => some (0x2#6 ++ d ++ a ++ 0xD#12)
  | .and32 d a b => some (0x1#6 ++ d ++ a ++ b ++ 0xE#5)
  | .and64 d a b => some (0x2#6 ++ d ++ a ++ b ++ 0xE#5)
  | .or32 d a b => some (0x1#6 ++ d ++ a ++ b ++ 0xF#5)
  | .or64 d a b => some (0x2#6 ++ d ++ a ++ b ++ 0xF#5)
  | .xor32 d a b => some (0x1#6 ++ d ++ a ++ b ++ 0x10#5)
  | .xor64 d a b => some (0x2#6 ++ d ++ a ++ b ++ 0x10#5)
  | .andn32 d a b => some (0x1#6 ++ d ++ a ++ b ++ 0x11#5)
  | .andn64 d a b => some (0x2#6 ++ d ++ a ++ b ++ 0x11#5)
  | .shl32 d a b => some (0x1#6 ++ d ++ a ++ b ++ 0x12#5)
  | .shl64 d a b => some (0x2#6 ++ d ++ a ++ b ++ 0x12#5)
  | .shr32 d a b => some (0x1#6 ++ d ++ a ++ b ++ 0x13#5)
  | .shr64 d a b => some (0x2#6 ++ d ++ a ++ b ++ 0x13#5)
  | .sra32 d a b => some (0x1#6 ++ d ++ a ++ b ++ 0x14#5)
  | .sra64 d a b => some (0x2#6 ++ d ++ a ++ b ++ 0x14#5)
  | .rotl32 d a b => some (0x1#6 ++ d ++ a ++ b ++ 0x15#5)
  | .rotl64 d a b => some (0x2#6 ++ d ++ a ++ b ++ 0x15#5)
  | .imad32 d a b => some (0x1#6 ++ d ++ a ++ b ++ 0x16#5)
  | .imad64 d a b => some (0x2#6 ++ d ++ a ++ b ++ 0x16#5)
  | .iaddImm32 d a i => some (0x4#6 ++ d ++ a ++ i)
  | .iaddImm64 d a i => some (0x5#6 ++ d ++ a ++ i)
  | .andImm d a i => some (0x6#6 ++ d ++ a ++ i)
  | .orImm d a i => some (0x7#6 ++ d ++ a ++ i)
  | .xorImm d a i => some (0x8#6 ++ d ++ a ++ i)
  | .shlImm32 d a k => some (0x9#6 ++ d ++ a ++ 0x0#7 ++ k)
  | .shlImm64 d a k => some (0x9#6 ++ d ++ a ++ 0x8#6 ++ k)
  | .shrImm32 d a k => some (0x9#6 ++ d ++ a ++ 0x20#7 ++ k)
  | .shrImm64 d a k => some (0x9#6 ++ d ++ a ++ 0x18#6 ++ k)
  | .sraImm32 d a k => some (0x9#6 ++ d ++ a ++ 0x40#7 ++ k)
  | .sraImm64 d a k => some (0x9#6 ++ d ++ a ++ 0x28#6 ++ k)
  | .rotlImm32 d a k => some (0x9#6 ++ d ++ a ++ 0x60#7 ++ k)
  | .rotlImm64 d a k => some (0x9#6 ++ d ++ a ++ 0x38#6 ++ k)
  | .movi d i => some (0xA#6 ++ d ++ i)
  | .popc32 d a => some (0x3#6 ++ d ++ a ++ 0x0#12)
  | .popc64 d a => some (0x3#6 ++ d ++ a ++ 0x1#12)
  | .clz32 d a => some (0x3#6 ++ d ++ a ++ 0x2#12)
  | .clz64 d a => some (0x3#6 ++ d ++ a ++ 0x3#12)
  | .ctz32 d a => some (0x3#6 ++ d ++ a ++ 0x4#12)
  | .ctz64 d a => some (0x3#6 ++ d ++ a ++ 0x5#12)
  | .brev32 d a => some (0x3#6 ++ d ++ a ++ 0x6#12)
  | .brev64 d a => some (0x3#6 ++ d ++ a ++ 0x7#12)
  | .bfxI64 d a b => some (0x3#6 ++ d ++ a ++ b ++ 0x8#5)
  | .bfxN64 d a b => some (0x3#6 ++ d ++ a ++ b ++ 0x9#5)
  | .bfi d a b => some (0x3#6 ++ d ++ a ++ b ++ 0xA#5)
  | .bilv d a b => some (0x3#6 ++ d ++ a ++ b ++ 0xB#5)
  | .bdilv d a b => some (0x3#6 ++ d ++ a ++ b ++ 0xC#5)
  | .perm8 d a b => some (0x3#6 ++ d ++ a ++ b ++ 0xD#5)
  | .fsh32 d a b => some (0x3#6 ++ d ++ a ++ b ++ 0xE#5)
  | .fsh64 d a b => some (0x3#6 ++ d ++ a ++ b ++ 0xF#5)
  | .sextI8 d a => some (0x3#6 ++ d ++ a ++ 0x10#12)
  | .sextI16 d a => some (0x3#6 ++ d ++ a ++ 0x11#12)
  | .sextI32 d a => some (0x3#6 ++ d ++ a ++ 0x12#12)
  | .zextN8 d a => some (0x3#6 ++ d ++ a ++ 0x13#12)
  | .zextN16 d a => some (0x3#6 ++ d ++ a ++ 0x14#12)
  | .zextN32 d a => some (0x3#6 ++ d ++ a ++ 0x15#12)
  | .mov d a => some (0x3#6 ++ d ++ a ++ 0x16#12)
  | .addr d a b => some (0x3#6 ++ d ++ a ++ b ++ 0x17#5)
  | .dot4I8 d a b => some (0x3#6 ++ d ++ a ++ b ++ 0x18#5)
  | .dot4N8 d a b => some (0x3#6 ++ d ++ a ++ b ++ 0x19#5)
  | .icmp p c a b t => some (0xB#6 ++ p ++ c ++ a ++ b ++ t)
  | .fcmp p c a b t => some (0xB#6 ++ p ++ c ++ a ++ b ++ t)
  | .pset p l a b => some (0xC#6 ++ p ++ l ++ a ++ b ++ 0x0#10)
  | .isel d a b p n => some (0x17#6 ++ d ++ a ++ b ++ p ++ n)
  | .bra p n o => some (0xD#6 ++ p ++ n ++ 0x0#1 ++ o)
  | .call p n o => some (0xE#6 ++ p ++ n ++ 0x0#1 ++ o)
  | .nop => some (0xF#6 ++ 0x0#26)
  | .brx a => some (0xF#6 ++ 0x0#7 ++ a ++ 0x1#12)
  | .ret a => some (0xF#6 ++ 0x0#7 ++ a ++ 0x2#12)
  | .exit => some (0xF#6 ++ 0x3#26)
  | .yieldTurn => some (0xF#6 ++ 0x4#26)
  | .fuse a => some (0xF#6 ++ 0x0#7 ++ a ++ 0x5#12)
  | .tick d => some (0xF#6 ++ d ++ 0x6#19)
  | .ballot d a b => some (0x10#6 ++ d ++ a ++ b ++ 0x0#5)
  | .voteAny d a b => some (0x10#6 ++ d ++ a ++ b ++ 0x1#5)
  | .voteAll d a b => some (0x10#6 ++ d ++ a ++ b ++ 0x2#5)
  | .voteEq d a b => some (0x10#6 ++ d ++ a ++ b ++ 0x3#5)
  | .match32 d a b => some (0x10#6 ++ d ++ a ++ b ++ 0x4#5)
  | .match64 d a b => some (0x10#6 ++ d ++ a ++ b ++ 0x5#5)
  | .shflIdx d a b => some (0x10#6 ++ d ++ a ++ b ++ 0x6#5)
  | .shflUp d a b => some (0x10#6 ++ d ++ a ++ b ++ 0x7#5)
  | .shflDn d a b => some (0x10#6 ++ d ++ a ++ b ++ 0x8#5)
  | .shflXor d a b => some (0x10#6 ++ d ++ a ++ b ++ 0x9#5)
  | .reduxAdd32 d a b => some (0x10#6 ++ d ++ a ++ b ++ 0xA#5)
  | .reduxMinI32 d a b => some (0x10#6 ++ d ++ a ++ b ++ 0xB#5)
  | .reduxMinN32 d a b => some (0x10#6 ++ d ++ a ++ b ++ 0xC#5)
  | .reduxMaxI32 d a b => some (0x10#6 ++ d ++ a ++ b ++ 0xD#5)
  | .reduxMaxN32 d a b => some (0x10#6 ++ d ++ a ++ b ++ 0xE#5)
  | .reduxAnd d a b => some (0x10#6 ++ d ++ a ++ b ++ 0xF#5)
  | .reduxOr d a b => some (0x10#6 ++ d ++ a ++ b ++ 0x10#5)
  | .reduxXor d a b => some (0x10#6 ++ d ++ a ++ b ++ 0x11#5)
  | .reduxAdd64 d a b => some (0x10#6 ++ d ++ a ++ b ++ 0x12#5)
  | .sysrd d s => some (0x11#6 ++ d ++ 0x0#11 ++ s)
  | .syswrImode d a => some (0x11#6 ++ d ++ a ++ 0x120#12)
  | .syswrSrg d a => some (0x11#6 ++ d ++ a ++ 0x121#12)
  | .fflagsRd d => some (0x11#6 ++ d ++ 0x200#19)
  | .fflagsClr d a => some (0x11#6 ++ d ++ a ++ 0x201#12)
  | .fflagsCtl d a => some (0x11#6 ++ d ++ a ++ 0x202#12)
  | .mark => some (0x12#6 ++ 0x0#6 ++ bf ir 0 20)
  | .trap => some (0x12#6 ++ 0x10#6 ++ bf ir 0 20)
  | .brk => some (0x12#6 ++ 0x20#6 ++ bf ir 0 20)
  | .fadd d a b => some (0x14#6 ++ d ++ a ++ b ++ 0x0#5)
  | .fsub d a b => some (0x14#6 ++ d ++ a ++ b ++ 0x1#5)
  | .fmul d a b => some (0x14#6 ++ d ++ a ++ b ++ 0x2#5)
  | .ffma d a b => some (0x14#6 ++ d ++ a ++ b ++ 0x3#5)
  | .fmin d a b => some (0x14#6 ++ d ++ a ++ b ++ 0x4#5)
  | .fmax d a b => some (0x14#6 ++ d ++ a ++ b ++ 0x5#5)
  | .fminn d a b => some (0x14#6 ++ d ++ a ++ b ++ 0x6#5)
  | .fmaxn d a b => some (0x14#6 ++ d ++ a ++ b ++ 0x7#5)
  | .fabs d a => some (0x14#6 ++ d ++ a ++ 0x8#12)
  | .fneg d a => some (0x14#6 ++ d ++ a ++ 0x9#12)
  | .frcp d a => some (0x14#6 ++ d ++ a ++ 0xA#12)
  | .frsq d a => some (0x14#6 ++ d ++ a ++ 0xB#12)
  | .fsqrt d a => some (0x14#6 ++ d ++ a ++ 0xC#12)
  | .fexp2 d a => some (0x14#6 ++ d ++ a ++ 0xD#12)
  | .flog2 d a => some (0x14#6 ++ d ++ a ++ 0xE#12)
  | .fsin d a => some (0x14#6 ++ d ++ a ++ 0xF#12)
  | .fcos d a => some (0x14#6 ++ d ++ a ++ 0x10#12)
  | .fclass d a => some (0x14#6 ++ d ++ a ++ 0x11#12)
  | .hadd2F16 d a b => some (0x15#6 ++ d ++ a ++ b ++ 0x0#5)
  | .hadd2Bf16 d a b => some (0x15#6 ++ d ++ a ++ b ++ 0x1#5)
  | .hmul2F16 d a b => some (0x15#6 ++ d ++ a ++ b ++ 0x2#5)
  | .hmul2Bf16 d a b => some (0x15#6 ++ d ++ a ++ b ++ 0x3#5)
  | .hfma2F16 d a b => some (0x15#6 ++ d ++ a ++ b ++ 0x4#5)
  | .hfma2Bf16 d a b => some (0x15#6 ++ d ++ a ++ b ++ 0x5#5)
  | .fdot2F16 d a b => some (0x15#6 ++ d ++ a ++ b ++ 0x6#5)
  | .fdot2Bf16 d a b => some (0x15#6 ++ d ++ a ++ b ++ 0x7#5)
  | .f8dot4E4m3 d a b => some (0x15#6 ++ d ++ a ++ b ++ 0x8#5)
  | .f8dot4E5m2 d a b => some (0x15#6 ++ d ++ a ++ b ++ 0x9#5)
  | .fpackF16 d a b => some (0x15#6 ++ d ++ a ++ b ++ 0xA#5)
  | .fpackBf16 d a b => some (0x15#6 ++ d ++ a ++ b ++ 0xB#5)
  | .fpackE4m3 d a b => some (0x15#6 ++ d ++ a ++ b ++ 0xC#5)
  | .fpackE5m2 d a b => some (0x15#6 ++ d ++ a ++ b ++ 0xD#5)
  | .frnd d a s t r => some (0x16#6 ++ d ++ a ++ s ++ t ++ r ++ 0x0#1)
  | .fcvt d a s t r => some (0x16#6 ++ d ++ a ++ s ++ t ++ r ++ 0x0#1)
  | .fcvti d a s t r => some (0x16#6 ++ d ++ a ++ s ++ t ++ r ++ 0x0#1)
  | .icvtf d a s t r => some (0x16#6 ++ d ++ a ++ s ++ t ++ r ++ 0x0#1)
  | .ld d a s z o => some (0x18#6 ++ d ++ a ++ s ++ z ++ o)
  | .st d a s z o => some (0x19#6 ++ d ++ a ++ s ++ z ++ o)
  | .ldAcq d a s z c o => some (0x1A#6 ++ d ++ a ++ s ++ z ++ c ++ o)
  | .stRel d a s z c o => some (0x1B#6 ++ d ++ a ++ s ++ z ++ c ++ o)
  | .ldx d a b s z => some (0x1C#6 ++ d ++ a ++ b ++ s ++ z)
  | .stx d a b s z => some (0x1D#6 ++ d ++ a ++ b ++ s ++ z)
  | .atomAdd d a b t => some (0x1E#6 ++ d ++ a ++ b ++ (0x0#3 ++ t))
  | .atomMin d a b t => some (0x1E#6 ++ d ++ a ++ b ++ (0x1#3 ++ t))
  | .atomMax d a b t => some (0x1E#6 ++ d ++ a ++ b ++ (0x2#3 ++ t))
  | .atomAnd d a b t => some (0x1E#6 ++ d ++ a ++ b ++ (0x6#4 ++ t))
  | .atomOr d a b t => some (0x1E#6 ++ d ++ a ++ b ++ (0x7#4 ++ t))
  | .atomXor d a b t => some (0x1E#6 ++ d ++ a ++ b ++ (0x8#4 ++ t))
  | .atomExch d a b t => some (0x1E#6 ++ d ++ a ++ b ++ (0x9#4 ++ t))
  | .atomCas d a b t => some (0x1E#6 ++ d ++ a ++ b ++ (0xA#4 ++ t))
  | .atomFadd d a b => some (0x1E#6 ++ d ++ a ++ b ++ 0x16#5)
  | .atomFmin d a b => some (0x1E#6 ++ d ++ a ++ b ++ 0x17#5)
  | .atomFmax d a b => some (0x1E#6 ++ d ++ a ++ b ++ 0x18#5)
  | .atomIncb d a b => some (0x1E#6 ++ d ++ a ++ b ++ 0x19#5)
  | .atomDecb d a b => some (0x1E#6 ++ d ++ a ++ b ++ 0x1A#5)
  | .aredAdd a b t => some (0x1F#6 ++ 0x0#7 ++ a ++ b ++ (0x0#3 ++ t))
  | .aredMin a b t => some (0x1F#6 ++ 0x0#7 ++ a ++ b ++ (0x1#3 ++ t))
  | .aredMax a b t => some (0x1F#6 ++ 0x0#7 ++ a ++ b ++ (0x2#3 ++ t))
  | .aredAnd a b t => some (0x1F#6 ++ 0x0#7 ++ a ++ b ++ (0x6#4 ++ t))
  | .aredOr a b t => some (0x1F#6 ++ 0x0#7 ++ a ++ b ++ (0x7#4 ++ t))
  | .aredXor a b t => some (0x1F#6 ++ 0x0#7 ++ a ++ b ++ (0x8#4 ++ t))
  | .aredExch a b t => some (0x1F#6 ++ 0x0#7 ++ a ++ b ++ (0x9#4 ++ t))
  | .aredFadd a b => some (0x1F#6 ++ 0x0#7 ++ a ++ b ++ 0x16#5)
  | .aredFmin a b => some (0x1F#6 ++ 0x0#7 ++ a ++ b ++ 0x17#5)
  | .aredFmax a b => some (0x1F#6 ++ 0x0#7 ++ a ++ b ++ 0x18#5)
  | .aredIncb a b => some (0x1F#6 ++ 0x0#7 ++ a ++ b ++ 0x19#5)
  | .aredDecb a b => some (0x1F#6 ++ 0x0#7 ++ a ++ b ++ 0x1A#5)
  | .fence s => some (0x20#6 ++ 0x0#5 ++ s ++ 0x0#18)
  | .fenceAcq s => some (0x20#6 ++ 0x1#5 ++ s ++ 0x0#18)
  | .fenceRel s => some (0x20#6 ++ 0x2#5 ++ s ++ 0x0#18)
  | .barArm r a b => some (0x20#6 ++ 0x18#8 ++ r ++ a ++ b)
  | .barArrive s r a => some (0x20#6 ++ 0x4#5 ++ s ++ r ++ a ++ 0x0#7)
  | .barExpect r a => some (0x20#6 ++ 0x28#8 ++ r ++ a ++ 0x0#7)
  | .barWait s r a => some (0x20#6 ++ 0x6#5 ++ s ++ r ++ a ++ 0x0#7)
  | .barSync s r a => some (0x20#6 ++ 0x7#5 ++ s ++ r ++ a ++ 0x0#7)
  | .barTest s r a p => some (0x20#6 ++ 0x8#5 ++ s ++ r ++ a ++ 0x0#3 ++ p)
  | .barSwap => some (0x20#6 ++ 0x1200000#26)
  | .gsync s => some (0x20#6 ++ 0xA#5 ++ s ++ 0x0#18)
  | .wsync s => some (0x20#6 ++ 0xB#5 ++ s ++ 0x0#18)
  | .pref a => some (0x20#6 ++ 0x600#12 ++ a ++ 0x0#7)
  | .cinv a b => some (0x20#6 ++ 0x680#12 ++ a ++ b)
  | .cwb s a b => some (0x20#6 ++ 0xE#5 ++ s ++ 0x0#4 ++ a ++ b)
  | .icinv s a b => some (0x20#6 ++ 0xF#5 ++ s ++ 0x0#4 ++ a ++ b)
  | .xst d a e z o => some (0x21#6 ++ d ++ a ++ e ++ z ++ o)
  | .stc32 d a b => some (0x22#6 ++ d ++ a ++ b ++ 0x0#5)
  | .stc64 d a b => some (0x22#6 ++ d ++ a ++ b ++ 0x1#5)
  | .lde32 d a b => some (0x22#6 ++ d ++ a ++ b ++ 0x2#5)
  | .lde64 d a b => some (0x22#6 ++ d ++ a ++ b ++ 0x3#5)
  | .walkset d a b => some (0x23#6 ++ d ++ a ++ b ++ 0x0#5)
  | .walkld32 d a => some (0x23#6 ++ d ++ a ++ 0x1#12)
  | .walkldRow d => some (0x23#6 ++ d ++ 0xE21#19)
  | .walkldCol d => some (0x23#6 ++ d ++ 0xE61#19)
  | .walkld64 d a => some (0x23#6 ++ d ++ a ++ 0x2#12)
  | .walkst32 d a => some (0x23#6 ++ d ++ a ++ 0x3#12)
  | .walkst64 d a => some (0x23#6 ++ d ++ a ++ 0x4#12)
  | .walknext d => some (0x23#6 ++ d ++ 0x5#19)
  | .mma a b c g r m => some (0x24#6 ++ a ++ b ++ c ++ g ++ r ++ m)
  | .mtrans a b c g r => some (0x25#6 ++ 0x0#2 ++ a ++ b ++ c ++ g ++ r ++ 0x0#4)
  | .mperm a b c g r => some (0x25#6 ++ 0x1#2 ++ a ++ b ++ c ++ g ++ r ++ 0x0#4)
  | .mrsum a b c g r => some (0x25#6 ++ 0x2#2 ++ a ++ b ++ c ++ g ++ r ++ 0x0#4)
  | .gang i a => some (0x26#6 ++ 0x0#4 ++ i ++ 0x0#5 ++ a ++ 0x0#7)
  | .accld i s => some (0x26#6 ++ 0x1#4 ++ i ++ s ++ 0x0#14)
  | .accst i s => some (0x26#6 ++ 0x2#4 ++ i ++ s ++ 0x0#14)
  | .acczero i => some (0x26#6 ++ 0x3#4 ++ i ++ 0x0#19)
  | .mwait n => some (0x26#6 ++ 0x4#4 ++ n ++ 0x0#19)
  | .mflags s a => some (0x26#6 ++ 0x28#7 ++ s ++ a ++ 0x0#7)
  | .tcfg s => some (0x27#6 ++ 0x0#6 ++ s ++ 0x0#15)
  | .tbuild t s => some (0x27#6 ++ 0x1#3 ++ t ++ s ++ 0x0#15)
  | .tlook s c m => some (0x27#6 ++ 0x10#6 ++ s ++ c ++ m ++ 0x0#4)
  | .tinv m => some (0x27#6 ++ 0x1800#14 ++ m ++ 0x0#4)
  | .tstat t s => some (0x27#6 ++ 0x4#3 ++ t ++ s ++ 0x0#15)
  | .tspill t s => some (0x27#6 ++ 0x5#3 ++ t ++ s ++ 0x0#15)
  | .tfill t s => some (0x27#6 ++ 0x6#3 ++ t ++ s ++ 0x0#15)
  | .twait => some (0x27#6 ++ 0x3800000#26)
  | .twaitPoll s => some (0x27#6 ++ 0x39#6 ++ s ++ 0x0#15)
  | .cpy r s t n => some (0x28#6 ++ 0x0#4 ++ r ++ s ++ t ++ 0x0#7 ++ n)
  | .lay r s h n => some (0x28#6 ++ 0x1#4 ++ r ++ s ++ h ++ 0x0#7 ++ n)
  | .layq s h d => some (0x28#6 ++ 0x20#8 ++ s ++ h ++ 0x0#3 ++ d)
  | .topk r s n => some (0x28#6 ++ 0x3#4 ++ r ++ s ++ 0x0#12 ++ n)
  | .texp r s n => some (0x28#6 ++ 0x4#4 ++ r ++ s ++ 0x0#12 ++ n)
  | .coll r s n => some (0x28#6 ++ 0x5#4 ++ r ++ s ++ 0x0#12 ++ n)
  | .cwait => some (0x28#6 ++ 0x18000#18 ++ bf ir 0 8)
  | .recInit a s => some (0x29#6 ++ 0x0#6 ++ a ++ s ++ 0x0#9)
  | .emit p => some (0x29#6 ++ 0x1#3 ++ p ++ 0x0#20)
  | .emitq p q => some (0x29#6 ++ 0x2#3 ++ p ++ 0x0#7 ++ q ++ 0x0#9)
  | .eport p => some (0x29#6 ++ 0x3#3 ++ p ++ 0x0#20)
  | .prefixWord => some (0x3E#6 ++ bf ir 22 4 ++ bf ir 21 1 ++ bf ir 20 1 ++ bf ir 17 3 ++ bf ir 15 2 ++ bf ir 8 7 ++ 0x0#8)
  | .wideHint => some (0x3F#6 ++ 0x1#1 ++ bf ir 0 25)
  | .modifierHint => some (0x3F#6 ++ 0x2#3 ++ bf ir 20 3 ++ bf ir 18 2 ++ bf ir 16 2 ++ bf ir 15 1 ++ 0x0#15)
  | .stallHint => some (0x3F#6 ++ 0x0#2 ++ bf ir 0 24)
  | .zeroWord => some (0x0#6 ++ 0x0#26)
  | _ => none

/-- The condition under which a constructor's fields are its own: the six rows that share a match and a mask with
another are told apart by their type codes (R75); every other word constructor takes any fields. -/
def Instr.canonical (i : Instr) : Bool :=
  match i with
  | .icmp _ _ _ _ t => !isFcmpType t
  | .fcmp _ _ _ _ t => isFcmpType t
  | .frnd _ _ s t _ => isFrndPair s t
  | .fcvt _ _ s t _ => isFcvtPair s t
  | .fcvti _ _ s t _ => isFcvtiPair s t
  | .icvtf _ _ s t _ => isIcvtfPair s t
  | _ => true

/-- The instruction the decoder reads from a word given as a number (bit 0 the least significant bit of the word). -/
def decodeTableWord (nbits w : Nat) : Option Instr :=
  if nbits = 32 then
    match decodeWord (BitVec.ofNat 32 w) with
    | .ok i => some i
    | .error _ => none
  else none

end Sys2Proof
end

