-- ==== Sys2Proof/Config.lean ====
section
/-! DEFINITION. What an implementation fixes, and the values the spec leaves open. An open value is an opaque constant
applied to the number of free values drawn so far (`State.freeCtr`): nothing can be proved of it but its width. -/

namespace Sys2Proof

/-- A value that the spec leaves open, of 64 bits: which of several racing values a byte takes (R1, R226), whether an
operation to an unreachable package is performed (R351), what an element of a survivor's buffer holds (R361), which
entry of a disagreeing run translates (R344), what the outside answers, what a timing counter reads. -/
opaque Config.freeValue : Nat → BitVec 64

/-- The digest of the boot ROM, which MR0 is extended with at boot (R387). The spec gives no ROM. -/
opaque Config.romDigest : Unit → BitVec 384

/-- The device identity key (R391), made at manufacture within the security block, which it never leaves
(DESIGN CHOICE: notes/assumptions/13). -/
opaque Config.deviceKey : Unit → Nat

/-- The one-time number of a signature, by a number that tells one signing from another (R391)
(DESIGN CHOICE: notes/assumptions/13). -/
opaque Config.signingNumber : Nat → Nat

/-- Byte `i` of the device's certificate chain in DER (R391). -/
opaque Config.certificate : Nat → Byte

/-- The length of the certificate chain in bytes (R393). -/
opaque Config.certificateLength : Unit → Nat

/-- Whether a request to the slices of a die, by its number among them, is served from the L2: what the L2 holds apart from memory, the
spec leaves open (R381; DEDUCED: notes/assumptions/17). -/
opaque Config.l2Hit : Nat → Nat → Bool

/-- The highest point of the clock ladder (R384). -/
def Config.topPoint : Nat := 20

/-- The bytes of a quire (R37). -/
def Config.quire : Nat := 196608

/-- The bytes of the image slot (R388). -/
def Config.slotBytes : Nat := 64 * 1024 * 1024

/-- The chunks of a die's record store (R297). -/
def Config.chunks : Nat := 65536

/-- The ticks after which a held reservation pre-empts (R306). -/
def Config.reservationTicks : Nat := 65536

end Sys2Proof
end

