-- ==== Sys2Proof/Machine/State.lean ====
section
/-! DEFINITION. The state of the module as plain data: threads, groups, workgroups, engines, graphs, contexts, queues,
the device's registers and memory; what stops a step; and the state after reset. -/

namespace Sys2Proof.Machine

open Sys2Proof

/-! ### What stops a step -/

/-- What stops the machine. Every fault that the spec describes is taken as a next state (R328 to R339). -/
inductive Fault where
  /-- The module has lost power (R393, POWER_LOSS): nothing runs until power returns. Raised by `step` and by events
  that find the power off. Safe: the hardware does nothing either. -/
  | noPower
  deriving DecidableEq, Repr

/-- Why an instruction has no meaning in a state. -/
inductive Refusal where
  /-- The instruction is not modelled yet. Raised by arms of `exec`. Safe. -/
  | notModelled (mnemonic : String)
  /-- An instruction word was handed to `exec` while `State.cur` names no threads to execute it. `step` never does so.
  Safe: no hardware situation corresponds to it. -/
  | noThread
  deriving DecidableEq, Repr

/-! ### Names of threads and of what a thread holds -/

/-- A thread of the machine: its workgroup, its group and its index in the group (GTID, R36). -/
structure ThreadId where
  wg : Nat
  grp : Nat
  gtid : Nat
  deriving DecidableEq, Repr, Inhabited

/-- A place of a thread that an instruction writes and a later one reads (R84): a named register, a queue slot by its
slot number (R23), a predicate. -/
inductive Target where
  | named (n : Nat)
  | slot (s : Nat)
  | pred (n : Nat)
  deriving DecidableEq, Repr

/-- A fixed-latency write that a reader could still miss (R84): the place, the value there before, the stall clock at
the producer's issue, the producer's latency and its PC. -/
structure FixedWrite where
  target : Target
  before : Reg
  clock : Nat
  lat : Nat
  pc : BitVec 56
  deriving DecidableEq, Repr

/-- A variable-latency result on its way (R22 to R24) (DEDUCED: notes/assumptions/8). -/
structure Arrival where
  target : Target
  value : Reg
  deriving DecidableEq, Repr

/-- A slot of the result queue (R23). -/
structure QSlot where
  val : Reg
  pending : Bool
  deriving DecidableEq, Repr

/-- The fields of a prefix word (R76). -/
structure Prefix where
  mps : BitVec 4
  mneg : BitVec 1
  pol : BitVec 1
  rnd : BitVec 3
  cuse : BitVec 2
  c : BitVec 7
  deriving DecidableEq, Repr

/-- The fields of a modifier hint (R80). -/
structure Modifier where
  sco : BitVec 3
  ord : BitVec 2
  cp : BitVec 2
  nt : BitVec 1
  deriving DecidableEq, Repr

/-- The words of the instruction group in progress (R67): the wide hints, the modifier hint and the prefix met since
the group's first word (DEDUCED: notes/assumptions/6). -/
structure Words where
  wides : List (BitVec 25)
  modifier : Option Modifier
  pre : Option Prefix
  deriving DecidableEq, Repr

/-- How many words of the group have been taken. -/
def Words.count (w : Words) : Nat :=
  w.wides.length + (if w.modifier.isSome then 1 else 0) + (if w.pre.isSome then 1 else 0)

/-- No words in progress. -/
def Words.none : Words := { wides := [], modifier := .none, pre := .none }

/-- The cause codes of R329. -/
inductive Cause where
  | zeroWord | undefinedInstruction | registerRange | uniformDivergence | stallUnderrun | unallocatedResource
  | nonCanonical | misalignedAddress | misalignedTarget | scratchpadRange | readOnlySpace | windowRange | clusterRank
  | collectiveMask | collectiveMismatch | barrierCount | barrierConflict | unarmedBarrier | barrierOverrun
  | brokenBarrier | gangConfiguration | gangMismatch | gangAbort | walkConfiguration | walkState
  | matrixDescriptor | unimplementedCombination | matrixIndex | lookupDescriptor | staleTable | tableRange
  | engineDescriptor | copyMismatch | unboundPort | recursionBound | softwareTrap | breakpoint | haltRequest
  | graphStall | notPresent | readDenied | writeDenied | executeDenied | tableFormat | machineCheck
  deriving DecidableEq, Repr

/-- The fault-state image of a thread (R328). -/
structure FaultImage where
  cause : BitVec 8
  pc : BitVec 56
  faddr : Reg
  acc : BitVec 2
  unit : BitVec 2
  aux : BitVec 56
  deriving DecidableEq, Repr

/-- What a thread waits on (R16). A waiting thread stays at its instruction; when what it waits on comes about it either
proceeds or, where the table says "issues again", becomes runnable at the same instruction. -/
inductive Wait where
  /-- Runnable. -/
  | running
  /-- At a group-uniform instruction (R28); issues again when the group's live threads change. -/
  | uniform
  /-- At a lane collective (R118): mask word, data operand, fourth operand, and whether a queue slot was reserved. -/
  | lane (mask data fourth : Reg) (reserved : Bool)
  /-- At `stc` or `lde` (R158): mask word, base, data, and whether the prefix mask made the thread active. -/
  | compress (mask base data : Reg) (active reserved : Bool)
  /-- At a Denusk conversion (R138): the value supplied, whether active, and whether a slot was reserved. -/
  | denusk (data : Reg) (active reserved : Bool)
  /-- At `gsync`, `wsync` or `bar.swap` (R155, R157): which, and the scope. -/
  | sync (form : Nat) (scope : BitVec 3)
  /-- In `bar.wait` or in the wait of `bar.sync` (R153): barrier, parity, scope. -/
  | barrier (b : Nat) (par : Bool) (scope : BitVec 3)
  /-- At `fuse` until a tick (R115). -/
  | fuse (deadline : Nat)
  /-- At a gang latch (R178). -/
  | latch
  /-- At the formation of a `cpy` (R223), or at a `coll` that waits for a gang launch's decision (R365); issues again when
  the workgroup's live threads change or the decision arrives. -/
  | formation
  /-- In a blocked `emit` (R245): the port. The record waits in the target's queue. -/
  | emitting (port : Nat)
  /-- On an engine completion or on room in an engine queue (R187, R207, R218, R250, R318, R323); issues again. -/
  | engine
  deriving DecidableEq, Repr

/-- Whether a thread still runs (R14, R335). -/
inductive Life where
  | live | exited | killed
  deriving DecidableEq, Repr

/-- A load that a thread has performed ahead of its place in program order (R255): where its bytes lie (global memory by
physical address, or a window of the workgroup), how many they are, whether it read at the home slice, what it read, and, for an
acquire load, its scope, whether a release may pair with it (R259), and the moment of the acquire (DESIGN CHOICE: notes/assumptions/9). -/
structure EarlyRead where
  global : Bool
  addr : Nat
  home : Bool
  bytes : List Byte
  acq : Option (Nat × Bool) := none
  moment : Nat := 0
  deriving DecidableEq, Repr

/-- A thread (R20). -/
structure Thread where
  regs : Vector Reg 64
  queue : List QSlot
  qseq : Nat
  preds : BitVec 12
  tsw : BitVec 32
  imode : BitVec 2
  srg : BitVec 32
  pc : BitVec 56
  recbuf : Vector Reg 16
  pcnt : Nat
  fault : FaultImage
  ports : BitVec 8
  life : Life
  wait : Wait
  stalls : List (BitVec 4)
  clock : Nat
  hist : List FixedWrite
  arriving : List Arrival
  words : Words
  /-- The number of the thread's last issue, which orders turns (R10). -/
  lastIssue : Nat
  /-- The weave the thread belongs to, named by the lowest GTID of it when it was formed (R11). -/
  weave : Nat
  /-- Whether the thread's last instruction was a `yield`, which ended its turn (R250). -/
  yielded : Bool
  /-- The tick since which the thread has been ready without issuing (R308). -/
  readyAt : Nat
  /-- The loads performed ahead of program order, oldest first (R255). -/
  early : List EarlyRead
  /-- The generation under which the request of the thread's next access was hashed and the bucket that it went to, once it has
  been sent and until the access is performed (R281). -/
  request : Option (Nat × Nat)
  /-- The widest scope of the release fences that the thread has executed: its later writes are writes of a release at that scope
  (R261). -/
  fenced : Option Nat
  /-- Whether the thread's weave has been ready for 16,384 core clocks without issuing (R308). -/
  aged : Bool
  /-- Whether the instruction group that the thread stands at has been counted as issued (R381). -/
  counted : Bool
  deriving DecidableEq, Repr

/-! ### Groups -/

/-- How a group stands with respect to faults (R337, R338): running, parked or halted under a fault-log entry. -/
inductive Stop where
  | running
  | parked (seq : Nat)
  | halted (seq : Nat)
  deriving DecidableEq, Repr

/-- A ragged walk (R163 to R166): the descriptor's fields, the grant, the cursor, the sum of the lengths of the rows
before the cursor's, the length read for the cursor's row, and the assignment of each thread. -/
structure Walk where
  stride : Nat
  rows : Nat
  outbase : Reg
  inbase : Reg
  lentab : Reg
  ph : Nat
  pv : Nat
  pack : Bool
  align : Nat
  width : Nat
  row : Nat
  col : Nat
  base : Nat
  len : Option Nat
  assigned : List (Option (Nat × Nat × Nat))
  deriving DecidableEq, Repr

/-- A group (R8, R20). -/
structure Group where
  role : Nat
  allot : Nat
  firstTid : Nat
  quad : Nat
  slot : Nat
  /-- The first quad and the slot at launch, which R36 reports for the threads' lifetime. -/
  birthQuad : Nat
  birthSlot : Nat
  threads : List Thread
  scalars : Vector Reg 32
  gsel : BitVec 2
  efmt : BitVec 2
  walk : Option Walk
  pendFault : Option (BitVec 23)
  poll : Reg
  matrixCount : Nat
  lookupCount : Nat
  engineCount : Nat
  cpyIssued : Nat
  /-- At a gang latch (R178): the gang, the instruction word, and the values of SA and SB. A group whose threads the
  command still holds back for room in the queue stands there too. -/
  latch : Option (List Reg)
  /-- At a `cpy` formation (R223): the eight descriptor words, the slice word, BR, IMM and the number S. -/
  formation : Option (List Reg)
  /-- The fault-log entries under which the group is parked or halted, the latest first; it runs when there is none. -/
  holds : List Stop
  deriving DecidableEq, Repr

/-! ### Workgroups -/

/-- A barrier register (R30). -/
structure Barrier where
  armed : Bool
  phase : Bool
  broken : Bool
  expect : Nat
  arrive : Nat
  bytesExp : Nat
  bytesArr : Nat
  deriving DecidableEq, Repr

/-- A gang register (R31). -/
structure Gang where
  valid : Bool
  members : BitVec 16
  deriving DecidableEq, Repr

/-- The state of a table register (R33). -/
inductive TableState where
  | invalid | valid | stale | evicted
  deriving DecidableEq, Repr

/-- A table register (R33): its state image and its entries, (index, FP32 code) with rising indexes and no zero code. -/
structure Table where
  state : TableState
  gsel : BitVec 2
  efmt : BitVec 2
  sfmt : BitVec 2
  ngroups : Nat
  srclen : Nat
  srcbase : Nat
  entries : List (Nat × BitVec 32)
  deriving DecidableEq, Repr

/-- A word held in an L1 (R271): its word address (physical address over 4), its value, whether the L1 owns it, whether its
line carries `.kl1` (R276). A word not listed is not valid. -/
structure L1Word where
  addr : Nat
  value : BitVec 32
  owned : Bool
  keep : Bool
  deriving DecidableEq, Repr

/-- A write-through that its home has not performed yet (R272, R281): the physical address, the bytes, whether it takes
ownership of its words, the map generation and the sequence number it carries (the count of the workgroup's requests to its
bucket), the tick at which it was sent, the scope of the release that it is, if it is one (R260), the group whose thread made the
store, and the moment of it (R226). -/
structure WriteThrough where
  addr : Nat
  bytes : List Byte
  owns : Bool
  gen : Nat
  seq : Nat
  sent : Nat
  rel : Option Nat := none
  grp : Nat := 0
  moment : Nat := 0
  deriving DecidableEq, Repr

/-- Bytes that another workgroup's multicast copy has sent to a workgroup's window and that a thread of it need not see yet
(R224, R264): their offset and the bytes (DESIGN CHOICE: notes/assumptions/18). -/
structure Inbound where
  off : Nat
  bytes : List Byte
  deriving DecidableEq, Repr

/-- Whether a workgroup is on a core (R306). A saved workgroup carries whether it was saved in full (PREEMPT 2). -/
inductive Residency where
  | resident
  | preempted (full : Bool)
  | complete (killed : Bool)
  deriving DecidableEq, Repr

/-- A memory or table of words kept as (index, word) pairs, indexes rising, no zero word. -/
abbrev Words32 := List (Nat × BitVec 32)

/-! ### Engines -/

/-- A byte that a command has read and not written yet (R226): the window it goes to, or global memory; its offset or physical
address; its value. -/
structure Afloat where
  wg : Option Nat
  addr : Nat
  byte : Byte
  deriving DecidableEq, Repr

/-- A command accepted by an engine (R168, R193, R215, R225, R318): the word, the workgroup, the group that issued it,
the groups whose completion count it raised, the scalar operands read at acceptance (for `cpy` then the slices, one per
group), what it read from memory or scratchpad at acceptance, the tables it found, its barrier if it delivers, its slack (for a command
of the lookup engine the snapshot slots it holds, R323), the number of
commands the engine had completed at acceptance, the order of acceptance, how much of it is done, whether it is
stopped by a translation fault, whether its workgroup has been killed, so that it ends at its next split granule (R335), the
bytes that it has read and not written yet, and how many bytes' landing has still to be delivered to its barrier (R226). -/
structure Command where
  op : Instr
  wg : Nat
  grp : Nat
  counted : List (Nat × Nat)
  regs : List Reg
  data : List Byte
  tables : List Table
  bar : Option Nat
  slack : Nat
  completedAt : Nat
  order : Nat
  progress : Nat
  stopped : Bool
  dying : Bool
  afloat : List Afloat
  owed : Nat
  deriving DecidableEq, Repr

/-- A workgroup (R8, R20, R30 to R41). -/
structure Workgroup where
  id : Nat
  ctx : Nat
  graph : Nat
  node : Nat
  launch : Nat
  depth : Nat
  rank : Nat
  peers : List Nat
  core : Nat
  /-- The core at launch, which R36 reports for the threads' lifetime. -/
  birthCore : Nat
  res : Residency
  since : Nat
  regq : Nat
  spadq : Nat
  l1q : Nat
  exch : Nat
  tilesHeld : Nat
  tablesHeld : Nat
  groups : List Group
  barriers : Vector Barrier 16
  gangs : Vector Gang 4
  tiles : Vector Words32 8
  tables : Vector Table 8
  eflags : BitVec 5
  spad : List Host.Cell
  shadow : List Host.Cell
  records : List Byte
  recSize : Nat
  per : Nat
  recCount : Nat
  l1 : List L1Word
  writes : List WriteThrough
  /-- The workgroup's count of its requests to each bucket (R281), buckets by `State.bucketKey`. -/
  reqSeq : List (Nat × Nat)
  /-- What has been sent to the window and has not landed there yet, oldest first. -/
  inbound : List Inbound
  /-- The engine commands saved with a pre-empted workgroup (R326, R341), in their service order. -/
  saved : List Command
  deriving DecidableEq, Repr

/-! ### Cores -/

/-- A reservation of a core (R304): the candidate's graph and node, the launch to be resumed (none for a new one), the
launch's quires, tiles and tables, and the tick of the reservation. -/
structure Reservation where
  graph : Nat
  node : Nat
  launch : Option Nat
  quires : Nat
  tiles : Nat
  tables : Nat
  since : Nat
  deriving DecidableEq, Repr

/-- A core's queues and engines (R168, R193, R225) and its reservation (R304). -/
structure Core where
  matrix : List Command
  lookup : List Command
  copy : List Command
  copyRunning : Option Nat
  copyCompleted : Nat
  reserved : Option Reservation
  deriving DecidableEq, Repr

/-! ### Graphs and regions -/

/-- The values of a region control block that a graph read at its launch, unset fields resolved under R15; a budget
of none is no limit. -/
structure Region where
  index : Nat
  parent : Option Nat
  wgs : Option Nat
  quires : Option Nat
  tiles : Option Nat
  rsbytes : Option Nat
  prio : Nat
  policy : Nat
  preempt : Nat
  timeout : Nat
  seed : BitVec 32
  deriving DecidableEq, Repr

/-- A role of a program node (R293). -/
structure Role where
  entry : BitVec 56
  regs : Nat
  groups : Nat
  threads : Nat
  deriving DecidableEq, Repr

/-- An out-port entry (R293). -/
structure Port where
  valid : Bool
  remote : Bool
  compl : Bool
  pkg : Nat
  node : Nat
  rdepth : Nat
  deriving DecidableEq, Repr

/-- The kinds of node (R292). -/
inductive NodeKind where
  | program | copy | join
  deriving DecidableEq, Repr

/-- A node descriptor as read at launch (R292). -/
structure NodeDesc where
  kind : NodeKind
  clust : Nat
  final : Bool
  gather : Nat
  home : Nat
  rsize : Nat
  imode : BitVec 2
  depth : Nat
  tiles : Nat
  tables : Nat
  regq : Nat
  spadq : Nat
  l1q : Nat
  exch : Nat
  rcb : Nat
  per : Nat
  timer : Nat
  cap : Nat
  min : Nat
  ports : List Port
  roles : List Role
  body : List Reg
  deriving DecidableEq, Repr

/-- A record in a queue (R297): its bytes, its depth, the tick it entered, its source (a node of this package, or none
for the host or another package), and the chunk it lies in. -/
structure Rec where
  bytes : List Byte
  depth : Nat
  entered : Nat
  chunk : Nat
  deriving DecidableEq, Repr

/-- Where a chunk of the record store comes from (R297). -/
inductive ChunkSource where
  | reserve | pool | spill
  deriving DecidableEq, Repr

/-- A chunk that a queue has taken: how many of its slots have been filled and how many of its records remain. -/
structure Chunk where
  id : Nat
  source : ChunkSource
  filled : Nat
  live : Nat
  deriving DecidableEq, Repr

/-- Who waits to place a record (R245, R297): a thread, the host's launch packet, a `texp` of a core, a copy-node launch, a
fired join, another package, or a redirected final-gather record (R300). -/
inductive Emitter where
  | thread (t : ThreadId)
  | host
  | texp (core order : Nat)
  | copyNode (launch : Nat)
  | join (node : Nat)
  | remote (pkg : Nat)
  | redirect (node : Nat)
  deriving DecidableEq, Repr

/-- A record waiting to enter a queue. -/
structure Waiting where
  who : Emitter
  bytes : List Byte
  depth : Nat
  deriving DecidableEq, Repr

/-- A copy-node launch under way (R234): its records still to be forwarded, the depth of the launch, the cluster of its
tambour, once the first record's `lay` has completed the ports that record has yet to be emitted to, and the fault-log entry
that holds it, if one does (R334). -/
structure CopyLaunch where
  id : Nat
  records : List Rec
  depth : Nat
  cluster : Nat
  forwarding : Option (List Nat)
  heldBy : Option Nat
  deriving DecidableEq, Repr

/-- The state of a node of a running graph (R297 to R302). -/
structure Node where
  desc : NodeDesc
  queue : List Rec
  waiting : List Waiting
  chunks : List Chunk
  nextChunk : Nat
  launches : Nat
  finalClosed : Bool
  candidateSince : Option Nat
  timerDue : Bool
  killed : Bool
  joinLeft : Nat
  joinDepth : Nat
  fired : Bool
  held : List (Nat × List Rec)
  copyLaunches : List CopyLaunch
  deriving DecidableEq, Repr

/-- The stall of a region (R19, R307): since when its two conditions hold together, the last issue of its workgroups when
they were last seen to hold, and whether the fault has been delivered for it. -/
structure StallTimer where
  region : Nat
  since : Nat
  mark : Nat
  delivered : Bool
  deriving DecidableEq, Repr

/-- A graph instance (R291 to R311). Its queue is that of its launch packet (4,096 for a member of a gang launch), and it is
feeding while records of the packet have yet to be enqueued. -/
structure Graph where
  id : Nat
  ctx : Nat
  queue : Nat
  graphid : BitVec 32
  entry : Nat
  nodes : List Node
  regions : List Region
  hostLeft : List (List Byte)
  feeding : Bool
  fscope : Nat
  sigaddr : Reg
  sigval : Reg
  stataddr : Reg
  faults : Nat
  overflow : Nat
  stranded : Nat
  /-- The remote records in flight, oldest first: node, port and tick of the emit (R355, R356). -/
  remoteOut : List (Nat × Nat × Nat)
  credits : List ((Nat × Nat) × Nat)
  stalls : List StallTimer
  deriving DecidableEq, Repr

/-! ### Host queues -/

/-- A host queue (R287 to R290): its context, ring base, ring size, tickets; TAIL, HEAD; the packets copied and not
processed; its pass; whether it was eligible when it was last considered (R290), whether a wait packet holds it (R289), and
whether it has stopped (R339). -/
structure HostQueue where
  ctx : Nat
  enabled : Bool
  base : Reg
  size : Nat
  tickets : Nat
  tail : Nat
  head : Nat
  buffer : List (List Byte)
  pass : Nat
  eligible : Bool
  blocked : Bool
  stopped : Bool
  deriving DecidableEq, Repr

/-! ### Deliveries under service -/

/-- A parked or halted delivery's fault-log entry (R331, R332): its context, sequence number, its place in the ring,
the groups that wait, the deliveries sharing it, the page of a translation delivery, the copy nodes whose deliveries it holds,
the threads that go on after their instruction, and the engine commands that it holds, by order of acceptance. -/
structure Service where
  ctx : Nat
  seq : Nat
  place : Nat
  groups : List (Nat × Nat)
  count : Nat
  page : Option Reg
  nodes : List (Nat × Nat)
  skip : List ThreadId
  orders : List Nat
  deriving DecidableEq, Repr

/-! ### Contexts -/

/-- A context: its block (R394) and its management page (R386). -/
structure Context where
  id : Nat
  pasid : Nat
  sliceGroup : Nat
  root : Reg
  rcbBase : Reg
  logBase : Reg
  logSize : Nat
  logVector : Nat
  saveBase : Reg
  saveSize : Nat
  saveUsed : Nat
  bindBase : Reg
  commBase : Reg
  fabricTimeout : Nat
  lazy : Bool
  failed : Bool
  hregion : BitVec 24
  traceEn : Bool
  brkEn : Bool
  brkpc : Vector Reg 4
  dbgsel : Reg
  traceBase : Reg
  traceSize : Reg
  traceProd : Reg
  traceCons : Reg
  traceDropped : Nat
  sbase : Reg
  sctl : Reg
  sprod : Reg
  counters : List (Nat × Nat)
  sampled : Option Nat
  attreq : Reg
  cevt : Reg
  gangLaunch : Reg
  flprod : Reg
  flcons : Reg
  fllost : Reg
  nextSeq : Nat
  service : Reg
  deriving DecidableEq, Repr

/-! ### Translation, slices, links, collectives, gang launches -/

/-- A cached translation (R346): the context, the virtual base and size (as a power of two) of the page, the physical
base, and the permissions. -/
structure Translation where
  ctx : Nat
  va : Nat
  size : Nat
  pa : Nat
  x : Bool
  w : Bool
  r : Bool
  deriving DecidableEq, Repr

/-- The states of a scale-up port (R350). -/
inductive LinkState where
  | down | detect | train | verify | up | failed
  deriving DecidableEq, Repr

/-- A scale-up port: its state, its unsuccessful training attempts, and the tick at which it entered the state. -/
structure Link where
  state : LinkState
  attempts : Nat
  since : Nat
  deriving DecidableEq, Repr

/-- A collective of this package that has been accepted (R357 to R361): its command, its number on its communicator,
the rank of this package, the participants' packages in rank order, and which participants are halted. -/
structure Coll where
  id : Nat
  cmd : Command
  ctx : Nat
  comm : Nat
  number : Nat
  rank : Nat
  members : List Nat
  halted : List Nat
  since : Nat
  deriving DecidableEq, Repr

/-- The answer of a member of a gang launch to its prepare (R363). -/
inductive GangAnswer where
  | none | ack | refused (code : Nat)
  deriving DecidableEq, Repr

/-- A gang launch led by this package (R362, R363). -/
structure GangLead where
  id : Nat
  ctx : Nat
  gstat : Reg
  members : List Nat
  answers : List GangAnswer
  decision : Option Bool
  confirmed : List Nat
  since : Nat
  repeated : Nat
  deriving DecidableEq, Repr

/-- A member's part in a gang launch (R363 to R365): the leader's package, the launch's number there, the mode, the
communicator, the packet as prepared, and the graph once started (eager, or after commit). -/
structure GangMember where
  leader : Nat
  id : Nat
  ctx : Nat
  eager : Bool
  comm : Nat
  packet : List Byte
  graph : Option Nat
  decision : Option Bool
  deriving DecidableEq, Repr

/-- What a package tells the other participants of a collective (R359, R360). -/
inductive CollNotice where
  | halted | resumed | abandoned
  deriving DecidableEq, Repr

/-- A request of one access as it leaves the package (R349): a read of a number of bytes, a write, or one atomic operation of
R147 by its OP, with its operand and its fourth operand. -/
inductive Request where
  | read (n : Nat)
  | write (bytes : List Byte)
  | atomic (op b c : Nat)
  deriving DecidableEq, Repr

/-- What this package has sent to another (R349, R353 to R365), and to the peer behind a CXL port (R369)
(DESIGN CHOICE: notes/assumptions/36). -/
inductive Message where
  | record (pkg ctx node : Nat) (graphid : BitVec 32) (bytes : List Byte) (depth : Nat)
  | credit (pkg ctx node : Nat) (graphid : BitVec 32)
  | refusal (pkg ctx node : Nat) (graphid : BitVec 32)
  | access (pkg ctx : Nat) (offset : Nat) (what : Request)
  | peerAccess (port : Nat) (offset : Nat) (what : Request)
  | collNotice (pkg comm number : Nat) (what : CollNotice)
  | collData (pkg comm number : Nat) (bytes : List Byte)
  | prepare (pkg ctx id : Nat) (eager : Bool) (comm : Nat) (packet : List Byte)
  | answer (pkg id : Nat) (a : GangAnswer)
  | decision (pkg id : Nat) (commit : Bool)
  | confirm (pkg id : Nat)
  | reply (pkg : Nat) (bytes : List Byte) (cause : Option Cause)
  | error (pkg : Nat)
  deriving DecidableEq, Repr

/-- A remote record waiting at this package for an instance of its graph (R356). -/
structure RemoteRecord where
  pkg : Nat
  ctx : Nat
  node : Nat
  graphid : BitVec 32
  bytes : List Byte
  depth : Nat
  since : Nat
  deriving DecidableEq, Repr

/-! ### What acts next -/

/-- A byte that has been overwritten (R189, R226): the window it lies in, or global memory; its offset or physical address; what it
held; the number that the next accepted command was to have; the engine command that wrote it, if one did; the group whose
thread did, and the moment; and the commands accepted since before which the write is not ordered. -/
structure Overwritten where
  wg : Option Nat
  addr : Nat
  old : Byte
  stamp : Nat
  writer : Option Nat
  grp : Option (Nat × Nat) := none
  moment : Nat := 0
  races : List Nat := []
  deriving DecidableEq, Repr

/-- A byte of global memory whose value is of a release write, or of an atomic of its release sequence (R260, R261): its physical
address, the releasing workgroup, and the scope. -/
structure Released where
  addr : Nat
  wg : Nat
  scope : Nat
  deriving DecidableEq, Repr

/-- What the outside world, or the choice of the moment, supplies to an event: a thread; the number of a core, cluster,
die, port, queue, context, graph or collective, and a second one; an address; a value; a yes or no; bytes. Each
event's meaning says which it reads (DESIGN CHOICE: notes/assumptions/4, 92). -/
structure Input where
  tid : ThreadId
  unit : Nat
  sub : Nat
  addr : Reg
  val : Reg
  ok : Bool
  data : List Byte
  deriving DecidableEq, Repr

/-- The threads that issue together: threads of one group at one PC (R10, R11), by GTID, rising. -/
structure IssueSet where
  wg : Nat
  grp : Nat
  gtids : List Nat
  deriving DecidableEq, Repr

/-- Where an uncorrectable error of the hardware is met (R284, R285, R339): by an access of threads that issue; in a word of a
workgroup's L1; in a clean sector of the L2; by nobody that the hardware can name; by the command that an engine is about to
perform (0 matrix, 1 lookup, 2 copy engine of a core; 3 tambour of a cluster; 4 the collective of a number), in a record of a node's queue, or by the command
processor or the translation service as it acts for a context (DESIGN CHOICE: notes/assumptions/85). -/
inductive Damage where
  | access (u : IssueSet)
  | l1 (wg : Nat)
  | clean
  | unattributed
  | command (engine unit : Nat)
  | record (graph node : Nat)
  | context (ctx : Nat)
  deriving DecidableEq, Repr

/-- A turn of the agenda: threads issue a word; an event comes about; the tick moves on; an uncorrectable error is met, with its
physical address or the structure it lies in, the pair of error counters it is counted in, and the bits as read when it lies in
a dirty sector of the L2; a correctable one is counted;
firmware puts a context into lazy-release mode or takes it out (R268); a thread performs a plain load of a size from a space
ahead of its place, at the home slice or not, or an acquire load of a scope (R255); the request of a thread's next access is sent to a bucket (R281); bytes sent to a
workgroup's window land (R224); some of the bytes of a running copy or layout command land before the others (R226); the host writes its own memory, as it is seen under a PASID or without one (R367). -/
inductive Turn where
  | issue (u : IssueSet)
  | event (i : Instr) (inp : Input)
  | advance (n : Nat)
  | damage (d : Damage) (addr : Reg) (pair : Nat) (dirty : Option (List Byte))
  | corrected (pair : Nat)
  | lazyMode (ctx : Nat) (on : Bool)
  | early (t : ThreadId) (space : BitVec 2) (addr : Reg) (n : Nat) (home : Bool)
  | earlyAcquire (t : ThreadId) (space : BitVec 2) (addr : Reg) (n : Nat) (scope : Nat)
  | send (t : ThreadId) (bucket : Nat)
  | land (wg : Nat)
  | partway (tambour : Bool) (unit : Nat)
  | hostWrite (pasid : Option Nat) (addr : Reg) (bytes : List Byte)
  deriving DecidableEq, Repr

/-! ### The module -/

/-- The state of the module. -/
structure State where
  /-- The instruction register: the word in hand. The model's own field. -/
  ir : Word
  /-- What is supplied to the event in hand. The model's own field. -/
  input : Input
  /-- What acts next, in order. The model's own field (DESIGN CHOICE: notes/assumptions/1). -/
  agenda : List Turn
  /-- The threads executing the word in hand. The model's own field (DESIGN CHOICE: notes/assumptions/1). -/
  cur : Option IssueSet
  /-- The number of the next workgroup, graph, command or collective. The model's own field. -/
  nextId : Nat
  /-- The number of issues so far (R10). The model's own field. -/
  issues : Nat
  /-- How many free values have been drawn. The model's own field (DESIGN CHOICE: notes/assumptions/15). -/
  freeCtr : Nat
  tick : Nat
  mem : List Host.Cell
  /-- The host's memory (R352, R367): the bytes at its bus addresses, and, from 2^64 × (PASID + 1) up, those that it shows
  under a PASID (DESIGN CHOICE: notes/assumptions/84). -/
  hostMem : List Host.Cell
  /-- The bytes overwritten that an engine command may still read as they were, newest first (R189, R226). The model's own field. -/
  overwritten : List Overwritten
  /-- How many acquires there have been: what orders writes and acquires (R226). The model's own field. -/
  moment : Nat
  /-- For each group, by workgroup and number, the moment of its last acquire, by its reach: under 0 at `.wg` or wider, under 1 at
  `.clu` or wider, under 2 of scratchpad alone (R189, R226, R260). The model's own field. -/
  acquired : List (((Nat × Nat) × Nat) × Nat)
  /-- The bytes of global memory whose values are of release writes (R259, R261). The model's own field. -/
  released : List Released
  /-- The engine command that acts. The model's own field. -/
  acting : Option Nat
  irqs : List Nat
  outbox : List Message
  wgs : List Workgroup
  cores : List Core
  tambours : List (List Command)
  graphs : List Graph
  queues : List (Nat × HostQueue)
  services : List Service
  ctxs : List Context
  poolUsed : List Nat
  spillUsed : List Nat
  tlb : List Translation
  /-- The slice maps (R280), one per slice group and one, number 0, for contexts of none: the slice of each bucket that is not
  where it was at first. A bucket of a map has the key 1,024 × map + bucket. -/
  mapMoves : List (Nat × Nat)
  /-- For each bucket that a change of map has moved: the generation of the change and the former home (R281). -/
  mapGens : List (Nat × (Nat × Nat))
  /-- The generation of each map that has changed (R281). -/
  generations : List (Nat × Nat)
  handovers : List (Nat × Nat)
  /-- For each workgroup and bucket: the last sequence number that the bucket's home has performed, and its answer (R282). -/
  performed : List ((Nat × Nat) × (Nat × List Byte))
  /-- The registered owner of each word, by word address (R272). -/
  owners : List (Nat × Nat)
  colls : List Coll
  collNext : List ((Nat × Nat) × Nat)
  gangLeads : List GangLead
  gangMembers : List GangMember
  remoteRecords : List RemoteRecord
  power : Bool
  bootErr : BitVec 8
  bootState : BitVec 4
  bootRecovery : Bool
  bootCount : BitVec 32
  mrs : Vector (BitVec 384) 8
  image : List Byte
  staged : Option (List Byte)
  portEn : BitVec 96
  mailbox : Vector Reg 8
  /-- The block as the running command's doorbell copied it. -/
  mbBlock : Vector Reg 8
  mbSeq : BitVec 32
  mbDone : Bool
  mbCode : BitVec 8
  stopTick : Reg
  stopArmed : Bool
  stopped : Bool
  clkMode : Bool
  clkPoint : Nat
  clkPending : Option (Bool × Nat × Nat)
  lockLost : Bool
  lockTick : BitVec 48
  corrected : Option Nat
  critical : Option Nat
  islandPoint : List (Nat × Nat)
  evBase : Reg
  evCfg : Reg
  evProd : Reg
  evCons : Reg
  errCounters : List (Nat × Reg)
  powerLimit : Nat
  islandMask : BitVec 1024
  /-- The number that the next workgroup had when each CXL port's island was masked: those before it keep the port (R396). -/
  cxlMasked : Vector Nat 8
  pkg : Nat
  cxlPeer : BitVec 8
  cxlUp : BitVec 8
  /-- The CXL ports that report a capacity, as fixed at Ready (R398). -/
  cxlCap : BitVec 8
  hbmSize : Nat
  cxlSizes : Vector Nat 8
  coresPresent : BitVec 48
  slicesInService : BitVec 128
  spillBytes : Nat
  portsFitted : BitVec 96
  regBanks : Vector Nat 48
  routes : List (Nat × BitVec 96)
  links : List Link
  apBase : Reg
  sampler0 : Vector Reg 3
  counters0 : List (Nat × Nat)
  sampled0 : Option Nat
  /-- How many of the accesses to the host window that come next time out (R367). The model's own field. -/
  hostFails : Nat
  /-- The unsupported requests counted (R349). -/
  unsupported : Nat
  /-- What the last read by the host or a debugger returned. The model's own field. -/
  answer : Reg
  deriving DecidableEq, Repr

/-! ### Values at entry and at reset -/

/-- A fault image of a thread that has taken no fault (R328). -/
def FaultImage.clear : FaultImage := { cause := 0, pc := 0, faddr := 0, acc := 0, unit := 0, aux := 0 }

/-- A thread at node entry (R20), with the role's entry point, the launch's interlock mode and its seed. -/
def Thread.entry (pc : BitVec 56) (imode : BitVec 2) (srg : BitVec 32) : Thread :=
  { regs := Vector.replicate 64 0, queue := [], qseq := 0, preds := 0, tsw := 0, imode := imode, srg := srg, pc := pc,
    recbuf := Vector.replicate 16 0, pcnt := 0, fault := FaultImage.clear, ports := 0, life := .live, wait := .running,
    stalls := [], clock := 0, hist := [], arriving := [], words := Words.none, lastIssue := 0, weave := 0,
    yielded := false, readyAt := 0, early := [], request := none, fenced := none, aged := false, counted := false }

/-- How a group stands with respect to faults. -/
def Group.stop (g : Group) : Stop := g.holds.headD .running

/-- A group at node entry (R20, R194): its quads are fused into weaves of the lanes of one block of 32 (R9, R11;
DEDUCED: notes/assumptions/7). -/
def Group.entry (role allot firstTid quad slot : Nat) (threads : List Thread) : Group :=
  { role := role, allot := allot, firstTid := firstTid, quad := quad, slot := slot, birthQuad := quad, birthSlot := slot,
    threads := threads.mapIdx fun i t => { t with weave := i - (4 * quad + i) % 32 },
    scalars := Vector.replicate 32 0, gsel := 2, efmt := 0, walk := none, pendFault := none, poll := 0,
    matrixCount := 0, lookupCount := 0, engineCount := 0, cpyIssued := 0, latch := none, formation := none,
    holds := [] }

/-- An unarmed barrier register (R30). -/
def Barrier.reset : Barrier :=
  { armed := false, phase := false, broken := false, expect := 0, arrive := 0, bytesExp := 0, bytesArr := 0 }

/-- An invalid table register (R33). -/
def Table.reset : Table :=
  { state := .invalid, gsel := 0, efmt := 0, sfmt := 0, ngroups := 0, srclen := 0, srcbase := 0, entries := [] }

/-- An idle core. -/
def Core.idle : Core :=
  { matrix := [], lookup := [], copy := [], copyRunning := none, copyCompleted := 0, reserved := none }

/-- An input that supplies nothing. -/
def Input.none : Input :=
  { tid := ⟨0, 0, 0⟩, unit := 0, sub := 0, addr := 0, val := 0, ok := true, data := [] }

/-- The module right after reset (R387: the ROM state, in which no context, queue, graph or workgroup exists). The
registers for which the spec states no reset value hold the values that the log names (DESIGN CHOICE: notes/assumptions/3). -/
def State.reset : State :=
  { ir := 0, input := Input.none, agenda := [], cur := none, nextId := 0, issues := 0, freeCtr := 0,
    tick := 0, mem := [], hostMem := [], overwritten := [], moment := 0, acquired := [], released := [], acting := none, irqs := [], outbox := [], wgs := [],
    cores := List.replicate 48 Core.idle, tambours := List.replicate 12 [], graphs := [], queues := [], services := [],
    ctxs := [], poolUsed := List.replicate 4 0, spillUsed := List.replicate 4 0, tlb := [], mapMoves := [], mapGens := [],
    generations := [], handovers := [], performed := [], owners := [], colls := [], collNext := [], gangLeads := [], gangMembers := [],
    remoteRecords := [], power := true, bootErr := 0, bootState := 0, bootRecovery := false, bootCount := 0,
    mrs := Vector.replicate 8 0, image := [], staged := none, portEn := 0, mailbox := Vector.replicate 8 0,
    mbBlock := Vector.replicate 8 0, mbSeq := 0, mbDone := true, mbCode := 0, stopTick := BitVec.allOnes 64, stopArmed := false, stopped := false,
    clkMode := false, clkPoint := 20, clkPending := none, lockLost := false, lockTick := 0, corrected := none, critical := none,
    islandPoint := [], evBase := 0, evCfg := 0, evProd := 0, evCons := 0, errCounters := [], powerLimit := 3600,
    islandMask := 0, cxlMasked := Vector.replicate 8 0, pkg := 0, cxlPeer := 0, cxlUp := BitVec.allOnes 8, cxlCap := BitVec.allOnes 8, hbmSize := 512000000000,
    cxlSizes := Vector.replicate 8 1536000000000, coresPresent := BitVec.allOnes 48,
    slicesInService := BitVec.allOnes 128, spillBytes := 33554432, portsFitted := BitVec.allOnes 96,
    regBanks := Vector.replicate 48 16, routes := [], links := List.replicate 96 { state := .down, attempts := 0, since := 0 },
    apBase := 0, sampler0 := #v[0, 10 <<< 3, 0], counters0 := [], sampled0 := none, hostFails := 0, unsupported := 0, answer := 0 }

end Sys2Proof.Machine
end

