-- ==== Sys2Proof/Machine/Memory.lean ====
section
/-! DEFINITION. Memory: bytes and words by address in one canonical form; the physical address space (R279, R352); address
translation (R343 to R346); and the path of an access through L1, the pending write-throughs and the home slice
(R271 to R275, R280 to R282). -/

namespace Sys2Proof.Machine

open Sys2Proof

/-! ### Sparse memories -/

/-- The word at an index; an index not listed holds 0 (DESIGN CHOICE: notes/assumptions/2, for memory bytes). -/
def Sparse.get {n : Nat} : List (Nat × BitVec n) → Nat → BitVec n
  | [], _ => 0
  | (k, v) :: t, a => if k = a then v else Sparse.get t a

/-- Writes the word at an index, keeping indexes rising and zero words unlisted. -/
def Sparse.set {n : Nat} : List (Nat × BitVec n) → Nat → BitVec n → List (Nat × BitVec n)
  | [], a, v => if v = 0 then [] else [(a, v)]
  | (k, x) :: t, a, v =>
    if a < k then (if v = 0 then (k, x) :: t else (a, v) :: (k, x) :: t)
    else if a = k then (if v = 0 then t else (k, v) :: t)
    else (k, x) :: Sparse.set t a v

/-- Every listed index lies above a bound, indexes rise, and no listed word is zero. -/
def Sparse.wfFrom {n : Nat} : Option Nat → List (Nat × BitVec n) → Bool
  | _, [] => true
  | lo, (k, v) :: t => (match lo with | none => true | some b => decide (b < k)) && decide (v ≠ 0) && Sparse.wfFrom (some k) t

/-- The canonical form: addresses strictly rising, no listed byte equal to what an unlisted address reads as. -/
abbrev Memory.wf {n : Nat} (m : List (Nat × BitVec n)) : Bool := Sparse.wfFrom none m

/-- `n` bytes from an address up. -/
def readBytes (m : List Host.Cell) (a n : Nat) : List Byte := (List.range n).map fun i => Sparse.get m (a + i)

/-- Stores bytes from an address up. -/
def writeBytes (m : List Host.Cell) (a : Nat) : List Byte → List Host.Cell
  | [] => m
  | b :: t => writeBytes (Sparse.set m a b) (a + 1) t

/-- The natural number that bytes hold, little-endian (R4). -/
def leNat : List Byte → Nat
  | [] => 0
  | b :: t => b.toNat + 256 * leNat t

/-- The low `n` bytes of a number, little-endian (R4). -/
def leBytes : Nat → Nat → List Byte
  | 0, _ => []
  | n + 1, v => BitVec.ofNat 8 v :: leBytes n (v / 256)

/-- Bytes of a list of words, little-endian. -/
def wordBytes (l : List Reg) : List Byte := l.flatMap fun r => leBytes 8 r.toNat

/-- A 64-bit word held by bytes. -/
def leReg (b : List Byte) : Reg := BitVec.ofNat 64 (leNat b)

/-! ### Free values, contexts, workgroups -/

/-- Draws a free value (DESIGN CHOICE: notes/assumptions/15). -/
def State.draw (s : State) : State × BitVec 64 := ({ s with freeCtr := s.freeCtr + 1 }, Config.freeValue s.freeCtr)

/-- A workgroup by its number. -/
def State.wg? (s : State) (w : Nat) : Option Workgroup := s.wgs.find? fun x => x.id == w

/-- Changes a workgroup. -/
def State.modWg (s : State) (w : Nat) (f : Workgroup → Workgroup) : State :=
  { s with wgs := s.wgs.map fun x => if x.id = w then f x else x }

/-- A context by its number. -/
def State.ctx? (s : State) (c : Nat) : Option Context := s.ctxs.find? fun x => x.id == c

/-- Changes a context. -/
def State.modCtx (s : State) (c : Nat) (f : Context → Context) : State :=
  { s with ctxs := s.ctxs.map fun x => if x.id = c then f x else x }

/-- Sets bits of a context's CEVT (R395). -/
def State.ctxEvent (s : State) (c : Nat) (bits : Reg) : State := s.modCtx c fun x => { x with cevt := x.cevt ||| bits }

/-- The context's service error event (R395, bit 0). -/
def State.serviceError (s : State) (c : Nat) : State := s.ctxEvent c 1

/-! ### The physical address space -/

/-- Where a physical address leads (R279, R352, R369, R385). -/
inductive Place where
  | memory
  | peer (port : Nat)
  | host (addr : Nat)
  | package (pkg offset : Nat)
  | unbacked
  deriving DecidableEq, Repr

/-- The capacity behind a CXL port that its capability register reports, as fixed at Ready (R398): 0 for a peer. -/
def State.cxlSize (s : State) (i : Nat) : Nat := if s.cxlCap.getLsbD i then s.cxlSizes.toList.getD i 0 else 0

/-- Whether a workgroup has yet to complete. A completed workgroup of a cluster launch stays, with its quires, until every
workgroup of the launch has completed (R176). -/
def Workgroup.ongoing (w : Workgroup) : Bool := match w.res with | .complete _ => false | _ => true

/-- Whether a CXL port is in use: its link is up, and the island mask lets it have power or a workgroup is there from before the
mask, which keeps what it uses until it completes (R396; DEDUCED: notes/assumptions/30). -/
def State.cxlUsed (s : State) (i : Nat) : Bool :=
  s.cxlUp.getLsbD i &&
    (!s.islandMask.getLsbD (992 + i) || s.wgs.any fun w => w.ongoing && decide (w.id < s.cxlMasked.toList.getD i 0))

/-- The place of a physical address for a thread or an engine (R279, R352, R369): the reported capacity governs (R2, R398), and a
port in use that reports none leads to its peer. The device registers' range is an unbacked address to them (R385). -/
def State.place (s : State) (pa : Nat) : Place :=
  if pa < s.hbmSize then .memory
  else if 2 ^ 44 ≤ pa ∧ pa < 2 ^ 44 + 8 * 2 ^ 41 then
    let i := (pa - 2 ^ 44) / 2 ^ 41
    if !s.cxlUsed i then .unbacked
    else if !s.cxlCap.getLsbD i then .peer i
    else if (pa - 2 ^ 44) % 2 ^ 41 < s.cxlSize i then .memory else .unbacked
  else if 2 ^ 50 ≤ pa ∧ pa < 2 ^ 51 then .host (pa % 2 ^ 50)
  else if 2 ^ 51 ≤ pa ∧ pa < 2 ^ 52 then .package (pa / 2 ^ 39 % 4096) (pa % 2 ^ 39)
  else .unbacked

/-- The device-register offset of a physical address (R385), which only the command processors and the host reach
(DEDUCED: notes/assumptions/86). -/
def registerOffset (pa : Nat) : Option Nat := if 2 ^ 49 ≤ pa ∧ pa < 2 ^ 49 + 2 ^ 24 then some (pa - 2 ^ 49) else none

/-- Bytes of this package's memory, read at the home slice. -/
def State.readMem (s : State) (pa n : Nat) : List Byte := readBytes s.mem pa n

/-- Where the host shows an address to accesses of a context (R352, R367): under the context's PASID. -/
def State.hostKey (s : State) (c a : Nat) : Nat := 2 ^ 64 * (((s.ctx? c).map Context.pasid).getD 0 + 1) + a

/-- The bucket of a physical address (R280). -/
def bucketOf (pa : Nat) : Nat :=
  let l : BitVec 64 := BitVec.ofNat 64 (pa / 192)
  ((l ^^^ (l >>> 10) ^^^ (l >>> 20) ^^^ (l >>> 30) ^^^ (l >>> 40)).extractLsb' 0 10).toNat

/-- The slice map that a context's addresses are hashed by (R280): that of its slice group, or number 0. -/
def State.mapOf (s : State) (c : Nat) : Nat := ((s.ctx? c).map Context.sliceGroup).getD 0

/-- The key of the bucket of a physical address in the map of a context. -/
def State.bucketKey (s : State) (c pa : Nat) : Nat := 1024 * s.mapOf c + bucketOf pa

/-- The slice a bucket is assigned to: its entry of the slice map, by default the bucket modulo 128
(DESIGN CHOICE: notes/assumptions/3). -/
def State.sliceOf (s : State) (k : Nat) : Nat := (s.mapMoves.lookup k).getD (k % 128)

/-- The generation of a slice map (R281). -/
def State.generationOf (s : State) (m : Nat) : Nat := (s.generations.lookup m).getD 0

/-- The generation of the last change of map that moved a bucket. -/
def State.moveGen (s : State) (k : Nat) : Nat := ((s.mapGens.lookup k).map Prod.fst).getD 0

/-- Whether a bucket's new home waits for the handover from the old one (R281). -/
def State.handing (s : State) (k : Nat) : Bool := s.handovers.any fun e => e.1 == k

/-- The old home of a bucket has performed what it accepted and passes the bucket's registrations on (R281). -/
def State.handOver (s : State) (k : Nat) : State := { s with handovers := s.handovers.filter fun e => e.1 ≠ k }

/-! ### Counters of the sampler (R381) -/

/-- Raises a counter of the sampler (R381), counters by their place in a sample. -/
def addCount : List (Nat × Nat) → Nat → Nat → List (Nat × Nat)
  | [], i, m => [(i, m)]
  | (k, n) :: t, i, m => if k = i then (k, n + m) :: t else (k, n) :: addCount t i m

/-- Counts an event for the unfiltered sampler (R383). -/
def State.count0 (s : State) (i : Nat) : State := { s with counters0 := addCount s.counters0 i 1 }

/-- Raises a counter of a context's events, in its own sampler and in the unfiltered one (R381, R383). -/
def State.countBy (s : State) (c i m : Nat) : State :=
  { s with counters0 := addCount s.counters0 i m }.modCtx c fun x => { x with counters := addCount x.counters i m }

/-- Counts an event of a workgroup, for the unfiltered sampler and for its context's (R381, R383). -/
def State.countOf (s : State) (x : Workgroup) (i : Nat) : State := s.countBy x.ctx i 1

/-- A refusal is counted for the die of the retired home (R381). -/
def State.countRefusal (s : State) (k : Nat) : State := s.count0 (884 + ((s.mapGens.lookup k).map fun e => e.2).getD 0 / 32)

/-- A request is counted for the die of its home slice, as a hit or a miss of the L2 (R381). -/
def State.countRequest (s : State) (k : Nat) : State := s.count0 (876 + s.sliceOf k / 32)

/-! ### Requests to a home (R281, R282) -/

/-- Sets the entry of a key in a table of pairs. -/
def setKey {α β : Type} [BEq α] (l : List (α × β)) (k : α) (v : β) : List (α × β) := (k, v) :: l.filter fun e => !(e.1 == k)

/-- How many requests to a bucket a workgroup has made (R281). -/
def Workgroup.seqTo (w : Workgroup) (k : Nat) : Nat := (w.reqSeq.lookup k).getD 0

/-- The last sequence number that the home of a bucket has performed for a workgroup (R282). -/
def State.lastPerformed (s : State) (w k : Nat) : Nat := ((s.performed.lookup (w, k)).map Prod.fst).getD 0

/-- The home of a bucket records a request of a workgroup that it has performed, with its answer (R282). -/
def State.record (s : State) (w k seq : Nat) (answer : List Byte) : State :=
  { s with performed := setKey s.performed (w, k) (seq, answer) }

/-- Who makes a request for an engine command or for the hardware: the command in action by its number, else the hardware for
a context. Workgroups and commands are numbered in one sequence (R281). -/
def State.engineRequester (s : State) (c : Nat) : Nat := s.acting.getD (2 ^ 64 + c)

/-- A request of an engine or of the hardware for a context to the home of an address (R281, R282): it is hashed under the present
map, takes its requester's next number, waits for a handover of its bucket, and is performed and answered in the same step. -/
def State.engineRequest (s : State) (c pa : Nat) : State :=
  let k := s.bucketKey c pa
  let r := s.engineRequester c
  ((s.handOver k).countRequest k).record r k (s.lastPerformed r k + 1) []

/-- A load or an atomic of a workgroup is performed at the home of a bucket: it is counted among the requests, and recorded with
its answer (R281, R282). -/
def State.request (s : State) (w k : Nat) (answer : List Byte) : State :=
  let n := ((s.wg? w).map fun x => x.seqTo k).getD 0 + 1
  ((s.modWg w fun x => { x with reqSeq := setKey x.reqSeq k n }).countRequest k).record w k n answer

/-! ### Words of L1 and their registered owners (R271, R272) -/

/-- Whether a listed L1 word lies in a range of bytes. -/
def L1Word.within (w : L1Word) (pa n : Nat) : Bool := decide (w.addr * 4 + 4 > pa ∧ w.addr * 4 < pa + n)

/-- The words of an L1 outside a range of bytes. -/
def l1Drop (l : List L1Word) (pa n : Nat) : List L1Word := l.filter fun w => !w.within pa n

/-- Drops the word at a word address. -/
def l1Forget (l : List L1Word) (a : Nat) : List L1Word := l.filter fun w => w.addr ≠ a

/-- The word addresses that a range of bytes touches. -/
def wordsOf (pa n : Nat) : List Nat := if n = 0 then [] else (List.range ((pa + n - 1) / 4 - pa / 4 + 1)).map (pa / 4 + ·)

/-- The registered owner of a word is revoked unless it is the writer (R272): it loses the word, and the registration ends. -/
def State.revokeWord (s : State) (writer : Option Nat) (a : Nat) : State :=
  match s.owners.lookup a with
  | none => s
  | some w =>
    if some w = writer then s
    else { (s.modWg w fun x => { x with l1 := l1Forget x.l1 a }) with owners := s.owners.filter fun e => !(e.1 == a) }

/-- Revokes the owners of the words of a range: every registered owner but the writer (R272); an atomic or engine write, which
names no writer, revokes every owner. -/
def State.revoke (s : State) (writer : Option Nat) (pa n : Nat) : State :=
  (wordsOf pa n).foldl (init := s) fun s a => s.revokeWord writer a

/-- A workgroup's L1 is registered as the owner of the words of a range. -/
def State.registerOwner (s : State) (w pa n : Nat) : State :=
  { s with owners := (wordsOf pa n).foldl (init := s.owners) fun l a => setKey l a w }

/-! ### What orders writes and engine commands (R189, R226) -/

/-- Whether an engine of the package has a command. -/
def State.enginesBusy (s : State) : Bool :=
  s.cores.any (fun k => !k.matrix.isEmpty || !k.lookup.isEmpty || !k.copy.isEmpty) || s.tambours.any (fun q => !q.isEmpty) ||
    !s.colls.isEmpty

/-- The moment of a group's last acquire of a reach: 0 at `.wg` or wider, 1 at `.clu` or wider, 2 at `.wg` of scratchpad only. -/
def State.acquiredAt (s : State) (g : Nat × Nat) (reach : Nat) : Nat := (s.acquired.lookup (g, reach)).getD 0

/-- A group acquires at a scope (R260): what was written before is ordered before what it does from now on; at `.grp` only by its
own threads, which changes nothing. That an acquire is taken to be ordered after every write made before it, paired with a
release or not, is the model's choice (DESIGN CHOICE: notes/assumptions/18). -/
def State.groupAcquired (s : State) (g : Nat × Nat) (scope : Nat) : State :=
  if scope = 0 then s
  else
    let m := s.moment + 1
    let l := setKey s.acquired (g, 0) m
    { s with moment := m, acquired := if 2 ≤ scope then setKey l (g, 1) m else l }

/-- A group acquires at `.wg` what lies in scratchpad: the formation of its gang's latch (R178, R260). -/
def State.groupFormed (s : State) (g : Nat × Nat) : State :=
  { s with moment := s.moment + 1, acquired := setKey s.acquired (g, 2) (s.moment + 1) }

/-- A group's acquire at a scope that was performed at an earlier moment takes effect (R255, R260). -/
def State.groupAcquiredBy (s : State) (g : Nat × Nat) (scope m : Nat) : State :=
  let at_ (l : List (((Nat × Nat) × Nat) × Nat)) (k : Nat) := setKey l (g, k) (max m ((l.lookup (g, k)).getD 0))
  if scope = 0 then s
  else { s with acquired := if 2 ≤ scope then at_ (at_ s.acquired 0) 1 else at_ s.acquired 0 }

/-- The group whose threads execute the word in hand acquires, if it is of a workgroup. -/
def State.curAcquired (s : State) (w scope : Nat) : State :=
  match s.cur with
  | some u => if u.wg = w then s.groupAcquired (w, u.grp) scope else s
  | none => s

/-- Whether a write is ordered before what a group does now (R189, R226): it precedes it in program order, or an acquire of the
group comes after it, at `.clu` when it is of another workgroup. -/
def Overwritten.orderedFor (e : Overwritten) (s : State) (g : Nat × Nat) : Bool :=
  match e.writer, e.grp with
  | none, some h => h == g || decide (e.moment < s.acquiredAt g (if h.1 = g.1 then 0 else 1)) ||
      (e.wg == some g.1 && decide (e.moment < s.acquiredAt g 2))
  | _, _ => decide (e.moment < s.acquiredAt g 0)

/-- A command with a number is accepted from groups: of the bytes overwritten before, it may still read as they were those
whose writes are not ordered before it for one of the groups (R189, R226). -/
def State.acceptRaces (s : State) (order : Nat) (gs : List (Nat × Nat)) : State :=
  { s with overwritten := s.overwritten.map fun e =>
      if gs.any (e.orderedFor s) then e else { e with races := order :: e.races } }

/-- Whether a write by a group, if one made it, may race with commands under way or still to come: a group for whose commands it
will have to be ordered is there. -/
def State.mayRace (s : State) (g : Option (Nat × Nat)) : Bool :=
  s.enginesBusy || s.wgs.any fun x => (List.range x.groups.length).any fun i => some (x.id, i) != g

/-- Records what bytes hold before a write of a group made at a moment, or of another party, overwrites them. -/
def State.noteFor (s : State) (grp : Option (Nat × Nat)) (moment : Nat) (w : Option Nat) (a : Nat) (old : List Byte) : State :=
  if !s.mayRace grp then s
  else { s with overwritten := (List.range old.length).map (fun i =>
      { wg := w, addr := a + i, old := old.getD i 0, stamp := s.nextId, writer := s.acting, grp := grp, moment := moment }) ++ s.overwritten }

/-- The group whose threads execute the word in hand, unless an engine command acts. -/
def State.writingGroup (s : State) : Option (Nat × Nat) :=
  if s.acting.isSome then none else s.cur.map fun u => (u.wg, u.grp)

/-- Records what bytes hold before the party that acts overwrites them now. -/
def State.noteOld (s : State) (w : Option Nat) (a : Nat) (old : List Byte) : State := s.noteFor s.writingGroup s.moment w a old

/-- Whether a command with a number may read a byte as it was before a write: the write came after its acceptance, or is not
ordered before it. -/
def Overwritten.racesWith (e : Overwritten) (order : Nat) : Bool := decide (order < e.stamp) || e.races.contains order

/-- The values that a byte has held that a command may read, newest first: what the writes that race with it have overwritten, back
to the newest that does not. -/
def State.heldSince (s : State) (order : Nat) (w : Option Nat) (a : Nat) : List Byte :=
  ((s.overwritten.filter fun e => e.wg == w && e.addr == a && e.writer != some order).takeWhile (·.racesWith order)).map Overwritten.old

/-- The value that the command in action reads from a byte that now holds `v` (R189, R226): `v`, or, where writes have raced
with the command, any of the values that the byte held. -/
def State.racedByte (s : State) (w : Option Nat) (a : Nat) (v : Byte) : State × Byte :=
  match s.acting with
  | none => (s, v)
  | some o =>
    match s.heldSince o w a with
    | [] => (s, v)
    | l => let (s, x) := s.draw; (s, (v :: l).getD (x.toNat % (l.length + 1)) v)

/-- The values that the command in action reads from bytes. -/
def State.racedBytes (w : Option Nat) : Nat → List Byte → State → State × List Byte
  | _, [], s => (s, [])
  | a, v :: t, s =>
    let (s, x) := s.racedByte w a v
    let (s, r) := State.racedBytes w (a + 1) t s
    (s, x :: r)

/-- What the command in action reads from bytes of memory or of a window. -/
def State.raced (s : State) (w : Option Nat) (a : Nat) (bs : List Byte) : State × List Byte :=
  if s.overwritten.isEmpty then (s, bs) else State.racedBytes w a bs s

/-- The bytes of a range are no longer of a release write (R261). -/
def State.unrelease (s : State) (pa n : Nat) : State :=
  { s with released := s.released.filter fun e => !decide (pa ≤ e.addr ∧ e.addr < pa + n) }

/-- The bytes of a range are of a release write of a workgroup at a scope, or of its release sequence (R261). -/
def State.markReleased (s : State) (w pa n scope : Nat) : State :=
  { s with released := (List.range n).map (fun i => { addr := pa + i, wg := w, scope := scope }) ++ s.released }

/-- A write performed at the home slice (R272), of a group's store made at a moment, or of another party: the bytes become the
location's value and other owners are revoked. -/
def State.writeHomeFor (s : State) (grp : Option (Nat × Nat)) (moment : Nat) (writer : Option Nat) (pa : Nat) (bs : List Byte) : State :=
  let s := ((s.revoke writer pa bs.length).unrelease pa bs.length).noteFor grp moment none pa (s.readMem pa bs.length)
  { s with mem := writeBytes s.mem pa bs }

/-- A write performed at the home slice by the party that acts now. -/
def State.writeHome (s : State) (writer : Option Nat) (pa : Nat) (bs : List Byte) : State :=
  s.writeHomeFor s.writingGroup s.moment writer pa bs

/-! ### Pending write-throughs -/

/-- Whether a pending write-through touches a range of bytes. -/
def WriteThrough.touches (t : WriteThrough) (pa n : Nat) : Bool :=
  decide (t.addr < pa + n ∧ pa < t.addr + t.bytes.length)

/-- Whether a context runs in lazy-release mode (R268). -/
def State.lazyCtx (s : State) (c : Nat) : Bool := match s.ctx? c with | some x => x.lazy | none => false

/-- The write-throughs of a list, each with whether it is performed when those that a test picks are (R268, R282): the picked
ones, and those before one of them to its bucket; in lazy-release mode every one before it. -/
def marked (lazy : Bool) (pick : WriteThrough → Bool) : List WriteThrough → List (WriteThrough × Bool)
  | [] => []
  | t :: rest =>
    (t, pick t || rest.any fun u => pick u && (lazy || bucketOf u.addr == bucketOf t.addr)) :: marked lazy pick rest

/-- The slice that performs a request to a bucket hashed under a generation (R281): the old home until the handover; the new one
after it, where a request hashed before the move comes again, with its number, once the old home has refused it. -/
def State.reachHome (s : State) (gen k : Nat) : State :=
  if gen < s.moveGen k then (if s.handing k then s else s.countRefusal k) else s.handOver k

/-- A write-through of a workgroup is performed at its home, which registers the owner of its words (R272) and records it
(R282). One that the home has performed already is only acknowledged. -/
def State.performWrite (s : State) (w k : Nat) (t : WriteThrough) : State :=
  let s := (s.reachHome t.gen k).countRequest k
  if t.seq ≤ s.lastPerformed w k then s
  else
    let s := s.writeHomeFor (some (w, t.grp)) t.moment (some w) t.addr t.bytes
    let s := match t.rel with | some sc => s.markReleased w t.addr t.bytes.length sc | none => s
    (if t.owns then s.registerOwner w t.addr t.bytes.length else s).record w k t.seq []

/-- Performs, oldest first, the write-throughs of a workgroup that a test picks, with those that must go before them: each is
performed at its home, and the acknowledgement follows at once (R272, R273, R282). -/
def State.drain (s : State) (w : Nat) (pick : WriteThrough → Bool) : State :=
  match s.wg? w with
  | none => s
  | some x =>
    let l := marked (s.lazyCtx x.ctx) pick x.writes
    let s := s.modWg w fun x => { x with writes := (l.filter fun e => !e.2).map Prod.fst }
    ((l.filter fun e => e.2).map Prod.fst).foldl (init := s) fun s t => s.performWrite w (s.bucketKey x.ctx t.addr) t

/-- Performs every pending write-through of a workgroup. -/
def State.drainAll (s : State) (w : Nat) : State := s.drain w fun _ => true

/-- Performs a workgroup's pending write-throughs to the bucket of an address: its requests to one bucket are performed in
sequence order (R282). -/
def State.drainBucket (s : State) (w pa : Nat) : State := s.drain w fun t => bucketOf t.addr == bucketOf pa

/-- Whether a workgroup runs in lazy-release mode (R268). -/
def State.lazyWg (s : State) (w : Nat) : Bool := match s.wg? w with | some x => s.lazyCtx x.ctx | none => false

/-- What goes before an atomic of a workgroup (R268, R282): its write-throughs to the word's bucket; in lazy-release mode every
deferred one, since a fence before the atomic may make it a release of them all (R261). -/
def State.beforeAtomic (s : State) (w pa : Nat) : State := if s.lazyWg w then s.drainAll w else s.drainBucket w pa

/-- A read at the home of a word that a workgroup in lazy-release mode has deferred writes to recalls all that
workgroup's deferred writes (R268). -/
def State.recall (s : State) (pa n : Nat) : State :=
  s.wgs.foldl (init := s) fun s x =>
    if s.lazyCtx x.ctx && x.writes.any (fun t => t.touches pa n) then s.drainAll x.id else s

/-- A release by a thread of a workgroup (R146, R273): at `.clu` or wider every earlier write-through is acknowledged
first. -/
def State.releaseNow (s : State) (w : Nat) (scope : Nat) : State := if scope < 2 then s else s.drainAll w

/-- What a party's store or atomic to a place where no recall reaches its deferred writes waits for in lazy-release mode (R268): it may
be a release, or follow a release fence, so every deferred write of the workgroup is performed before it (R261). -/
def State.flushLazy (s : State) (w : Option Nat) : State :=
  match w with
  | some w => if s.lazyWg w then s.drainAll w else s
  | none => s

/-- A release store or a fence, in lazy-release mode (R268): one that may be deferred waits for nothing, and a full fence and a
release at `.sys` do. Elsewhere it is a release as any. -/
def State.release (s : State) (w : Nat) (scope : Nat) (full : Bool) : State :=
  if s.lazyWg w && !full && decide (scope < 5) then s else s.releaseNow w scope

/-- Every word of a workgroup's L1 that is not owned is dropped (R274). -/
def State.dropShared (s : State) (w : Nat) : State := s.modWg w fun x => { x with l1 := x.l1.filter fun y => y.owned }

/-! ### Scratchpad -/

/-- A table after a write to a range of the scratchpad window (R199, R200). -/
def Table.touched (t : Table) (off n : Nat) : Table :=
  if (t.state = .valid || t.state = .evicted) && n > 0 && decide (off < t.srcbase + t.srclen ∧ t.srcbase < off + n) then
    { t with state := .stale }
  else t

/-- Writes bytes into a workgroup's scratchpad window; tables whose source range they touch become stale. -/
def Workgroup.writeSpad (w : Workgroup) (off : Nat) (bs : List Byte) : Workgroup :=
  { w with spad := writeBytes w.spad off bs, tables := w.tables.map fun t => t.touched off bs.length }

/-- Reads bytes of a workgroup's scratchpad window. -/
def Workgroup.readSpad (w : Workgroup) (off n : Nat) : List Byte := readBytes w.spad off n

/-- `Workgroup.writeSpad` in the machine, by a group's threads or by another party; engine commands may still read what the bytes
held (R189, R226). -/
def State.writeSpadFor (s : State) (grp : Option (Nat × Nat)) (w off : Nat) (bs : List Byte) : State :=
  (s.noteFor grp s.moment (some w) off (((s.wg? w).map fun x => x.readSpad off bs.length).getD [])).modWg w fun x => x.writeSpad off bs

/-- `State.writeSpadFor` by the party that acts now. -/
def State.writeSpad (s : State) (w off : Nat) (bs : List Byte) : State := s.writeSpadFor s.writingGroup w off bs

/-- Lands everything that has been sent to a workgroup's window (R224). -/
def State.landAll (s : State) (w : Nat) : State :=
  match s.wg? w with
  | none => s
  | some x => (x.inbound.foldl (init := s) fun s e => s.writeSpadFor none w e.off e.bytes).modWg w fun y => { y with inbound := [] }

/-- The pieces of bytes from an offset up: one for each halfword of the window that they touch. Nothing that a command sends to
another window is seen in part of a halfword (R405). -/
def halfwords : Nat → List Byte → List Inbound
  | _, [] => []
  | off, [b] => [{ off := off, bytes := [b] }]
  | off, b :: c :: t =>
    if off % 2 = 0 then { off := off, bytes := [b, c] } :: halfwords (off + 2) t
    else { off := off, bytes := [b] } :: halfwords (off + 1) (c :: t)

/-- Lands some of what was first sent to a workgroup's window: each of its halfwords, or not, by a free value (R224, R226,
R405). -/
def State.landSome (s : State) (w : Nat) : State :=
  match (s.wg? w).map Workgroup.inbound with
  | some (e :: t) =>
    let (s, v) := s.draw
    let pieces := (halfwords e.off e.bytes).zipIdx
    let now (p : Inbound × Nat) : Bool := v.getLsbD (p.2 % 64)
    let s := (pieces.filter now).foldl (init := s) fun s p => s.writeSpadFor none w p.1.off p.1.bytes
    s.modWg w fun y => { y with inbound := ((pieces.filter fun p => !now p).map Prod.fst) ++ t }
  | _ => s

/-- What an acquire at a scope does to a workgroup (R274): at `.clu` or wider every word of the L1 that is not owned is dropped, and
what other workgroups' commands have sent to the window has landed (R217, R224). -/
def State.acquireOf (s : State) (w scope : Nat) : State := if scope < 2 then s else (s.dropShared w).landAll w

/-- An acquire by a workgroup's thread, which orders what its group does after it (R226). -/
def State.acquire (s : State) (w : Nat) (scope : Nat) : State := (s.acquireOf w scope).curAcquired w scope

/-! ### Translation -/

/-- The kind of an access (R328, ACC). -/
inductive Access where
  | read | write | execute | modify
  deriving DecidableEq, Repr

/-- The ACC code (R328). -/
def Access.code : Access → BitVec 2
  | .read => 0 | .write => 1 | .execute => 2 | .modify => 3

/-- Why an access or an instruction faults: the cause, the fault address, and the other fields of the image (R328). -/
structure Trap where
  cause : Cause
  addr : Reg
  acc : BitVec 2 := 0
  unit : BitVec 2 := 0
  aux : BitVec 56 := 0
  deriving DecidableEq, Repr

/-- The page-table entry at a physical address, if R279 backs the address. -/
def State.pte (s : State) (pa : Nat) : Option Reg :=
  if s.place pa = .memory then some (leReg (s.readMem pa 8)) else none

/-- A leaf's translation: the page's size as a power of two, its physical base, its entry. -/
structure Leaf where
  size : Nat
  pa : Nat
  entry : Reg
  deriving DecidableEq, Repr

/-- The PA field of an entry, as an address (R344). -/
def pteBase (e : Reg) : Nat := (bf e 12 40).toNat * 4096

/-- Whether a valid entry at a level is well formed (R344). -/
def pteLegal (level : Nat) (e : Reg) : Bool :=
  let leaf := e.getLsbD 1
  let cont := e.getLsbD 5
  bf e 52 12 = 0 && bf e 6 6 = 0 &&
  !(leaf && level ≥ 3) && !(!leaf && level = 0) &&
  (leaf || bf e 2 4 = 0) && !(cont && level ≠ 0) &&
  !(leaf && level = 1 && bf e 12 9 ≠ 0) && !(leaf && level = 2 && bf e 12 18 ≠ 0)

/-- The bits of a virtual address that index a level's table (R343). -/
def vaIndex (level : Nat) (va : Nat) : Nat :=
  if level = 4 then va / 2 ^ 48 % 256 else va / 2 ^ (12 + 9 * level) % 512

/-- The page-table walk of R343 and R344 from a table down, by level. -/
def State.walkFrom (s : State) (va : Nat) : Nat → Nat → Except Cause (Leaf × Nat)
  | level, table =>
    match s.pte (table + 8 * vaIndex level va) with
    | none => .error .tableFormat
    | some e =>
      if !e.getLsbD 0 then .error .notPresent
      else if !pteLegal level e then .error .tableFormat
      else match level with
        | 0 => .ok ({ size := if e.getLsbD 5 then 16 else 12, pa := pteBase e, entry := e }, table)
        | l + 1 =>
          if e.getLsbD 1 then .ok ({ size := 12 + 9 * (l + 1), pa := pteBase e, entry := e }, table)
          else s.walkFrom va l (pteBase e)

/-- The entry a CONT page translates by (R344): its own, or, when the 16 entries of the run do not agree, its own or any
CONT entry of the run, which a free value picks (DEDUCED: notes/assumptions/34). -/
def State.contEntry (s : State) (table va : Nat) (own : Reg) : State × Reg :=
  let first := vaIndex 0 va / 16 * 16
  let run := (List.range 16).map fun i => (s.pte (table + 8 * (first + i))).getD 0
  let strip (e : Reg) : Reg := e &&& ~~~(0xF000 : Reg)
  if run.all fun e => strip e == strip own then (s, own)
  else
    let (s, v) := s.draw
    let e := run.getD (v.toNat % 16) own
    (s, if e.getLsbD 0 && e.getLsbD 5 && pteLegal 0 e then e else own)

/-- Whether a translation permits an access (R345). -/
def Translation.permits (t : Translation) (k : Access) : Except Cause Unit :=
  match k with
  | .read => if t.r then .ok () else .error .readDenied
  | .write => if t.w then .ok () else .error .writeDenied
  | .execute => if t.x then .ok () else .error .executeDenied
  | .modify => if t.r && t.w then .ok () else .error .writeDenied

/-- Translates a virtual address of a context (R343 to R346): through the translation cache, else by a walk, whose
translation is then cached; a fault is not, so that a replay walks again (DEDUCED: notes/assumptions/10). -/
def State.translate (s : State) (c va : Nat) (k : Access) : State × Except Cause Nat :=
  match s.tlb.find? (fun t => t.ctx == c && t.va == va / 2 ^ t.size * 2 ^ t.size) with
  | some t =>
    match t.permits k with
    | .error e => ({ s with tlb := s.tlb.filter fun u => !(u.ctx == c && u.va == t.va && u.size == t.size) }, .error e)
    | .ok () => (s, .ok (t.pa + va % 2 ^ t.size))
  | none =>
    match s.ctx? c with
    | none => (s, .error .notPresent)
    | some x =>
      match s.walkFrom va 4 (x.root.toNat / 2048 * 2048) with
      | .error e => (s, .error e)
      | .ok (leaf, table) =>
        let (s, e) := if leaf.size = 16 then s.contEntry table va leaf.entry else (s, leaf.entry)
        let t : Translation :=
          { ctx := c, va := va / 2 ^ leaf.size * 2 ^ leaf.size, size := leaf.size,
            pa := pteBase e / 2 ^ leaf.size * 2 ^ leaf.size, x := e.getLsbD 4, w := e.getLsbD 3, r := e.getLsbD 2 }
        match t.permits k with
        | .error e => (s, .error e)
        | .ok () => ({ s with tlb := t :: s.tlb }, .ok (t.pa + va % 2 ^ t.size))

/-- The physical address that a virtual address of a context is mapped to, whatever the permissions; nothing where it is not
mapped. Cache maintenance takes no translation fault (R161, R345). -/
def State.mapped (s : State) (c va : Nat) : Option Nat :=
  match s.tlb.find? (fun t => t.ctx == c && t.va == va / 2 ^ t.size * 2 ^ t.size) with
  | some t => some (t.pa + va % 2 ^ t.size)
  | none =>
    match (s.ctx? c).map fun x => s.walkFrom va 4 (x.root.toNat / 2048 * 2048) with
    | some (.ok (leaf, _)) => some (leaf.pa / 2 ^ leaf.size * 2 ^ leaf.size + va % 2 ^ leaf.size)
    | _ => none

/-! ### Accesses that leave the package's own memory -/

/-- An entry of a context's fabric binding table of 4,096 (R353), read through the context's addresses by the hardware. -/
def State.binding (s : State) (c pkg : Nat) : Option Reg :=
  match if pkg < 4096 then s.ctx? c else none with
  | none => none
  | some x =>
    match (s.translate c (x.bindBase.toNat + 8 * pkg) .read).2 with
    | .error _ => none
    | .ok pa => if s.place pa = .memory then some (leReg (s.readMem pa 8)) else none

/-- Whether an entry of a binding table is valid: VALID is set and its reserved bits are zero. The spec names no fault for
nonzero ones, and the model takes such an entry for no binding, in both directions (DESIGN CHOICE: notes/assumptions/102). -/
def bindingValid (e : Reg) : Bool := e.getLsbD 63 && bf e 17 35 == 0

/-- The context of the other package that a binding names (R353). -/
def peerCtx (e : Reg) : Nat := (bf e 52 10).toNat

/-- Whether a package can be reached: its port set holds a port that is Up (R350); the own package is reached by the
loop-back (R352) (DEDUCED: notes/assumptions/33). -/
def State.reachable (s : State) (pkg : Nat) : Bool :=
  pkg == s.pkg ||
  (List.range 96).any fun p =>
    ((s.routes.lookup pkg).getD 0).getLsbD p && ((s.links[p]?).map (fun l => decide (l.state = .up))).getD false

/-- The denial that R345 gives for a kind of access. -/
def Access.denied : Access → Cause
  | .read => .readDenied | .write => .writeDenied | .execute => .executeDenied | .modify => .writeDenied

/-- The physical address at this package that an access of context `c` of package `from_` reaches through the window
(R353): the binding must be valid and name the context, a write needs WRITE, and the offset is translated through the
bound context's page table and must lie in HBM4E. -/
def State.admitAccess (s : State) (x fromPkg c off : Nat) (k : Access) : State × Except Cause Nat :=
  match s.binding x fromPkg with
  | none => (s, .error k.denied)
  | some e =>
    if !bindingValid e || peerCtx e ≠ c then (s, .error k.denied)
    else if (k = .write || k = .modify) && !e.getLsbD 62 then (s, .error .writeDenied)
    else
      match s.translate x ((bf e 0 17).toNat * 2 ^ 39 + off) k with
      | (s, .error c) => (s, .error c)
      | (s, .ok pa) => if pa < s.hbmSize then (s, .ok pa) else (s, .error .machineCheck)

/-- Sends something to another package or to a peer. -/
def State.post (s : State) (m : Message) : State := { s with outbox := m :: s.outbox }

/-- Where an access through the package window ends (R351 to R354): at a home of this package (the loop-back), at another
package, or with a fault. The request leaves for the bound context; a free value stands for the answer of the other package,
or for the loss of the link after the request has left, whether it is performed there or not (R351). -/
def State.remote (s : State) (c pkg off : Nat) (k : Access) (what : Request) : State × Except Cause (Option Nat) :=
  match s.binding c pkg with
  | none => (s, .error k.denied)
  | some e =>
    if !bindingValid e then (s, .error k.denied)
    else if !s.reachable pkg then (s, .error .machineCheck)
    else if pkg = s.pkg then
      match s.admitAccess (peerCtx e) pkg c off k with
      | (s, .error c) => (s, .error c)
      | (s, .ok pa) => (s, .ok (some pa))
    else
      let (s, v) := (s.post (.access pkg (peerCtx e) off what)).draw
      match v.toNat % 8 with
      | 1 => (s, .error .notPresent)
      | 2 => (s, .error k.denied)
      | 3 => (s, .error .tableFormat)
      | 4 => (s, .error .machineCheck)
      | _ => (s, .ok none)

/-! ### Loads, stores and read-modify-writes of global addresses -/

/-- How an access is to be made: at the home slice (an acquire at `.clu` or wider, or SCO `.clu` or wider, R271), without L1
allocation (`.nl1`, NT, R276), with the line marked `.kl1` (R276), as a release write at a scope (R260). -/
structure Path where
  atHome : Bool := false
  noAlloc : Bool := false
  keep : Bool := false
  rel : Option Nat := none
  deriving DecidableEq, Repr

/-- Who makes an access: a thread of a workgroup, or an engine or the hardware for a context. -/
structure Party where
  ctx : Nat
  wg : Option Nat
  deriving DecidableEq, Repr

/-- The byte of a pending write-through of a list, newest first (R275). -/
def pendingByte (l : List WriteThrough) (pa : Nat) : Option Byte :=
  (l.reverse.find? fun t => t.touches pa 1).map fun t => t.bytes.getD (pa - t.addr) 0

/-- The byte of a valid L1 word. -/
def l1Byte (l : List L1Word) (pa : Nat) : Option Byte :=
  (l.find? fun w => w.addr == pa / 4).map fun w => w.value.extractLsb' (8 * (pa % 4)) 8

/-- Puts the words of a range, with their values, into an L1 as valid and not owned, keeping those it holds. -/
def l1Fill (l : List L1Word) (get : Nat → Byte) (pa n : Nat) (keep : Bool) : List L1Word :=
  (wordsOf pa n).foldl (init := l) fun l a =>
    if l.any fun w => w.addr == a then l
    else { addr := a, value := BitVec.ofNat 32 (leNat ((List.range 4).map fun j => get (4 * a + j))), owned := false, keep := keep } :: l

/-- What an L1 holds after words have been read at the home: they are valid with the value read, and the other word of their
aligned 8 bytes is dropped unless it is owned, so that a later load of both reads one write (R257, R271). -/
def l1Refresh (l : List L1Word) (get : Nat → Byte) (pa n : Nat) (keep : Bool) : List L1Word :=
  l1Fill (l.filter fun y => y.owned || !y.within (pa / 8 * 8) ((pa + n + 7) / 8 * 8 - pa / 8 * 8)) get pa n keep

/-- What an L1 holds after a load that it could not serve (R271, R276). One without allocation fills nothing, and words of it that
L1 holds without owning them are dropped, being older; one that must read at the home leaves its words valid; any other
fetches the 48-byte sector (DESIGN CHOICE: notes/assumptions/9). -/
def l1Load (l : List L1Word) (get : Nat → Byte) (p : Path) (pa n : Nat) : List L1Word :=
  if p.noAlloc then l.filter fun z => z.owned || !z.within pa n
  else if p.atHome then l1Refresh l get pa n p.keep
  else l1Fill (l.filter fun z => z.owned || !z.within (pa / 48 * 48) 48) get (pa / 48 * 48) 48 p.keep

/-- Performs what a workgroup's read at the home slice waits for: the handover of its bucket (R281), its write-throughs to the
bucket (R282), and a recall (R268). -/
def State.beforeRead (s : State) (w k : Nat) (p : Path) (pa n : Nat) : State :=
  let s := (s.handOver k).drainBucket w pa
  if p.atHome then s.recall pa n else s

/-- A load by a thread's workgroup of bytes of this package's memory (R271, R275, R276). It is served from L1 when every word is
valid there, from a pending write-through first; else it is a request to the home. -/
def State.loadLocal (s : State) (w : Nat) (p : Path) (pa n : Nat) : State × List Byte :=
  match s.wg? w with
  | none => (s, s.readMem pa n)
  | some x =>
    if !p.atHome && (List.range n).all fun i => (l1Byte x.l1 (pa + i)).isSome then
      (s.countOf x (780 + x.core), (List.range n).map fun i => (pendingByte x.writes (pa + i)).getD ((l1Byte x.l1 (pa + i)).getD 0))
    else
      let k := s.bucketKey x.ctx pa
      let s := ((s.beforeRead w k p pa n).countOf x (828 + x.core)).request w k []
      (s.modWg w fun y => { y with l1 := l1Load y.l1 (Sparse.get s.mem) p pa n }, s.readMem pa n)

/-- A store by a thread of the group in hand to bytes of this package's memory (R272): a pending write-through of its workgroup, and
in L1 an aligned store of 4 or 8 bytes makes its words valid and owned, a narrower one or one without allocation drops them. -/
def State.storeLocal (s : State) (w : Nat) (p : Path) (pa : Nat) (bs : List Byte) : State :=
  s.modWg w fun x =>
    let k := s.bucketKey x.ctx pa
    let owns := !(p.noAlloc || bs.length < 4)
    let words : List L1Word :=
      if !owns then []
      else (List.range (bs.length / 4)).map fun i =>
        { addr := pa / 4 + i, value := BitVec.ofNat 32 (leNat ((bs.drop (4 * i)).take 4)), owned := true, keep := p.keep }
    { x with l1 := words ++ l1Drop x.l1 pa bs.length, reqSeq := setKey x.reqSeq k (x.seqTo k + 1),
             writes := x.writes ++ [{ addr := pa, bytes := bs, owns := owns, gen := s.generationOf (s.mapOf x.ctx),
                                      seq := x.seqTo k + 1, sent := s.tick, rel := p.rel,
                                      grp := (s.cur.map IssueSet.grp).getD 0, moment := s.moment }] }

/-- What an L1 holds after an atomic has read and written words at the home, on a path (R271, R276): without allocation, none of them;
else they are valid with the value that the atomic wrote, since no later load of its thread may read an older one (R256)
(DESIGN CHOICE: notes/assumptions/9). -/
def l1Modified (l : List L1Word) (get : Nat → Byte) (p : Path) (pa n : Nat) : List L1Word :=
  if p.noAlloc then l.filter fun z => !z.within pa n else l1Refresh l get pa n p.keep

/-- A read-modify-write at the home of bytes of this package's memory (R148): `f` gives the bytes stored from the old ones. No
other write falls between. It is of the release sequence that it follows, and heads one itself when it is a release (R261). -/
def State.modifyLocal (s : State) (w : Option Nat) (p : Path) (c pa n : Nat) (f : List Byte → List Byte) : State × List Byte :=
  let s := match w with
    | some w => (s.handOver (s.bucketKey c pa)).beforeAtomic w pa
    | none => s.engineRequest c pa
  let s := s.recall pa n
  let old := s.readMem pa n
  let run := s.released.filter fun e => decide (pa ≤ e.addr ∧ e.addr < pa + n)
  let s := s.writeHome none pa (f old)
  let s : State := { s with released := run ++ s.released }
  match w with
  | none => (s, old)
  | some w =>
    let s := match p.rel with | some sc => s.markReleased w pa n sc | none => s
    let mem := s.mem
    ((s.request w (s.bucketKey c pa) old).modWg w fun y => { y with l1 := l1Modified y.l1 (Sparse.get mem) p pa n }, old)

/-- The FADDR and other fields of the image of a failed translation (R329): the virtual address and the kind. -/
def translationTrap (c : Cause) (va : Reg) (k : Access) (unit : BitVec 2) : Trap :=
  { cause := c, addr := va, acc := k.code, unit := unit }

/-- The machine check of an access that reaches nothing (R279), or that another party ends (R351, R367)
(DEDUCED: notes/assumptions/96). -/
def machineCheckTrap (pa : Nat) (unit : BitVec 2) : Trap :=
  { cause := .machineCheck, addr := BitVec.ofNat 64 pa, unit := unit }

/-- An access through the host window, or an atomic at a CXL peer: it is made, or ends with an error or a timeout (R367, R369)
(DESIGN CHOICE: notes/assumptions/84). -/
def State.hostAccess {α : Type} (s : State) (pa : Nat) (unit : BitVec 2) (f : State → State × α) : State × Except Trap α :=
  if s.hostFails = 0 then ((f s).1, .ok (f s).2)
  else ({ s with hostFails := s.hostFails - 1 }, .error (machineCheckTrap pa unit))

/-- A load that is not made of this package's memory by way of a thread's L1 is not served from it (R381). -/
def State.countWindow (s : State) (p : Party) : State :=
  match p.wg.bind s.wg? with
  | some x => s.countOf x (828 + x.core)
  | none => s

/-- Loads `n` bytes of a global address (R345, R352 to R354, R367, R369): an access does not cross a page. An engine reads at the
home slice (R313). -/
def State.loadGlobal (s : State) (p : Party) (path : Path) (va : Reg) (n : Nat) (unit : BitVec 2) :
    State × Except Trap (List Byte) :=
  let atHome (s : State) (pa : Nat) : State × Except Trap (List Byte) :=
    let s := (s.engineRequest p.ctx pa).recall pa n
    let (s, bs) := s.raced none pa (s.readMem pa n)
    (s, .ok bs)
  match s.translate p.ctx va.toNat .read with
  | (s, .error c) => (s, .error (translationTrap c va .read unit))
  | (s, .ok pa) =>
    match s.place pa with
    | .memory =>
      match p.wg with
      | some w => let (s, v) := s.loadLocal w path pa n; (s, .ok v)
      | none => atHome s pa
    | .peer port =>
      let (s, v) := ((s.countWindow p).post (.peerAccess port (pa % 2 ^ 41) (.read n))).draw
      (s, .ok (leBytes n v.toNat))
    | .host a => (s.countWindow p).hostAccess pa unit fun s => (s, readBytes s.hostMem (s.hostKey p.ctx a) n)
    | .package q off =>
      match (s.countWindow p).remote p.ctx q off .read (.read n) with
      | (s, .error .machineCheck) => (s, .error (machineCheckTrap pa 3))
      | (s, .error c) => (s, .error (translationTrap c va .read 3))
      | (s, .ok (some pa)) => atHome s pa
      | (s, .ok none) => let (s, v) := s.draw; (s, .ok (leBytes n v.toNat))
    | .unbacked => (s, .error (machineCheckTrap pa unit))

/-- Stores bytes to a global address. A thread's store to the package's own memory is a write-through (R272); an engine's
or the hardware's is performed at the home (R313). -/
def State.storeGlobal (s : State) (p : Party) (path : Path) (va : Reg) (bs : List Byte) (unit : BitVec 2) :
    State × Except Trap Unit :=
  match s.translate p.ctx va.toNat .write with
  | (s, .error c) => (s, .error (translationTrap c va .write unit))
  | (s, .ok pa) =>
    match s.place pa with
    | .memory =>
      match p.wg with
      | some w => (s.storeLocal w path pa bs, .ok ())
      | none => ((s.engineRequest p.ctx pa).writeHome none pa bs, .ok ())
    | .peer port => ((s.flushLazy p.wg).post (.peerAccess port (pa % 2 ^ 41) (.write bs)), .ok ())
    | .host a => (s.flushLazy p.wg).hostAccess pa unit fun s =>
        ({ s with hostMem := writeBytes s.hostMem (s.hostKey p.ctx a) bs }, ())
    | .package q off =>
      match (s.flushLazy p.wg).remote p.ctx q off .write (.write bs) with
      | (s, .error .machineCheck) => (s, .error (machineCheckTrap pa 3))
      | (s, .error c) => (s, .error (translationTrap c va .write 3))
      | (s, .ok (some pa)) => (s.writeHome none pa bs, .ok ())
      | (s, .ok none) => (s, .ok ())
    | .unbacked => (s, .error (machineCheckTrap pa unit))

/-- Whether an access of an address for reading translates to one that R279 leaves unbacked. -/
def State.unbackedRead (s : State) (c va : Nat) : Bool :=
  match (s.translate c va .read).2 with
  | .ok pa => s.place pa == .unbacked
  | .error _ => false

/-- Checks that a store could be made, without making it: the address translates for writing and is backed. -/
def State.canStore (s : State) (c : Nat) (va : Reg) : Bool :=
  decide (va.toNat < 2 ^ 56) &&
  match (s.translate c va.toNat .write).2 with
  | .error _ => false
  | .ok pa => decide (s.place pa ≠ .unbacked)

/-- The device-register offset that an access of the command processor for a context leads to, if it leads to one (R279, R385). -/
def State.registerAt (s : State) (c va : Nat) (k : Access) : Option Nat :=
  match (s.translate c va k).2 with
  | .error _ => none
  | .ok pa => registerOffset pa

/-- An atomic operation as it is carried to another party (R349, R354, R367): its OP of R147, its operand, its fourth operand. -/
structure Carried where
  op : Nat
  b : Nat := 0
  c : Nat := 0
  deriving DecidableEq, Repr

/-- Whether the host and a CXL peer carry an operation (R367, R369): `add`, `exch` and `cas`. -/
def Carried.hostOk (a : Carried) : Bool := a.op < 4 || (18 ≤ a.op && a.op < 22)

/-- A read-modify-write of `n` bytes at the home of a global address (R148, R149): `f` gives the bytes to store from the
old ones. At another package, and at a peer, the operation itself is the request, which is performed there; one to a peer ends as one
to the host does when it comes back with an error or not at all (R367, R369). -/
def State.modifyGlobal (s : State) (p : Party) (path : Path) (a : Carried) (va : Reg) (n : Nat)
    (f : List Byte → List Byte) : State × Except Trap (List Byte) :=
  match s.translate p.ctx va.toNat .modify with
  | (s, .error c) => (s, .error (translationTrap c va .modify 0))
  | (s, .ok pa) =>
    match s.place pa with
    | .memory => let (s, old) := s.modifyLocal p.wg path p.ctx pa n f; (s, .ok old)
    | .peer port =>
      if a.hostOk then
        ((s.flushLazy p.wg).post (.peerAccess port (pa % 2 ^ 41) (.atomic a.op a.b a.c))).hostAccess pa 0 fun s =>
          let (s, v) := s.draw
          (s, leBytes n v.toNat)
      else (s, .error (machineCheckTrap pa 0))
    | .host h =>
      if a.hostOk then
        (s.flushLazy p.wg).hostAccess pa 0 fun s =>
          let old := readBytes s.hostMem (s.hostKey p.ctx h) n
          ({ s with hostMem := writeBytes s.hostMem (s.hostKey p.ctx h) (f old) }, old)
      else (s, .error (machineCheckTrap pa 0))
    | .package q off =>
      match (s.flushLazy p.wg).remote p.ctx q off .modify (.atomic a.op a.b a.c) with
      | (s, .error .machineCheck) => (s, .error (machineCheckTrap pa 3))
      | (s, .error c) => (s, .error (translationTrap c va .modify 3))
      | (s, .ok (some pa)) => let (s, old) := s.modifyLocal none {} p.ctx pa n f; (s, .ok old)
      | (s, .ok none) => let (s, v) := s.draw; (s, .ok (leBytes n v.toNat))
    | .unbacked => (s, .error (machineCheckTrap pa 0))

/-- The bucket that a thread's access of an address must be performed at now, if it is one of the package's own memory that
L1 cannot serve: a load that misses or must read at the home, or an atomic. -/
def State.awaited (s : State) (p : Party) (path : Option Path) (va : Reg) (n : Nat) : Option Nat :=
  match p.wg.bind s.wg?, (s.translate p.ctx va.toNat (if path.isSome then .read else .modify)).2 with
  | some x, .ok pa =>
    if s.place pa ≠ .memory then none
    else match path with
      | some q => if !q.atHome && (List.range n).all fun i => (l1Byte x.l1 (pa + i)).isSome then none else some (s.bucketKey p.ctx pa)
      | none => some (s.bucketKey p.ctx pa)
  | _, _ => none

/-- Whether a request to a bucket is held (R281, R282): the new home waits for the handover, or the request was hashed under a
map from before a change that moved the bucket, so that its old home refuses it. -/
def State.holdsRequest (s : State) (r : Option (Nat × Nat)) (k : Nat) : Bool :=
  s.handing k || (match r with | some (g, b) => b == k && decide (g < s.moveGen k) | none => false)

/-- Reads a run of bytes of a context's memory for the hardware, byte by byte; the first byte that fails ends it. -/
def State.readRun (s : State) (c : Nat) (va : Nat) : Nat → State × Except Trap (List Byte)
  | 0 => (s, .ok [])
  | n + 1 =>
    match s.loadGlobal ⟨c, none⟩ {} (BitVec.ofNat 64 va) 1 0 with
    | (s, .error t) => (s, .error t)
    | (s, .ok b) =>
      match s.readRun c (va + 1) n with
      | (s, .error t) => (s, .error t)
      | (s, .ok bs) => (s, .ok (b ++ bs))

/-- Writes a run of bytes of a context's memory for the hardware; the first byte that fails ends it. -/
def State.writeRun (s : State) (c : Nat) (va : Nat) : List Byte → State × Except Trap Unit
  | [] => (s, .ok ())
  | b :: bs =>
    match s.storeGlobal ⟨c, none⟩ {} (BitVec.ofNat 64 va) [b] 0 with
    | (s, .error t) => (s, .error t)
    | (s, .ok ()) => s.writeRun c (va + 1) bs

/-! ### What the command processor writes (R279, R385) -/

/-- The turn in which a register is written by the command processor (R385, R386): the event that the write is. -/
def registerTurn (off : Nat) (v : Reg) : Turn :=
  let on (i : Instr) (unit : Nat) : Turn := .event i { Input.none with unit := unit, addr := BitVec.ofNat 64 off, val := v }
  let page := (off - 0x400000) / 4096
  if off = 0x1000 then on .stoptickWrite 0
  else if off = 0x1008 then on .stopResume 0
  else if off = 0x1018 then on .lockstClear 0
  else if off = 0x2008 then on .samplerConfigWrite 1024
  else if 0x400000 ≤ off ∧ off < 0x800000 then
    match (off - 0x400000) % 4096 with
    | 0x800 => on .haltRequest page
    | 0x830 => on .dbgdataWrite page
    | 0x868 => on .samplerConfigWrite page
    | 0x900 => on .attreqWrite page
    | 0x910 => on .cevtClear page
    | 0x920 => if bf v 0 2 = 1 then on .serviceKillGroup page else on .serviceResume page
    | 0x928 => on .gangLaunch page
    | _ => on .registerWrite 0
  else on .registerWrite 0

/-- A run of bytes that the command processor writes for a context, by words of 8 (R279, R385): a word that leads to a device
register is that register's write, which comes about next; less than a whole register writes none of it
(DEDUCED: notes/assumptions/86). -/
def State.controlWrite (s : State) (c va : Nat) : List (List Byte) → State × Except Trap Unit
  | [] => (s, .ok ())
  | w :: ws =>
    match s.registerAt c va .write with
    | some off =>
      let s := if w.length = 8 ∧ off % 8 = 0 then { s with agenda := registerTurn off (leReg w) :: s.agenda } else s
      s.controlWrite c (va + w.length) ws
    | none =>
      match s.writeRun c va w with
      | (s, .error t) => (s, .error t)
      | (s, .ok ()) => s.controlWrite c (va + w.length) ws

/-- `State.controlWrite` of whole words. -/
def State.controlWords (s : State) (c va : Nat) (l : List Reg) : State × Except Trap Unit :=
  s.controlWrite c va (l.map fun r => leBytes 8 r.toNat)

end Sys2Proof.Machine
end

