-- ==== Sys2Proof/Machine/Threads.lean ====
section
/-! DEFINITION. Threads and groups by name, and the passage of a thread from one instruction group to the next: stall
counts (R82), the history that decides what a reader sees (R84), results on their way (R22), the result queue (R23). -/

namespace Sys2Proof.Machine

open Sys2Proof

/-! ### Access by name -/

/-- A group by workgroup and index. -/
def State.grp? (s : State) (w g : Nat) : Option Group := (s.wg? w).bind fun x => x.groups[g]?

/-- A thread by name. -/
def State.thread? (s : State) (t : ThreadId) : Option Thread := (s.grp? t.wg t.grp).bind fun g => g.threads[t.gtid]?

/-- Changes a group. -/
def State.modGrp (s : State) (w g : Nat) (f : Group → Group) : State :=
  s.modWg w fun x => { x with groups := x.groups.modify g f }

/-- Changes a thread. -/
def State.modThread (s : State) (t : ThreadId) (f : Thread → Thread) : State :=
  s.modGrp t.wg t.grp fun g => { g with threads := g.threads.modify t.gtid f }

/-- Sets a thread. -/
def State.setThread (s : State) (t : ThreadId) (x : Thread) : State := s.modThread t fun _ => x

/-- Whether a thread is live (R250, R335). -/
def Thread.isLive (t : Thread) : Bool := t.life == .live

/-- The GTIDs of a group's live threads. -/
def Group.liveGtids (g : Group) : List Nat :=
  (List.range g.threads.length).filter fun i => ((g.threads[i]?).map Thread.isLive).getD false

/-- Changes every live thread of a group. -/
def Group.mapLive (g : Group) (f : Thread → Thread) : Group :=
  { g with threads := g.threads.map fun t => if t.isLive then f t else t }

/-- Whether some thread of a workgroup is live. -/
def Workgroup.anyLive (w : Workgroup) : Bool := w.groups.any fun g => g.threads.any Thread.isLive

/-- Whether every live thread of a group satisfies a test. -/
def Group.allLive (g : Group) (p : Thread → Bool) : Bool := g.threads.all fun t => !t.isLive || p t

/-! ### Weaves (R9 to R11) -/

/-- The 32 lanes that a thread of a group issues with (R9, R12): threads of the same lanes modulo 32 sit in one block. -/
def Group.block (g : Group) (t : Nat) : Nat := (4 * g.quad + t) / 32

/-- Whether two threads of a group stand at one word, with the same words before it (R11, R67). -/
def Thread.standsWith (t u : Thread) : Bool := t.pc == u.pc && t.words == u.words

/-- The threads of a list that stand with a thread of a group, within its block of 32 lanes (R11). -/
def Group.alongside (g : Group) (ts : List Nat) (i : Nat) : List Nat :=
  match g.threads[i]? with
  | none => []
  | some t => ts.filter fun j => g.block j == g.block i && ((g.threads[j]?).map t.standsWith).getD false

/-- The weave of each of a list of threads becomes the one named by the first of those that stand with it (R11). -/
def Group.fuse (g : Group) (ts : List Nat) : Group :=
  { g with threads := g.threads.mapIdx fun i t =>
      if ts.contains i then { t with weave := ((g.alongside ts i).head?).getD i } else t }

/-- Threads of one weave that stand at different words are of different weaves (R11): each takes the name of the first of its old
weave that stands with it. -/
def Group.split (g : Group) : Group :=
  { g with threads := g.threads.mapIdx fun i t =>
      { t with weave := ((g.alongside ((List.range g.threads.length).filter fun j =>
          ((g.threads[j]?).map fun u => u.isLive && u.weave == t.weave).getD false) i).head?).getD i } }

/-- The weaves of a group split where its threads have parted (R11). -/
def State.splitWeaves (s : State) (w g : Nat) : State := s.modGrp w g Group.split

/-! ### Who takes part in a rendezvous -/

/-- The GTIDs of the live threads of a thread's block. -/
def Group.blockMembers (g : Group) (i : Nat) : List Nat := g.liveGtids.filter fun j => j / 32 = i / 32

/-- Whether a thread waits at a Denusk encode. -/
def Thread.atDenusk (t : Thread) : Bool := match t.wait with | .denusk _ _ _ => true | _ => false

/-- The participants of a sync, as threads: of the group, the workgroup, or every workgroup of the cluster launch. -/
inductive SyncSet where
  | group | workgroup | launch
  deriving DecidableEq, Repr

/-- The participants' set of a form and scope: form 0 is `gsync`, 1 `wsync`, 2 `bar.swap`. -/
def syncSet (form : Nat) (sc : BitVec 3) : SyncSet :=
  if form = 0 then .group else if form = 1 ∧ sc.toNat < 2 then .workgroup else .launch

/-- The workgroups of a workgroup's cluster launch, or itself. -/
def State.launchOf (s : State) (w : Nat) : List Workgroup :=
  match s.wg? w with
  | none => []
  | some x => s.wgs.filter fun y => y.id == w || x.peers.contains y.id

/-- The live threads of workgroups, by name. -/
def liveThreads (ws : List Workgroup) : List (ThreadId × Thread) :=
  ws.flatMap fun w => (List.range w.groups.length).flatMap fun g =>
    match w.groups[g]? with
    | none => []
    | some gr => gr.liveGtids.filterMap fun t => (gr.threads[t]?).map fun th => (⟨w.id, g, t⟩, th)

/-- The live participants of a sync that a thread issues. -/
def State.participants (s : State) (w g : Nat) (set : SyncSet) : List (ThreadId × Thread) :=
  match set with
  | .group => (liveThreads (s.wgs.filter fun x => x.id == w)).filter fun e => e.1.grp == g
  | .workgroup => liveThreads (s.wgs.filter fun x => x.id == w)
  | .launch => liveThreads (s.launchOf w)

/-! ### The result queue (R23 to R26) -/

/-- `reserve_queue` of R23. Seventeen slots are kept: one reservation at most can still be withdrawn (R24). -/
def Thread.reserve (t : Thread) : Thread :=
  { t with qseq := t.qseq + 1, queue := ({ val := 0, pending := true } :: t.queue).take 17 }

/-- The place of a slot in the queue, newest first; none when it has aged out. -/
def Thread.slotIndex (t : Thread) (slot : Nat) : Option Nat :=
  if slot ≤ t.qseq ∧ t.qseq - slot < t.queue.length then some (t.qseq - slot) else none

/-- `fill_slot` of R23. -/
def Thread.fill (t : Thread) (slot : Nat) (v : Reg) : Thread :=
  match t.slotIndex slot with
  | none => t
  | some i => { t with queue := t.queue.set i { val := v, pending := false } }

/-- `read_queue` of R23, of the slot at an age 1 to 16. -/
def Thread.readQueue (t : Thread) (n : Nat) : Reg :=
  if t.qseq < n then 0 else ((t.queue[n - 1]?).map QSlot.val).getD 0

/-- Withdraws the newest reservation (R26, R119): every older slot returns to its age. -/
def Thread.withdraw (t : Thread) : Thread :=
  { t with arriving := t.arriving.filter fun a => a.target ≠ .slot t.qseq, qseq := t.qseq - 1, queue := t.queue.tail }

/-! ### Writing and reading a place -/

/-- The value that a place of a thread holds. -/
def Thread.get (t : Thread) (p : Target) : Reg :=
  match p with
  | .named n => (t.regs[n]?).getD 0
  | .slot s => match t.slotIndex s with | none => 0 | some i => ((t.queue[i]?).map QSlot.val).getD 0
  | .pred n => bit (t.preds.getLsbD n)

/-- Puts a value into a place of a thread. -/
def Thread.put (t : Thread) (p : Target) (v : Reg) : Thread :=
  match p with
  | .named n => { t with regs := t.regs.setIfInBounds n v }
  | .slot s => t.fill s v
  | .pred n => { t with preds := (t.preds &&& ~~~((1 : BitVec 12) <<< n)) ||| (if v.getLsbD 0 then (1 : BitVec 12) <<< n else 0) }

/-- The value of a place in program order: the newest result on its way to it, else what it holds (R22). -/
def Thread.value (t : Thread) (p : Target) : Reg :=
  match t.arriving.find? fun a => a.target == p with
  | some a => a.value
  | none => t.get p

/-- Brings in the result on its way to a place, if any (R22, R23): the reader waits for it. -/
def Thread.settle (t : Thread) (p : Target) : Thread :=
  match t.arriving.find? fun a => a.target == p with
  | none => t
  | some a => { (t.put p a.value) with arriving := t.arriving.filter fun a => a.target ≠ p }

/-- Brings in every result on its way (R26). -/
def Thread.settleAll (t : Thread) : Thread :=
  t.arriving.foldl (init := t) fun t a => t.settle a.target

/-- A fixed-latency write (R83, R84): the place takes the value at once, and the history keeps what it held. A result
still on its way to the place is discarded (R22). -/
def Thread.writeFixed (t : Thread) (p : Target) (v : Reg) (lat : Nat) : Thread :=
  let t := { t with
    hist := { target := p, before := t.value p, clock := t.clock, lat := lat, pc := t.pc } :: t.hist,
    arriving := t.arriving.filter fun a => a.target ≠ p }
  t.put p v

/-- A variable-latency result (R83): it is on its way to the place; an older one is discarded (R22), and readers are
interlocked, so the history of the place ends. -/
def Thread.writeLate (t : Thread) (p : Target) (v : Reg) : Thread :=
  { t with arriving := { target := p, value := v } :: t.arriving.filter (fun a => a.target ≠ p),
           hist := t.hist.filter fun h => h.target ≠ p }

/-- A write that no reader can miss: one filled at issue (R112), or made when a rendezvous forms. -/
def Thread.writeNow (t : Thread) (p : Target) (v : Reg) : Thread :=
  { (t.put p v) with arriving := t.arriving.filter (fun a => a.target ≠ p), hist := t.hist.filter fun h => h.target ≠ p }

/-- Whether a producer stands at a distance below its latency (R84). -/
def Thread.under (t : Thread) (h : FixedWrite) : Bool := decide (t.clock - h.clock < h.lat)

/-- The value that TRUST reads (R84): that of the youngest writer whose distance is at least its latency; with none, the
value before the oldest writer in the history. -/
def trustValue (under : FixedWrite → Bool) : List FixedWrite → Reg → Reg
  | [], v => v
  | h :: t, v => if under h then trustValue under t h.before else v

/-- The value a reader gets from a place (R22, R84): in TRUST possibly one from before a recent write. -/
def Thread.readPlace (t : Thread) (p : Target) : Reg :=
  if t.imode = 1 then trustValue t.under (t.hist.filter fun h => h.target == p) (t.value p) else t.value p

/-- The producers that underrun for a reader of some places (R84): of each place, the youngest writer decides
(DEDUCED: notes/assumptions/11). -/
def Thread.underruns (t : Thread) (ps : List Target) : List FixedWrite :=
  t.hist.filter fun h => ps.contains h.target && t.under h &&
    decide (t.hist.find? (fun g => g.target == h.target) = some h)

/-! ### From one instruction group to the next -/

/-- The address of the group after the one in hand (R67). -/
def Thread.nextPc (t : Thread) : BitVec 56 := t.pc + BitVec.ofNat 56 (4 * (t.words.count + 1))

/-- The address of the word in hand. -/
def Thread.wordPc (t : Thread) : BitVec 56 := t.pc + BitVec.ofNat 56 (4 * t.words.count)

/-- Drops from a history what no later reader can miss: a writer at its latency, and every older writer of its place. -/
def pruneHist (under : FixedWrite → Bool) : List Target → List FixedWrite → List FixedWrite
  | _, [] => []
  | done, h :: t =>
    if done.contains h.target then pruneHist under done t
    else if under h then h :: pruneHist under done t
    else pruneHist under (h.target :: done) t

/-- Adds the group's stall count to the stall clock and uses it up (R82). -/
def Thread.tickStall (t : Thread) : Thread :=
  let t := { t with clock := t.clock + (t.stalls.headD 0).toNat, stalls := t.stalls.tail }
  { t with hist := pruneHist t.under [] t.hist }

/-- Passes to the next group in sequence. -/
def Thread.step (t : Thread) : Thread :=
  { t.tickStall with pc := t.nextPc, words := Words.none, wait := .running, request := none, counted := false }

/-- Takes a control transfer: unused stall counts are discarded (R82) and every fixed-latency result has been written
(R84). -/
def Thread.jump (t : Thread) (target : BitVec 56) : Thread :=
  { t with pc := target, words := Words.none, wait := .running, request := none, counted := false, clock := t.clock + (t.stalls.headD 0).toNat,
           stalls := [], hist := [] }

/-- An acquire of a thread: no load after it has been performed before it (R262). -/
def Thread.acquires (t : Thread) : Thread := { t with early := [] }

/-- Passes to the next group after a barrier wait, across which the stall distance is unbounded (R84); the wait's completion is
an acquire (R153). -/
def Thread.stepPast (t : Thread) : Thread := { t.acquires.step with hist := [] }

/-- Stands again at the first word of the group, as if it had not issued (R26). -/
def Thread.reissue (t : Thread) : Thread := { t with words := Words.none, wait := .running }

end Sys2Proof.Machine
end

