-- ==== Sys2Proof/Machine/Graphs.lean ====
section
/-! DEFINITION. Graph instances: budgets (R296), the record store (R297), emits and depths (R245, R246), final gathers
(R300), joins (R302), dryness (R248, R298), outstanding work (R309). -/

namespace Sys2Proof.Machine

open Sys2Proof

/-- A graph instance by number. -/
def State.graph? (s : State) (g : Nat) : Option Graph := s.graphs.find? fun x => x.id == g

/-- Changes a graph instance. -/
def State.modGraph (s : State) (g : Nat) (f : Graph → Graph) : State :=
  { s with graphs := s.graphs.map fun x => if x.id = g then f x else x }

/-- A node of a graph instance. -/
def State.node? (s : State) (g n : Nat) : Option Node := (s.graph? g).bind fun x => x.nodes[n]?

/-- Changes a node. -/
def State.modNode (s : State) (g n : Nat) (f : Node → Node) : State :=
  s.modGraph g fun x => { x with nodes := x.nodes.modify n f }

/-- The region values that a graph read for an index (R295). -/
def Graph.region? (g : Graph) (r : Nat) : Option Region := g.regions.find? fun x => x.index == r

/-- A region and its ancestors, within 8 levels (R8, R294). -/
def Graph.chain (g : Graph) (r : Nat) : List Nat :=
  go 8 r
where
  /-- The chain from a region up. -/
  go : Nat → Nat → List Nat
    | 0, _ => []
    | k + 1, r => r :: (match (g.region? r).bind Region.parent with | none => [] | some p => go k p)

/-- The bytes of a record of a size code (R292). -/
def recordBytes (rsize : Nat) : Nat :=
  match rsize with
  | 0 => 16 | 1 => 32 | 2 => 64 | 3 => 128 | _ => 32

/-- The records of a size code that a chunk of 256 bytes holds (R297). -/
def perChunk (rsize : Nat) : Nat :=
  match rsize with
  | 0 => 16 | 1 => 8 | 2 => 4 | 3 => 2 | _ => 8

/-- The chunks of a queue's reserved minimum (R297). -/
def NodeDesc.reserveChunks (d : NodeDesc) : Nat :=
  if d.kind = .join then 0 else (d.min + perChunk d.rsize - 1) / perChunk d.rsize

/-- The quires of a workgroup (R292). -/
def NodeDesc.quires (d : NodeDesc) : Nat := d.regq + d.spadq + d.l1q + d.exch

/-- What a region uses (R296): workgroups, quires, tiles, bytes of the record store. -/
structure Usage where
  wgs : Nat
  quires : Nat
  tiles : Nat
  bytes : Nat
  deriving DecidableEq, Repr

/-- Sum of two usages. -/
def Usage.add (a b : Usage) : Usage := ⟨a.wgs + b.wgs, a.quires + b.quires, a.tiles + b.tiles, a.bytes + b.bytes⟩

/-- What the nodes of a graph that lie under a region use (R296). -/
def State.graphUse (s : State) (g : Graph) (r : Nat) : Usage :=
  (List.range g.nodes.length).foldl (init := ⟨0, 0, 0, 0⟩) fun u i =>
    match g.nodes[i]? with
    | none => u
    | some n =>
      if (g.chain n.desc.rcb).contains r then
        let ws := s.wgs.filter fun w => w.graph == g.id && w.node == i
        let u := ws.foldl (init := u) fun u w => u.add ⟨if w.ongoing then 1 else 0, w.regq + w.spadq + w.l1q + w.exch, if w.ongoing then w.tilesHeld else 0, 0⟩
        u.add ⟨n.copyLaunches.length, 0, 0, 256 * (n.chunks.filter fun c => c.source ≠ .reserve && c.live > 0).length⟩
      else u

/-- What a region of a context uses over all the context's graphs (R296). -/
def State.regionUse (s : State) (c r : Nat) : Usage :=
  (s.graphs.filter fun g => g.ctx == c).foldl (init := ⟨0, 0, 0, 0⟩) fun u g => u.add (s.graphUse g r)

/-- Whether a budget admits an amount; none is no limit (R15). -/
def budgetOk (b : Option Nat) (n : Nat) : Bool := match b with | none => true | some k => decide (n ≤ k)

/-- Whether a further use fits every budget along a region's chain (R296). -/
def State.fitsBudget (s : State) (g : Graph) (r : Nat) (d : Usage) : Bool :=
  (g.chain r).all fun i =>
    match g.region? i with
    | none => true
    | some v =>
      let u := (s.regionUse g.ctx i).add d
      (d.wgs == 0 || budgetOk v.wgs u.wgs) && (d.quires == 0 || budgetOk v.quires u.quires) &&
      (d.tiles == 0 || budgetOk v.tiles u.tiles) && (d.bytes == 0 || budgetOk v.rsbytes u.bytes)

/-! ### The record store (R297) -/

/-- Changes an entry of a list of numbers. -/
def bump (l : List Nat) (i : Nat) (f : Nat → Nat) : List Nat := l.modify i f

/-- The source of a new chunk for a queue: its reserve, the die's pool, its spill area; none when there is no room. -/
def State.newChunk (s : State) (n : Node) : Option ChunkSource :=
  if (n.chunks.filter fun c => c.source = .reserve && c.live > 0).length < n.desc.reserveChunks then some .reserve
  else if s.poolUsed.getD n.desc.home 0 < Config.chunks then some .pool
  else if 256 * (s.spillUsed.getD n.desc.home 0 + 1) ≤ s.spillBytes then some .spill
  else none

/-- Whether a record could enter a queue now (R297): the count is below CAP, a slot can be had, and a chunk beyond the
reserve fits RSBYTES. -/
def State.hasRoom (s : State) (g n : Nat) : Bool :=
  match s.graph? g with
  | none => false
  | some gr =>
    match gr.nodes[n]? with
    | none => false
    | some nd =>
      decide (nd.queue.length < nd.desc.cap) &&
      (match nd.chunks.head? with
       | some c => decide (c.filled < perChunk nd.desc.rsize) || newOk gr nd
       | none => newOk gr nd)
where
  /-- Whether a new chunk can be had. -/
  newOk (gr : Graph) (nd : Node) : Bool :=
    match s.newChunk nd with
    | none => false
    | some .reserve => true
    | some _ => s.fitsBudget gr nd.desc.rcb ⟨0, 0, 0, 256⟩

/-- Whether a queue counts as at its cap for placement (R297, R303). -/
def State.atCap (s : State) (g n : Nat) : Bool :=
  match s.node? g n with
  | none => false
  | some nd => decide (nd.queue.length ≥ nd.desc.cap) || (!nd.waiting.isEmpty && !s.hasRoom g n)

/-- Puts a record at the end of a queue that has room: in its last chunk, or in a new one. -/
def State.putRecord (s : State) (g n : Nat) (bytes : List Byte) (depth : Nat) : State :=
  match s.node? g n with
  | none => s
  | some nd =>
    match nd.chunks.head? with
    | some c =>
      if c.filled < perChunk nd.desc.rsize then
        s.modNode g n fun nd =>
          { nd with queue := nd.queue ++ [{ bytes := bytes, depth := depth, entered := s.tick, chunk := c.id }],
                    chunks := nd.chunks.modify 0 fun c => { c with filled := c.filled + 1, live := c.live + 1 } }
      else fresh nd
    | none => fresh nd
where
  /-- The record in a chunk newly taken. -/
  fresh (nd : Node) : State :=
    let src := (s.newChunk nd).getD .reserve
    let s := match src with
      | .reserve => s
      | .pool => { s with poolUsed := bump s.poolUsed nd.desc.home (· + 1) }
      | .spill => ({ s with spillUsed := bump s.spillUsed nd.desc.home (· + 1) } : State).count0 (1108 + nd.desc.home)
    s.modNode g n fun nd =>
      { nd with queue := nd.queue ++ [{ bytes := bytes, depth := depth, entered := s.tick, chunk := nd.nextChunk }],
                chunks := { id := nd.nextChunk, source := src, filled := 1, live := 1 } :: nd.chunks,
                nextChunk := nd.nextChunk + 1 }

/-- A record enters a queue that has room (R297), and is counted (R381). -/
def State.enqueue (s : State) (g n : Nat) (bytes : List Byte) (depth : Nat) : State :=
  (s.putRecord g n bytes depth).count0 (1104 + ((s.node? g n).map fun x => x.desc.home).getD 0)

/-- Takes records out of their chunks; a chunk left with none is freed (R297). -/
def State.freeRecords (s : State) (g n : Nat) (rs : List Rec) : State :=
  match s.node? g n with
  | none => s
  | some nd =>
    let chunks : List Chunk := nd.chunks.map fun c => { c with live := c.live - (rs.filter fun (r : Rec) => r.chunk == c.id).length }
    let gone : List Chunk := chunks.filter fun c => c.live = 0
    let s := { s with
      poolUsed := bump s.poolUsed nd.desc.home (· - (gone.filter fun (c : Chunk) => c.source = ChunkSource.pool).length),
      spillUsed := bump s.spillUsed nd.desc.home (· - (gone.filter fun (c : Chunk) => c.source = ChunkSource.spill).length) }
    s.modNode g n fun nd => { nd with chunks := chunks.filter fun c => c.live > 0 }

/-- Adds to a graph's stranded count (R301, R309). -/
def State.strand (s : State) (g k : Nat) : State := s.modGraph g fun x => { x with stranded := x.stranded + k }

/-- Adds one to OVFCNT of a region's control block in memory (R295, R300), and to the graph's overflow count. -/
def State.overflow (s : State) (g r : Nat) : State :=
  match s.graph? g with
  | none => s
  | some gr =>
    let s := s.modGraph g fun x => { x with overflow := x.overflow + 1 }
    match s.ctx? gr.ctx with
    | none => s
    | some c =>
      let va := BitVec.ofNat 64 (c.rcbBase.toNat + 64 * r + 56)
      (s.modifyGlobal ⟨gr.ctx, none⟩ {} { op := 1, b := 1 } va 4 fun old => leBytes 4 (leNat old + 1)).1

/-! ### Emits -/

/-- The depth of a record emitted by node `frm` of a launch of a depth (R246). -/
def emitDepth (frm target depth : Nat) (remote : Bool) : Nat := if remote || target ≤ frm then depth + 1 else depth

/-- Whether a remote edge has a credit left (R245, R355). -/
def State.hasCredit (s : State) (g node port : Nat) : Bool :=
  match (s.graph? g).bind fun x => x.credits.lookup (node, port) with
  | some c => decide (c > 0)
  | none => true

/-- Sends a record over a remote port, taking one of its 32 credits (R355). A record to a package that no valid binding of the
context names is refused, and stranded at once (R356). -/
def State.sendRemote (s : State) (g frm port : Nat) (p : Port) (bytes : List Byte) (depth : Nat) : State :=
  match s.graph? g with
  | none => s
  | some gr =>
    match s.binding gr.ctx p.pkg with
    | none => s.strand g 1
    | some e =>
      if !bindingValid e then s.strand g 1
      else
        let c := (gr.credits.lookup (frm, port)).getD 32
        (s.modGraph g fun x => { x with credits := setKey x.credits (frm, port) (c - 1), remoteOut := x.remoteOut ++ [(frm, port, s.tick)] }).post
          (.record p.pkg (peerCtx e) p.node gr.graphid bytes depth)

/-- A join's record: zero but for the node index in bytes 0 to 3 (R302). -/
def joinRecord (n size : Nat) : List Byte := leBytes 4 n ++ List.replicate (size - 4) 0

/-- Puts a record into the queue of a node, or lets it wait there (R245, R297). A killed node strands it (R309), a join
counts it and at 0 fires over each valid out-port (R302), a final gather that has closed redirects it; a redirected record
holds no emitter (R300). The number bounds the joins that fire in turn. The answer tells whether the emitter waits
(DEDUCED: notes/assumptions/35). -/
def State.arrive : Nat → State → Nat → Nat → List Byte → Nat → Emitter → State × Bool
  | 0, s, _, _, _, _, _ => (s, false)
  | k + 1, s, g, n, bytes, depth, who =>
    match s.node? g n with
    | none => (s, false)
    | some nd =>
      if nd.killed then (s.strand g 1, false)
      else if nd.desc.kind = .join then
        let s := s.modNode g n fun x => { x with joinLeft := x.joinLeft - 1, joinDepth := max x.joinDepth depth }
        if nd.joinLeft = 1 && !nd.fired then
          let s := s.modNode g n fun x => { x with fired := true }
          let d := max nd.joinDepth depth
          ((List.range nd.desc.ports.length).foldl (init := s) fun s i =>
            match nd.desc.ports[i]? with
            | none => s
            | some p =>
              if !p.valid then s
              else if p.remote then s.sendRemote g n i p (joinRecord n 128) d
              else match s.node? g p.node with
                | some t => (State.arrive k s g p.node (joinRecord n (recordBytes t.desc.rsize)) d (.join n)).1
                | none => s, false)
        else (s, false)
      else if nd.finalClosed then
        let s := s.overflow g nd.desc.rcb
        match nd.desc.ports[7]? with
        | some p =>
          if p.valid && !p.compl && !p.remote then ((State.arrive k s g p.node bytes depth (.redirect n)).1, false)
          else if p.valid && !p.compl then
            if s.hasCredit g n 7 then (s.sendRemote g n 7 p bytes depth, false)
            else (s.modNode g n fun x => { x with waiting := x.waiting ++ [{ who := .redirect n, bytes := bytes, depth := depth }] }, false)
          else (s, false)
        | none => (s, false)
      else if nd.waiting.isEmpty && s.hasRoom g n then (s.enqueue g n bytes depth, false)
      else (s.modNode g n fun x => { x with waiting := x.waiting ++ [{ who := who, bytes := bytes, depth := depth }] }, true)

/-- A bound on the joins that can fire in turn: the nodes of the graph. -/
def State.joinFuel (s : State) (g : Nat) : Nat := ((s.graph? g).map fun x => x.nodes.length + 1).getD 1

/-- A completion of a node's work, of a depth, counts at the joins that its COMPL ports name (R293, R302)
A join that has been killed counts nothing more (DEDUCED: notes/assumptions/88). -/
def State.countAtJoins (s : State) (g n depth : Nat) (ports : List Port) : State :=
  ports.foldl (init := s) fun (s : State) (p : Port) =>
    let join := ((s.node? g p.node).map fun x => x.desc.kind == NodeKind.join && !x.killed).getD false
    if p.valid && p.compl && !p.remote && join then (s.arrive (s.joinFuel g) g p.node [] depth (.join n)).1 else s

/-- What a record meets at a port at once: entry, a wait, or a remote edge without credit. -/
inductive EmitOutcome where
  | entered | waits | noCredit
  deriving DecidableEq, Repr

/-- Whether a record emitted to a port would enter at once (R247). -/
def State.wouldEnter (s : State) (g : Nat) (frm port : Nat) (p : Port) : Bool :=
  if p.remote then
    s.hasCredit g frm port
  else
    match s.node? g p.node with
    | none => false
    | some nd => nd.killed || nd.desc.kind == .join || nd.finalClosed || (nd.waiting.isEmpty && s.hasRoom g p.node)

/-! ### Records that wait (R245, R297, R300) -/

/-- Whether a waiting record is one that a node's final gather has redirected (R300): it still stays in that node's queue. -/
def Waiting.redirectedBy (e : Waiting) (n : Nat) : Bool := match e.who with | .redirect m => m == n | _ => false

/-- Whether a record that waits at a node is one that its closed final gather has redirected over a remote port without credit: such a
record has been counted (R300). -/
def redirectedRemote (n : Nat) (nd : Node) (e : Waiting) : Option Port :=
  if e.redirectedBy n then (nd.desc.ports[7]?).filter fun p => p.valid && !p.compl && p.remote else none

/-- Whether a host's record waits to enter its entry node's queue. -/
def Graph.hostWaits (g : Graph) : Bool := g.nodes.any fun n => n.waiting.any fun e => e.who == .host

/-- Whether a record that waits first at a node can go on now: into the queue, or, after a closed final gather, away from it. -/
def State.waitEnds (s : State) (g n : Nat) (nd : Node) (e : Waiting) : Bool :=
  if (redirectedRemote n nd e).isSome then s.hasCredit g n 7 else nd.finalClosed || s.hasRoom g n

/-! ### Dryness and launchability (R298) -/

/-- Whether a workgroup is dry on a port: each of its threads has declared it done or ended (R248). -/
def Workgroup.dryOn (w : Workgroup) (p : Nat) : Bool :=
  w.groups.all fun g => g.threads.all fun t => !t.isLive || t.ports.getLsbD p

/-- The ports of a node that name node `n` of the same package. -/
def NodeDesc.portsTo (d : NodeDesc) (n : Nat) : List Nat :=
  (List.range 8).filter fun i => match d.ports[i]? with
    | some p => p.valid && !p.remote && p.node == n
    | none => false

/-- Whether a node's sources are dry (R298) (DEDUCED: notes/assumptions/61). -/
def State.dry (s : State) (g n : Nat) : Bool :=
  match s.graph? g with
  | none => false
  | some gr =>
    (gr.entry ≠ n || gr.hostLeft.isEmpty) &&
    (gr.entry ≠ n || (gr.nodes[n]?).all fun x => x.waiting.all fun e => e.who ≠ .host) &&
    (List.range gr.nodes.length).all fun m =>
      match gr.nodes[m]? with
      | none => true
      | some src =>
        let ps := src.desc.portsTo n
        if ps.isEmpty then true
        else
          (m == n || src.queue.isEmpty) &&
          (s.wgs.filter fun w => w.graph == g && w.node == m).all fun w => ps.all fun p => w.dryOn p

/-- Whether a gather of a node is launchable (R298). -/
def State.launchable (s : State) (g n : Nat) : Bool :=
  match s.node? g n with
  | none => false
  | some nd =>
    let c := nd.queue.length
    nd.desc.kind ≠ .join && !nd.killed && c ≥ 1 &&
    (c ≥ nd.desc.per || (nd.desc.gather ≥ 1 && s.dry g n) || (nd.desc.gather = 2 && nd.timerDue))

/-- Marks, for each node of a graph, since when a gather has been launchable (R303). -/
def State.noteCandidates (s : State) (g : Nat) : State :=
  match s.graph? g with
  | none => s
  | some gr =>
    (List.range gr.nodes.length).foldl (init := s) fun s n =>
      let l := s.launchable g n
      s.modNode g n fun nd => { nd with candidateSince := if l then some (nd.candidateSince.getD s.tick) else none }

/-! ### Outstanding work (R309) -/

/-- The outstanding-work count of a graph instance (R309). -/
def State.outstanding (s : State) (g : Nat) : Nat :=
  match s.graph? g with
  | none => 0
  | some gr =>
    gr.hostLeft.length + gr.remoteOut.length + (s.wgs.filter fun w => w.graph == g && w.ongoing).length +
    (gr.nodes.foldl (init := 0) fun k n =>
      k + n.queue.length + n.waiting.length + (n.held.foldl (init := 0) fun j e => j + e.2.length) +
      n.copyLaunches.length)

/-- Whether a node's queue holds a record that can still become launchable, with nothing of the graph running (R298, R301): a
gather that is launchable, or one that its timer will make so. -/
def State.mayLaunch (s : State) (g n : Nat) : Bool :=
  s.launchable g n ||
  (match s.node? g n with
   | none => false
   | some nd => nd.desc.kind ≠ .join && !nd.killed && nd.desc.gather = 2 && !nd.queue.isEmpty)

end Sys2Proof.Machine
end

