-- ==== Sys2Proof/Machine/Ops.lean ====
section
/-! DEFINITION. Taking a fault and returning from one: the fault image (R328), the causes (R329), a delivery (R330), the
fault log (R331), the policies (R333, R334), kills and what they settle (R335, R336), parking and halting (R337, R338),
service (R332), and the end of a workgroup (R14). -/

namespace Sys2Proof.Machine

open Sys2Proof

/-! ### Causes -/

/-- The cause codes of R329. -/
def Cause.code : Cause → BitVec 8
  | .zeroWord => 0x01 | .undefinedInstruction => 0x02 | .registerRange => 0x03 | .uniformDivergence => 0x04
  | .stallUnderrun => 0x05 | .unallocatedResource => 0x06 | .nonCanonical => 0x07 | .misalignedAddress => 0x08
  | .misalignedTarget => 0x09 | .scratchpadRange => 0x0A | .readOnlySpace => 0x0B | .windowRange => 0x0C
  | .clusterRank => 0x0D | .collectiveMask => 0x10 | .collectiveMismatch => 0x11 | .barrierCount => 0x12
  | .barrierConflict => 0x13 | .unarmedBarrier => 0x14 | .barrierOverrun => 0x15 | .brokenBarrier => 0x16
  | .gangConfiguration => 0x17 | .gangMismatch => 0x18 | .gangAbort => 0x19 | .walkConfiguration => 0x1A
  | .walkState => 0x1B | .matrixDescriptor => 0x20 | .unimplementedCombination => 0x21 | .matrixIndex => 0x22
  | .lookupDescriptor => 0x23 | .staleTable => 0x24 | .tableRange => 0x25 | .engineDescriptor => 0x26
  | .copyMismatch => 0x27 | .unboundPort => 0x28 | .recursionBound => 0x29 | .softwareTrap => 0x30
  | .breakpoint => 0x31 | .haltRequest => 0x32 | .graphStall => 0x38 | .notPresent => 0x40 | .readDenied => 0x41
  | .writeDenied => 0x42 | .executeDenied => 0x43 | .tableFormat => 0x44 | .machineCheck => 0x50

/-- The fate of a cause under the park policy (R329): resumed at the instruction, resumed after it, or not serviceable. -/
inductive Fate where
  | replay | skip | none
  deriving DecidableEq, Repr

/-- The park column of R329. -/
def Cause.fate : Cause → Fate
  | .brokenBarrier | .gangAbort | .softwareTrap | .breakpoint => .skip
  | .haltRequest | .notPresent | .readDenied | .writeDenied | .executeDenied | .tableFormat => .replay
  | _ => .none

/-- Whether a cause is a translation fault, whose parked deliveries on one page share a log entry (R331, R346). -/
def Cause.isTranslation : Cause → Bool
  | .notPresent | .readDenied | .writeDenied | .executeDenied | .tableFormat => true
  | _ => false

/-- A trap with a cause and a fault address, raised by a thread (DEDUCED: notes/assumptions/19). -/
def trap (c : Cause) (a : Reg) : Trap := { cause := c, addr := a }

/-! ### The thread's side -/

/-- Whether a waiting thread holds a queue slot reserved at its rendezvous (R118). -/
def Wait.reserved : Wait → Bool
  | .lane _ _ _ r => r
  | .compress _ _ _ _ r => r
  | .denusk _ _ r => r
  | _ => false

/-- A thread as if the instruction it stands at had not issued (R26): no reservation, no words in progress. -/
def Thread.unissue (t : Thread) : Thread := (if t.wait.reserved then t.withdraw else t).reissue

/-- The image a fault writes (R328), with the PC of the group's first word. A thread that waits at a barrier and takes a
fault that is not the wait's own goes on waiting after it, since its arrival is not repeated (R167)
(DEDUCED: notes/assumptions/100). -/
def Thread.takeImage (t : Thread) (x : Trap) : Thread :=
  let u := match t.wait with
    | .barrier _ _ _ => if x.cause = Cause.brokenBarrier then t.reissue else t
    | _ => t.unissue
  { u with fault := { cause := x.cause.code, pc := t.pc, faddr := x.addr, acc := x.acc, unit := x.unit, aux := x.aux } }

/-- A killed thread (R335): its pending slots and in-flight writes are discarded. -/
def Thread.kill (t : Thread) : Thread :=
  if t.isLive then { t.unissue with life := .killed, arriving := [], hist := [] } else t

/-- Whether a thread stands at the `fuse` word at an address (R115). -/
def Thread.atFuse (t : Thread) (pc : BitVec 56) : Bool :=
  t.isLive && t.pc == pc && (match t.wait with | .fuse _ => true | _ => false)

/-- Threads of a group proceed past the instruction they stand at, as weaves of those that stand together: a fusion point
(R11). -/
def Group.stepFused (g : Group) (pick : Nat → Thread → Bool) (go : Thread → Thread) : Group :=
  let ts := (List.range g.threads.length).filter fun i => ((g.threads[i]?).map fun t => pick i t).getD false
  let f := g.fuse ts
  { f with threads := f.threads.mapIdx fun i t => if ts.contains i then go t else t }

/-- The wait at a `fuse` word ends: every thread that stands there proceeds (R115). -/
def Group.fuseAt (g : Group) (pc : BitVec 56) : Group := g.stepFused (fun _ t => t.atFuse pc) Thread.step

/-- Ends the waits at one `fuse` word once every live thread of the group stands there (R115). -/
def Group.fuseRelease (g : Group) : Group :=
  match g.liveGtids.head?.bind fun i => g.threads[i]? with
  | none => g
  | some t => if g.allLive fun u => u.atFuse t.pc then g.fuseAt t.pc else g

/-- Whether every live group of a workgroup has come to the formation of a `cpy`, for which room in the queue may be wanting (R223). -/
def Workgroup.formed (x : Workgroup) : Bool := x.groups.all fun g => g.formation.isSome || g.liveGtids.isEmpty

/-- Whether the rendezvous at which a thread of a group waits has formed among the threads that are still live (R28, R155, R157, R223,
R138): no live one is missing. -/
def State.hasFormed (s : State) (y : Workgroup) (g : Nat) (gr : Group) (i : Nat) (t : Thread) : Bool :=
  match t.wait with
  | .uniform => gr.allLive fun u => u.wait == .uniform && u.pc == t.pc
  | .denusk _ _ _ => (gr.blockMembers i).all fun j => ((gr.threads[j]?).map fun u => u.atDenusk && u.pc == t.pc).getD false
  | .sync form sc => (s.participants y.id g (syncSet form sc)).all fun e => e.2.wait == t.wait && e.2.pc == t.pc
  | .formation => y.formed
  | _ => false

/-- The threads of a group of a workgroup whose rendezvous an end has completed issue it again, and it is performed. -/
def State.wakeGroup (s : State) (y : Workgroup) (g : Nat) (gr : Group) : Group :=
  let woken (i : Nat) (t : Thread) : Bool := t.isLive && s.hasFormed y g gr i t
  let again := { gr with threads := gr.threads.mapIdx fun i t => if woken i t then t.unissue else t }
  { again.fuseRelease with formation := if y.formed then none else gr.formation }

/-- The end of threads of a workgroup completes rendezvous of the workgroup and of its cluster launch at which no other live thread
is missing. Those at which one is go on waiting (R138, R155). -/
def State.wakePeers (s : State) (w : Nat) : State :=
  match s.wg? w with
  | none => s
  | some x =>
    { s with wgs := s.wgs.map fun y =>
        if y.id = w || x.peers.contains y.id then
          { y with groups := y.groups.mapIdx fun g gr => s.wakeGroup y g gr }
        else y }

/-! ### Deliveries -/

/-- The engine event whose fault a delivery is (R154, R253, R334): the workgroup that takes it, the command that it stops, by its
order of acceptance, if it stops one, and the trap. -/
structure EngineFault where
  wg : Nat
  order : Option Nat
  trap : Trap
  deriving DecidableEq, Repr

/-- A delivery (R330): threads that take faults at one instruction of one group or at one engine event. -/
structure Delivery where
  hits : List (ThreadId × Trap)
  engine : Option EngineFault := none
  deriving DecidableEq, Repr

/-- Whether a thread goes before another in a delivery: by workgroup, then group (R253), then GTID (R330). -/
def ThreadId.before (a b : ThreadId) : Bool :=
  decide (a.wg < b.wg) || (a.wg == b.wg && (decide (a.grp < b.grp) || (a.grp == b.grp && decide (a.gtid < b.gtid))))

/-- Puts a thread's fault into a delivery's list, which holds each thread once, by its first fault. -/
def insertHit (h : ThreadId × Trap) : List (ThreadId × Trap) → List (ThreadId × Trap)
  | [] => [h]
  | e :: t => if h.1 = e.1 then h :: t else if h.1.before e.1 then h :: e :: t else e :: insertHit h t

/-- The threads of a delivery in order, each once: the first is the representative (R330). -/
def Delivery.ordered (d : Delivery) : List (ThreadId × Trap) := d.hits.foldr insertHit []

/-- A delivery to threads of one group. -/
def Delivery.ofGroup (w g : Nat) (hits : List (Nat × Trap)) : Delivery :=
  { hits := hits.map fun h => (⟨w, g, h.1⟩, h.2) }

/-- A delivery of one trap to every live thread of a workgroup. -/
def State.wholeDelivery (s : State) (w : Nat) (x : Trap) : Delivery :=
  match s.wg? w with
  | none => { hits := [] }
  | some y =>
    { hits := (List.range y.groups.length).flatMap fun g =>
        match y.groups[g]? with
        | none => []
        | some gr => gr.liveGtids.map fun t => (⟨w, g, t⟩, x) }

/-- The delivery of a fault of an engine to a workgroup as a whole (R154, R334), which has a party even when no thread is left. -/
def State.engineDelivery (s : State) (w : Nat) (order : Option Nat) (x : Trap) : Delivery :=
  { s.wholeDelivery w x with engine := some { wg := w, order := order, trap := x } }

/-- The delivery of a fault of an engine command of a workgroup, which stops the command (R253). -/
def State.commandDelivery (s : State) (w order : Nat) (x : Trap) : Delivery := s.engineDelivery w (some order) x

/-- A delivery of one trap to every live thread of a group (R116, R168, R193, R215). -/
def State.groupDelivery (s : State) (w g : Nat) (x : Trap) : Delivery :=
  match s.grp? w g with
  | none => { hits := [] }
  | some gr => .ofGroup w g (gr.liveGtids.map fun t => (t, x))

/-- The region values a workgroup's launch took (R295); a workgroup of no graph has the context defaults (R15). -/
def State.regionOf (s : State) (w : Workgroup) : Region :=
  let d : Region := { index := 0, parent := none, wgs := none, quires := none, tiles := none, rsbytes := none,
                      prio := 0, policy := 0, preempt := 0, timeout := 0, seed := 0 }
  match s.graph? w.graph with
  | none => d
  | some g => match g.nodes[w.node]? with
    | none => d
    | some n => (g.region? n.desc.rcb).getD d

/-! ### The fault log (R331) -/

/-- What an entry of the fault log says. -/
structure LogFields where
  ctx : Nat
  cause : BitVec 8
  policy : Nat
  unit : BitVec 2
  acc : BitVec 2
  rcb : Nat
  node : Nat
  group : Nat
  faddr : Reg
  pc : BitVec 56
  graphid : BitVec 32
  launch : Nat
  nthr : Nat
  deriving DecidableEq, Repr

/-- The words of an entry (R331). -/
def LogFields.words (f : LogFields) (tick seq count : Nat) : List Reg :=
  [ f.cause ++ BitVec.ofNat 3 f.policy ++ f.unit ++ f.acc ++ (0 : BitVec 17) ++ BitVec.ofNat 16 f.rcb ++
      BitVec.ofNat 12 f.node ++ BitVec.ofNat 4 f.group,
    f.faddr, (0 : BitVec 8) ++ f.pc,
    f.graphid ++ BitVec.ofNat 24 f.launch ++ BitVec.ofNat 8 (min f.nthr 255),
    BitVec.ofNat 64 tick, BitVec.ofNat 32 seq ++ BitVec.ofNat 32 count, BitVec.ofNat 64 f.ctx, 0 ]

/-- Writes an entry to a context's fault log and raises its interrupt; the answer is the entry's sequence number and its
place, or nothing when the entry is dropped: FLLOST rises and CEVT bit 1 is set (DEDUCED: notes/assumptions/26). -/
def State.writeLog (s : State) (f : LogFields) : State × Option (Nat × Nat) :=
  match s.ctx? f.ctx with
  | none => (s, none)
  | some c =>
    let dropped (s : State) : State × Option (Nat × Nat) :=
      ((s.modCtx f.ctx fun x => { x with fllost := x.fllost + 1 }).ctxEvent f.ctx 2, none)
    if c.logBase = 0 || (c.flprod - c.flcons).toNat ≥ 2 ^ c.logSize then dropped s
    else
      let place := c.flprod.toNat % 2 ^ c.logSize
      match s.controlWords f.ctx (c.logBase.toNat + 64 * place) (f.words s.tick c.nextSeq 1) with
      | (s, .error _) => dropped s
      | (s, .ok ()) =>
        let s := s.modCtx f.ctx fun x => { x with flprod := x.flprod + 1, nextSeq := x.nextSeq + 1 }
        ({ s with irqs := c.logVector :: s.irqs }, some (c.nextSeq, place))

/-- Whether an entry still holds a parked or halted delivery (R332). -/
def Service.holds (v : Service) : Bool := !v.groups.isEmpty || !v.nodes.isEmpty || !v.orders.isEmpty

/-- The entry that parked translation deliveries of a context on a page of 4 KiB share (R331, R346)
(DEDUCED: notes/assumptions/99). -/
def State.sharedEntry (s : State) (c : Nat) (page : Reg) : Option Service :=
  s.services.find? fun v => v.ctx == c && v.page == some page && v.holds

/-- Changes an entry under service. -/
def State.modService (s : State) (c seq : Nat) (f : Service → Service) : State :=
  { s with services := s.services.map fun u => if u.ctx = c && u.seq = seq then f u else u }

/-- Raises COUNT of a shared entry (R331). -/
def State.bumpLog (s : State) (v : Service) : State :=
  match s.ctx? v.ctx with
  | none => s
  | some c => (s.controlWrite v.ctx (c.logBase.toNat + 64 * v.place + 40) [leBytes 4 (v.count + 1)]).1

/-! ### The end of a workgroup (R14) -/

/-- The core a workgroup stands on. -/
def State.core? (s : State) (c : Nat) : Option Core := s.cores[c]?

/-- Changes a core. -/
def State.modCore (s : State) (c : Nat) (f : Core → Core) : State := { s with cores := s.cores.modify c f }

/-- The commands issued for a workgroup that have not completed. -/
def State.commandsOf (s : State) (w : Nat) : List Command :=
  (s.cores.flatMap fun c => c.matrix ++ c.lookup ++ c.copy).filter (fun x => x.wg == w) ++
  (s.tambours.flatten.filter fun x => x.wg == w) ++
  ((s.colls.filter fun x => x.cmd.wg == w).map Coll.cmd) ++
  (((s.wg? w).map Workgroup.saved).getD [])

/-- The effective slack of a queued command (R225). -/
def Command.effectiveSlack (c : Command) (completed : Nat) : Nat := c.slack - (completed - c.completedAt)

/-- Starts the queued copy-engine command of lowest effective slack when the engine is free; ties go to the earlier
acceptance (R225). -/
def Core.start (k : Core) : Core :=
  match k.copyRunning, k.copy with
  | none, c :: t =>
    let best := t.foldl (init := c) fun b x => if x.effectiveSlack k.copyCompleted < b.effectiveSlack k.copyCompleted then x else b
    { k with copyRunning := some best.order }
  | _, _ => k

/-- Whether a command is a `lay`, which a tambour performs. -/
def Command.isLay (c : Command) : Bool := match c.op with | .lay .. => true | _ => false

/-- Puts a resident workgroup's saved commands back into the queues of its engines, in their order, as far as there is room (R223,
R318, R326): each takes an entry again when it is queued. -/
def State.requeue (s : State) (w : Nat) : State :=
  match s.wg? w with
  | none => s
  | some x =>
    if x.saved.isEmpty || x.res ≠ .resident then s
    else
      let cpys := (x.saved.filter fun c => !c.isLay).take (64 - ((s.core? x.core).map fun k => k.copy.length).getD 64)
      let lays := (x.saved.filter Command.isLay).take (16 - (s.tambours.getD (x.core / 4) []).length)
      let queued := (cpys ++ lays).map Command.order
      let s := s.modCore x.core fun (k : Core) =>
        Core.start { k with copy := k.copy ++ cpys.map fun (c : Command) => { c with completedAt := k.copyCompleted } }
      let s : State := { s with tambours := s.tambours.modify (x.core / 4) fun q => q ++ lays }
      s.modWg w fun y => { y with saved := y.saved.filter fun c => !queued.contains c.order }

/-- What waits for room in an engine's queue goes on, the commands of resumed workgroups first (R326): threads that wait on an
engine issue again (R187, R207, R250), and those of a formed `cpy` (R223). -/
def State.wakeEngines (s : State) : State :=
  let s := (s.wgs.map Workgroup.id).foldl (init := s) State.requeue
  { s with wgs := s.wgs.map fun w =>
    { w with groups := w.groups.map fun g => g.mapLive fun t =>
        if t.wait = .engine || (t.wait = .formation && w.formed) then t.reissue else t } }

/-- Drops the copy-engine and tambour commands of a workgroup, with what they wait to emit, and abandons its collectives,
of which the other participants are told (R335, R359); a command that is dying stays. What waited for room in a queue
goes on (R318), the `lay` of a copy node by an event of its own. -/
def State.dropCommands (s : State) (w : Nat) : State :=
  let gone : List (Nat × Nat) := (List.range s.cores.length).flatMap fun i =>
    match s.cores[i]? with
    | none => []
    | some c => (c.copy.filter fun x => x.wg == w && !x.dying).map fun x => (i, x.order)
  let dropped (x : Command) : Bool := x.wg == w && !x.dying
  let orders := ((s.commandsOf w).filter dropped).map Command.order
  State.wakeEngines { s with
    wgs := s.wgs.map fun x => if x.id = w then { x with saved := [] } else x,
    services := s.services.map fun v => { v with orders := v.orders.filter fun o => !orders.contains o },
    cores := s.cores.map fun c =>
      let running := match c.copyRunning with
        | none => none
        | some o => if c.copy.any fun x => x.order == o && x.wg == w && !x.dying then none else some o
      { c with copy := c.copy.filter (fun x => x.wg ≠ w || x.dying), copyRunning := running }.start,
    tambours := s.tambours.map fun q => q.filter fun x => x.wg ≠ w || x.dying,
    graphs := s.graphs.map fun (g : Graph) => { g with nodes := g.nodes.map fun (n : Node) =>
      { n with waiting := n.waiting.filter fun (e : Waiting) => match e.who with
          | .texp c o => !gone.contains (c, o)
          | _ => true } },
    colls := s.colls.filter fun x => !dropped x.cmd,
    outbox := ((s.colls.filter fun x => dropped x.cmd).flatMap fun x =>
      x.members.map fun p => Message.collNotice p x.comm x.number .abandoned) ++ s.outbox }

/-- Whether an operation has split granules, or points of its own, at which a killed workgroup's command stops (R225). -/
def splits : Instr → Bool
  | .cpy .. | .topk .. | .lay .. => true
  | _ => false

/-- Ends the commands of a workgroup that has been killed whole (R335, R359): a running `cpy`, `topk`, `lay` or `coll` goes on to
its next split granule, the others are dropped (DEDUCED: notes/assumptions/21). -/
def State.abandon (s : State) (w : Nat) : State :=
  let mark (c : Command) : Command := { c with dying := true }
  State.dropCommands { s with
    cores := s.cores.map fun k => { k with copy := k.copy.map fun c =>
      if c.wg == w && k.copyRunning == some c.order && splits c.op && !c.stopped then mark c else c },
    tambours := s.tambours.map fun (q : List Command) => q.modify 0 fun (c : Command) =>
      if c.wg == w && splits c.op && !c.stopped then mark c else c,
    colls := s.colls.map fun x =>
      if x.cmd.wg == w && !x.cmd.stopped && !(s.colls.any fun y => y.ctx == x.ctx && y.comm == x.comm && decide (y.number < x.number))
      then { x with cmd := mark x.cmd } else x } w

/-- The bytes of a workgroup's save image (R342). -/
def Workgroup.saveBytes (x : Workgroup) (full : Bool) : Nat :=
  4096 + (x.groups.foldl (init := 0) fun n g => n + g.threads.length * (8 * g.allot + 288)) +
    (if full then 196608 * (x.spadq + x.exch) + 98304 * x.tilesHeld else 0)

/-- Gives back the save-pool bytes of a pre-empted workgroup (R342). -/
def State.freeImage (s : State) (x : Workgroup) : State :=
  match x.res with
  | .preempted full => s.modCtx x.ctx fun c => { c with saveUsed := c.saveUsed - x.saveBytes full }
  | _ => s

/-- Lets a completed workgroup's quires go once every workgroup of its cluster launch has completed (R176). -/
def State.letGo (s : State) (x : Workgroup) : State :=
  let launch (y : Workgroup) : Bool := y.id == x.id || x.peers.contains y.id
  if s.wgs.all fun y => !launch y || !y.ongoing then { s with wgs := s.wgs.filter fun y => !launch y } else s

/-- Completes a workgroup once it has no live thread and no command left (R14): its write-throughs are performed (R277),
its completion counts at the joins its COMPL ports name (R302), and the records of its launch are let go when no
workgroup of the launch remains. -/
def State.tryComplete (s : State) (w : Nat) : State :=
  match s.wg? w with
  | none => s
  | some x =>
    if !x.ongoing || x.anyLive || !(s.commandsOf w).isEmpty then s
    else
      let s := (s.drainAll w).freeImage x
      let killed := x.groups.any fun g => g.threads.any fun t => t.life == .killed
      let s := (s.modWg w fun y => { y with res := .complete killed }).letGo x
      let s : State := match s.node? x.graph x.node with
        | none => s
        | some nd =>
          let s := s.countAtJoins x.graph x.node x.depth nd.desc.ports
          if s.wgs.any fun y => y.graph == x.graph && y.node == x.node && y.launch == x.launch && y.ongoing then s
          else
            let rs := (nd.held.filter fun (e : Nat × List Rec) => e.1 = x.launch).flatMap Prod.snd
            let s := s.freeRecords x.graph x.node rs
            s.modNode x.graph x.node fun (n : Node) => { n with held := n.held.filter fun (e : Nat × List Rec) => e.1 ≠ x.launch }
      s.noteCandidates x.graph

/-! ### Kills (R335, R336) -/

/-- The waiters of a workgroup at barriers that break, as deliveries: one for the threads of a group at one PC. -/
def brokenDeliveries (w : Nat) (y : Workgroup) (broken : Nat → Bool) : List Delivery :=
  (List.range y.groups.length).flatMap fun g =>
    match y.groups[g]? with
    | none => []
    | some gr =>
      let waiters : List (Nat × Nat × BitVec 56) := gr.liveGtids.filterMap fun t =>
        match gr.threads[t]? with
        | some th => match th.wait with
          | .barrier b _ _ => if broken b then some (t, b, th.pc) else none
          | _ => none
        | none => none
      let pcs := (waiters.map fun x => x.2.2).eraseDups
      pcs.map fun pc => Delivery.ofGroup w g
        ((waiters.filter fun x => x.2.2 == pc).map fun x => (x.1, trap .brokenBarrier (BitVec.ofNat 64 x.2.1)))

/-- The groups that wait at a gang latch whose gang counts a group that has ended: they take the gang-mismatch fault
(R179). -/
def latchDeliveries (w : Nat) (y : Workgroup) (ended : Nat) : List Delivery :=
  (List.range y.groups.length).filterMap fun g =>
    match y.groups[g]? with
    | none => none
    | some gr => match gr.latch with
      | some (k :: _) =>
        match y.gangs[k.toNat]? with
        | some gg => if gg.valid && gg.members.getLsbD ended && g ≠ ended then
            some (Delivery.ofGroup w g (gr.liveGtids.map fun t => (t, trap .gangMismatch k))) else none
        | none => none
      | _ => none

/-- Whether a live thread of a workgroup's region is parked or halted: no barrier of the region breaks then (R336). -/
def State.regionHeld (s : State) (x : Workgroup) : Bool :=
  s.wgs.any fun y => y.ctx == x.ctx && (s.regionOf y).index == (s.regionOf x).index &&
    y.groups.any fun g => g.stop ≠ .running && g.threads.any Thread.isLive

/-- Kills the threads of groups of a workgroup (R335) and, if the workgroup survives, breaks the armed barriers at which
threads of other groups wait (R336). Threads that wait at a collective for one of them end with it, and take no fault of R119
(DEDUCED: notes/assumptions/27). The answer is what must then be delivered. -/
def State.killGroups (s : State) (w : Nat) (gs : List Nat) : State × List Delivery :=
  match s.wg? w with
  | none => (s, [])
  | some x =>
    let s := gs.foldl (init := s) fun s g =>
      s.modGrp w g fun gr => { gr with threads := gr.threads.map Thread.kill, holds := [], latch := none, formation := none }
    let s : State := { s with graphs := s.graphs.map fun (g : Graph) => { g with nodes := g.nodes.map fun (n : Node) =>
      { n with waiting := n.waiting.filter fun (e : Waiting) => match e.who with
          | .thread t => !(t.wg = w && gs.contains t.grp)
          | _ => true } } }
    let s : State := { s with services := s.services.map fun (v : Service) =>
      { v with groups := v.groups.filter fun (e : Nat × Nat) => !(e.1 = w && gs.contains e.2) } }
    match s.wg? w with
    | none => (s, [])
    | some y =>
      if y.anyLive then
        let waited (b : Nat) : Bool := y.groups.any fun g => g.threads.any fun t =>
          t.isLive && (match t.wait with | .barrier c _ _ => c == b | _ => false)
        let held := s.regionHeld y
        let broken (b : Nat) : Bool := !held && ((x.barriers[b]?).map Barrier.armed).getD false && waited b
        let s := s.modWg w fun z =>
          { z with barriers := Vector.ofFn fun (i : Fin 16) =>
              if broken i.val then { z.barriers[i] with broken := true } else z.barriers[i] }
        let ds := brokenDeliveries w y broken ++ gs.flatMap fun g => latchDeliveries w y g
        (s.wakePeers w, ds)
      else (((s.wakePeers w).abandon w).tryComplete w, [])

/-- The copy-node launches of a node, by number. -/
def State.copyIds (s : State) (g n : Nat) : List Nat := ((s.node? g n).map fun nd => nd.copyLaunches.map CopyLaunch.id).getD []

/-- Ends what a copy node is doing (R333, R334): its launches, the commands placed for them, what they wait to emit, and its
deliveries under service. -/
def State.endCopyLaunches (s : State) (g n : Nat) : State :=
  let ids := s.copyIds g n
  let s : State := { s with
    services := s.services.map fun v => { v with nodes := v.nodes.filter (· ≠ (g, n)) },
    tambours := s.tambours.map fun (q : List Command) => q.filter fun (c : Command) => !(c.bar = none && ids.contains c.wg),
    graphs := s.graphs.map fun (x : Graph) => { x with nodes := x.nodes.map fun (m : Node) =>
      { m with waiting := m.waiting.filter fun (e : Waiting) => match e.who with
          | .copyNode i => !ids.contains i
          | _ => true } } }
  let left := ((s.node? g n).map fun nd => nd.copyLaunches.flatMap CopyLaunch.records).getD []
  let held := ((s.node? g n).map fun nd => (nd.held.filter fun (e : Nat × List Rec) => ids.contains e.1).flatMap Prod.snd).getD []
  let s := (s.strand g left.length).freeRecords g n held
  s.modNode g n fun nd =>
    { nd with copyLaunches := [], held := nd.held.filter fun (e : Nat × List Rec) => !ids.contains e.1 }

/-- An emitter whose record has been taken from it proceeds (R245): a thread passes its `emit`; the others are seen to by
their own events. -/
def State.emitterProceeds (s : State) (e : Emitter) : State :=
  match e with
  | .thread t => s.modThread t fun x => match x.wait with | .emitting _ => x.step | _ => x
  | .texp c o => s.modCore c fun k => { k with copy := k.copy.map fun x =>
      if x.order = o then { x with progress := x.progress + 1, stopped := false } else x }
  | _ => s

/-- Tells the emitter of a record that it has been taken from it (R245, R355). -/
def State.admitted (s : State) (g n : Nat) (e : Waiting) : State :=
  match e.who with
  | .remote p =>
    let gr := s.graph? g
    { s with outbox := .credit p ((gr.map Graph.ctx).getD 0) n ((gr.map Graph.graphid).getD 0) :: s.outbox }
  | w => s.emitterProceeds w

/-- Strands the records that are queued at a node and those that wait there (R301, R309): their emitters go on. -/
def State.discardRecords (s : State) (g n : Nat) : State :=
  match s.node? g n with
  | none => s
  | some nd =>
    let s := (s.strand g (nd.queue.length + nd.waiting.length)).freeRecords g n nd.queue
    let s := s.modNode g n fun x => { x with queue := [], waiting := [] }
    nd.waiting.foldl (init := s) fun s e => s.admitted g n e

/-- Whether what is left of a graph can never launch (R301): nothing of it runs or has still to be enqueued, no gather is or can
become launchable, and no record that waits can go on now or when a credit comes back. A record that waits for what other graphs
hold does not count as one that can become launchable (DEDUCED: notes/assumptions/109). -/
def State.strandable (s : State) (gr : Graph) : Bool :=
  let goes (n : Nat) (nd : Node) (e : Waiting) : Bool := s.waitEnds gr.id n nd e ||
    ((redirectedRemote n nd e).isSome && gr.remoteOut.any fun r => r.1 == n && r.2.1 == 7)
  gr.hostLeft.isEmpty && !gr.hostWaits && (s.wgs.all fun w => w.graph ≠ gr.id || !w.ongoing) &&
  (gr.nodes.all fun n => n.copyLaunches.isEmpty && n.held.isEmpty) &&
  ((List.range gr.nodes.length).all fun n => !s.mayLaunch gr.id n) &&
  (List.range gr.nodes.length).all fun n => match gr.nodes[n]? with
    | none => true
    | some nd => (nd.waiting.head?).all fun e => !goes n nd e

/-- Discards what can never launch (R301): the records left are stranded. -/
def State.strandLeft (s : State) (g : Nat) : State :=
  match s.graph? g with
  | none => s
  | some gr => if s.strandable gr then (List.range gr.nodes.length).foldl (init := s) fun s n => s.discardRecords g n else s

/-- Kills a node of a graph (R333): its workgroups, its queued, closed and redirected records, and every record later emitted
to it. -/
def State.killNode (s : State) (g n : Nat) : State × List Delivery :=
  let ws := (s.wgs.filter fun w => w.graph == g && w.node == n).map Workgroup.id
  let ids := s.copyIds g n
  let closed := ((s.node? g n).map fun nd => (nd.held.filter fun (e : Nat × List Rec) => !ids.contains e.1).flatMap Prod.snd).getD []
  let s := (s.strand g closed.length).freeRecords g n closed
  let s := s.modNode g n fun nd => { nd with killed := true, held := nd.held.filter fun (e : Nat × List Rec) => ids.contains e.1 }
  let (s, ds) := ws.foldl (init := (s, [])) fun acc w =>
    let gs := List.range (((acc.1.wg? w).map fun x => x.groups.length).getD 0)
    let (s, d) := acc.1.killGroups w gs
    (s, acc.2 ++ d)
  let s := (s.endCopyLaunches g n).discardRecords g n
  let away := ((s.graph? g).map fun x => x.nodes.flatMap fun m => m.waiting.filter (Waiting.redirectedBy · n)).getD []
  let s := (s.strand g away.length).modGraph g fun x =>
    { x with nodes := x.nodes.map fun m => { m with waiting := m.waiting.filter fun e => !e.redirectedBy n } }
  (s.wakeEngines, ds)

/-- Kills the nodes of a context's running graphs that a test on the region chain picks (R333). -/
def State.killNodes (s : State) (c : Nat) (pick : Graph → NodeDesc → Bool) : State × List Delivery :=
  let all := (s.graphs.filter fun g => g.ctx == c).flatMap fun g =>
    (List.range g.nodes.length).filterMap fun n => match g.nodes[n]? with
      | some nd => if pick g nd.desc then some (g.id, n) else none
      | none => none
  all.foldl (init := (s, [])) fun acc e =>
    let (s, d) := acc.1.killNode e.1 e.2
    (s, acc.2 ++ d)

/-! ### Taking a fault -/

/-- The members of a mask word, as GTIDs (R117). -/
def maskMembers (m : Reg) : List Nat :=
  ((List.range 32).filter fun i => m.getLsbD i).map fun i => 32 * (bf m 32 2).toNat + i

/-- The groups of a workgroup, by name. -/
def State.allGroups (s : State) (w : Nat) : List (Nat × Nat) :=
  (List.range (((s.wg? w).map fun x => x.groups.length).getD 0)).map fun g => (w, g)

/-- The groups that a delivery's threads belong to. -/
def Delivery.groups (d : Delivery) : List (Nat × Nat) := (d.hits.map fun h => (h.1.wg, h.1.grp)).eraseDups

/-- A group that stands at a rendezvous of groups, a gang's latch or the formation of a `cpy`, has not issued there: its threads
issue again (R179, R223). -/
def Group.stepBack (g : Group) : Group :=
  { g.mapLive (fun t => if t.wait = .latch || t.wait = .formation then t.unissue else t) with latch := none, formation := none }

/-- Stops groups under a fault-log entry (R337, R338): each runs again when every entry that holds it has been resumed. A group
that stood at a rendezvous of groups has not issued there (R179, R223). -/
def State.stopGroups (s : State) (gs : List (Nat × Nat)) (st : Stop) : State :=
  gs.foldl (init := s) fun s e => s.modGrp e.1 e.2 fun g => { g.stepBack with holds := st :: g.holds }

/-- Takes back the record of a blocked `emit` that has not issued (R249). -/
def State.dropWaiting (s : State) (ts : List ThreadId) : State :=
  { s with graphs := s.graphs.map fun (g : Graph) => { g with nodes := g.nodes.map fun (n : Node) =>
      { n with waiting := n.waiting.filter fun (e : Waiting) => match e.who with
          | .thread t => !ts.contains t
          | _ => true } } }

/-- Applies a policy that ends work to a delivery's groups (R333). -/
def State.endUnder (s : State) (policy : Nat) (w : Workgroup) (gs : List (Nat × Nat)) : State × List Delivery :=
  let rcb := ((s.node? w.graph w.node).map fun n => n.desc.rcb).getD 0
  match policy with
  | 1 => s.killNode w.graph w.node
  | 2 => s.killNodes w.ctx fun _ d => d.rcb == rcb
  | 3 => s.killNodes w.ctx fun g d => (g.chain d.rcb).contains rcb
  | _ => s.killGroups w.id (gs.map Prod.snd)

/-- The waiters at a rendezvous whose mask names a member that is no longer live: they take the collective-mismatch fault
when the member leaves (R119, R158). -/
def Group.orphans (g : Group) : List (Nat × Trap) :=
  g.liveGtids.filterMap fun i =>
    match g.threads[i]? with
    | none => none
    | some t =>
      let m : Option Reg := match t.wait with
        | .lane m _ _ _ => some m
        | .compress m _ _ _ _ => some m
        | _ => none
      match m with
      | none => none
      | some m =>
        if (maskMembers m).all fun j => ((g.threads[j]?).map Thread.isLive).getD false then none
        else some (i, trap .collectiveMismatch (t.pc.setWidth 64))

/-- A delivery under a policy that ends work (R333). The faulting threads end first: threads of their group that then wait for
one of them take the collective-mismatch fault (R119), a delivery of its own, which ends the group (DEDUCED: notes/assumptions/27). -/
def State.endDelivery (s : State) (policy : Nat) (w : Workgroup) (hits : List ThreadId) (gs : List (Nat × Nat)) :
    State × List Delivery :=
  let t := hits.foldl (init := s) fun s h => s.modThread h Thread.kill
  let left := (gs.map fun e => Delivery.ofGroup e.1 e.2 (((t.grp? e.1 e.2).map Group.orphans).getD [])).filter fun d => !d.hits.isEmpty
  if left.isEmpty then s.endUnder policy w gs
  else
    let others := gs.filter fun e => left.all fun d => !d.groups.contains e
    let (t, ds) := if others.isEmpty then (t, []) else t.endUnder policy w others
    (t, left ++ ds)

/-- The policy that a delivery is handled under (R330, R331, R333, R374): the region's; halt is park while breakpoints are not
enabled, a halt request halts, and a delivery that park cannot serve is handled as kill group. -/
def State.policyFor (s : State) (w : Workgroup) (x : Trap) (serviceable : Bool) : Nat :=
  let r := s.regionOf w
  let brk := ((s.ctx? w.ctx).map Context.brkEn).getD false
  let want := if x.cause = .haltRequest then 5 else if r.policy = 5 && !brk then 4 else r.policy
  if want = 4 && !serviceable then 0 else want

/-- One delivery (R330 to R338): each thread's image, the graph's count, the policy, the log entry. A delivery of an engine
to a workgroup that has no live thread left has no representative, and is served by its own cause (DEDUCED: notes/assumptions/27). The
answer is what must be delivered in its turn. -/
def State.deliverOne (s : State) (d : Delivery) : State × List Delivery :=
  let hits := d.ordered.filter fun h => ((s.thread? h.1).map Thread.isLive).getD false
  let party : Option (Nat × Nat × BitVec 56 × Trap) := match hits.head?, d.engine with
    | some h, _ => some (h.1.wg, h.1.grp, ((s.thread? h.1).map Thread.pc).getD 0, h.2)
    | none, some e => some (e.wg, 0, 0, e.trap)
    | none, none => none
  match party with
  | none => (s, [])
  | some (wid, grp, pc, rx) =>
    match s.wg? wid with
    | none => (s, [])
    | some w =>
      let s := hits.foldl (init := s) fun s h => s.modThread h.1 fun t => t.takeImage h.2
      let s := s.dropWaiting (hits.map Prod.fst)
      let s := s.modGraph w.graph fun g => { g with faults := g.faults + 1 }
      let want := s.policyFor w rx ((rx :: hits.map Prod.snd).all fun t => t.cause.fate ≠ .none)
      let gs := Delivery.groups { hits := hits }
      let orders := (d.engine.bind EngineFault.order).toList
      let fields : LogFields :=
        { ctx := w.ctx, cause := rx.cause.code, policy := want, unit := rx.unit, acc := rx.acc, rcb := (s.regionOf w).index,
          node := w.node, group := grp, faddr := rx.addr, pc := pc,
          graphid := ((s.graph? w.graph).map Graph.graphid).getD 0, launch := w.launch, nthr := hits.length }
      let page : Option Reg := if rx.cause.isTranslation && want = 4 then some (rx.addr >>> 12) else none
      let skips := (hits.filter fun h => h.2.cause.fate = .skip).map Prod.fst
      match page.bind fun p => s.sharedEntry w.ctx p with
      | some v =>
        let s := (s.bumpLog v).modService v.ctx v.seq fun u =>
          { u with groups := u.groups ++ gs, count := u.count + 1, skip := u.skip ++ skips, orders := u.orders ++ orders }
        (s.stopGroups gs (.parked v.seq), [])
      | none =>
        let ends (s : State) (policy : Nat) : State × List Delivery :=
          s.endDelivery policy w (hits.map Prod.fst) (if gs.isEmpty then s.allGroups w.id else gs)
        match s.writeLog fields with
        | (s, none) => ends s (if want ≥ 4 then 0 else want)
        | (s, some (seq, place)) =>
          if want ≥ 4 then
            let v : Service := { ctx := w.ctx, seq := seq, place := place, groups := gs, count := 1, page := page, nodes := [],
                                 skip := skips, orders := orders }
            ({ s with services := v :: s.services }.stopGroups gs (if want = 4 then .parked seq else .halted seq), [])
          else ends s want

/-- Deliveries one after another, with those they give rise to. -/
def State.deliverAll : Nat → List Delivery → State → State
  | 0, _, s => s
  | _, [], s => s
  | k + 1, d :: ds, s =>
    let (s, more) := s.deliverOne d
    State.deliverAll k (ds ++ more) s

/-- A bound on the deliveries that one can give rise to: each kill ends a group for good. -/
def State.deliveryFuel (s : State) : Nat :=
  s.wgs.foldl (init := 1) fun k w => k + (w.groups.length + 1) * (w.groups.foldl (init := 1) fun j g => j + g.threads.length)

/-- TAKING AN EXCEPTION: every fault of a thread, a group, a workgroup or an engine event is taken here (R328 to R338). -/
def State.takeFault (s : State) (d : Delivery) : State := State.deliverAll (s.deliveryFuel + 1) [d] s

/-- Several deliveries in order. -/
def State.takeFaults (s : State) (ds : List Delivery) : State := State.deliverAll (s.deliveryFuel + ds.length) ds s

/-! ### Returning from a fault (R332, R337) -/

/-- The words of the group that begins at an address (R67): its hints and prefix and its instruction word. -/
def State.groupLength (s : State) (c : Nat) (pc : Nat) : Nat → Nat
  | 0 => 1
  | k + 1 =>
    match (s.translate c pc .execute).2 with
    | .error _ => 1
    | .ok pa =>
      let w : Word := BitVec.ofNat 32 (leNat (s.readMem pa 4))
      let more := bf w 26 6 = 0x3E || (bf w 26 6 = 0x3F && (w.getLsbD 25 || bf w 23 3 = 2))
      if more then s.groupLength c (pc + 4) k + 1 else 1

/-- The hold of an entry on a group ends (R332, R337); one that another entry holds stays stopped. -/
def Group.release (g : Group) (seq : Nat) : Group :=
  { (g.mapLive fun t => { t with hist := [] }) with holds := g.holds.filter fun h => h ≠ .parked seq && h ≠ .halted seq }

/-- The engine commands that an entry stopped go on (R253, R334). -/
def State.restartCommands (s : State) (orders : List Nat) : State :=
  let goes (c : Command) : Command := if orders.contains c.order then { c with stopped := false } else c
  { s with wgs := s.wgs.map fun x => { x with saved := x.saved.map goes },
           cores := s.cores.map fun k => { k with copy := k.copy.map goes },
           tambours := s.tambours.map fun q => q.map goes,
           colls := s.colls.map fun x => { x with cmd := goes x.cmd } }

/-- Lets go of the copy-node launches that an entry holds, and of their commands (R334). -/
def State.restartNodes (s : State) (v : Service) : State :=
  let ids := v.nodes.flatMap fun e => (((s.node? e.1 e.2).map Node.copyLaunches).getD []).filterMap fun l =>
    if l.heldBy = some v.seq then some l.id else none
  let goes (c : Command) : Command := if c.bar.isNone && ids.contains c.wg then { c with stopped := false } else c
  { v.nodes.foldl (init := s) (fun s e => s.modNode e.1 e.2 fun n =>
      { n with copyLaunches := n.copyLaunches.map fun l => if ids.contains l.id then { l with heldBy := none } else l }) with
    tambours := s.tambours.map fun q => q.map goes }

/-- Takes an entry off those under service. -/
def State.dropService (s : State) (v : Service) : State :=
  { s with services := s.services.filter fun u => !(u.ctx = v.ctx && u.seq = v.seq) }

/-- Resumes the deliveries of a service entry: Replay causes stand at their instruction, Skip causes after it. Results in
flight have been written, so the stall distance is unbounded across the resumption (R84). The engine commands that it stopped
continue (R253). -/
def State.resumeService (s : State) (v : Service) : State :=
  let s := v.groups.eraseDups.foldl (init := s) fun s e => s.modGrp e.1 e.2 (Group.release · v.seq)
  let s := v.skip.foldl (init := s) fun s t =>
    match s.thread? t with
    | none => s
    | some x =>
      if !x.isLive then s
      else
        let n := s.groupLength v.ctx x.pc.toNat 4
        s.setThread t { x.step with pc := x.pc + BitVec.ofNat 56 (4 * n), hist := [] }
  ((s.restartNodes v).restartCommands v.orders).dropService v

/-- Kills the groups of a service entry (R332, ACTION 1); a workgroup of which it holds nothing but commands ends, with no live
thread left to it. -/
def State.killService (s : State) (v : Service) : State :=
  let bare := (s.wgs.filter fun x => !x.anyLive && (s.commandsOf x.id).any fun c => v.orders.contains c.order).map Workgroup.id
  let s := s.dropService v
  let ws := (v.groups.map Prod.fst).eraseDups
  let (s, ds) := ws.foldl (init := (s, [])) fun acc w =>
    let (s, d) := acc.1.killGroups w ((v.groups.filter fun e => e.1 = w).map Prod.snd)
    (s, acc.2 ++ d)
  let (s, ds) := v.nodes.foldl (init := (s, ds)) fun acc e =>
    let (s, d) := acc.1.killNode e.1 e.2
    (s, acc.2 ++ d)
  (bare.foldl (init := s) fun s w => (s.abandon w).tryComplete w).takeFaults ds

/-! ### The context machine check (R339) -/

/-- Kills all the work of a context without writing its signal words (R339, R393): its workgroups, commands, graphs and
collectives. -/
def State.killContext (s : State) (c : Nat) : State :=
  let ws := (s.wgs.filter fun w => w.ctx == c).map Workgroup.id
  let gs := (s.graphs.filter fun g => g.ctx == c)
  let s := ws.foldl (init := s) fun s w => (s.dropCommands w).drainAll w
  let copyIds := gs.flatMap fun g => g.nodes.flatMap fun n => n.copyLaunches.map CopyLaunch.id
  let s : State := { s with
    cores := s.cores.map fun (k : Core) =>
      { k with matrix := k.matrix.filter (fun (x : Command) => !ws.contains x.wg),
               lookup := k.lookup.filter (fun (x : Command) => !ws.contains x.wg),
               copy := k.copy.filter (fun (x : Command) => !ws.contains x.wg),
               copyRunning := k.copyRunning.filter fun o => k.copy.any fun (x : Command) => x.order == o && !ws.contains x.wg }.start,
    tambours := s.tambours.map fun (q : List Command) => q.filter fun (x : Command) =>
      !ws.contains x.wg && !(x.bar = none && copyIds.contains x.wg),
    wgs := s.wgs.filter fun w => w.ctx ≠ c,
    services := s.services.filter fun v => v.ctx ≠ c,
    colls := s.colls.filter fun x => x.ctx ≠ c,
    outbox := ((s.colls.filter fun x => x.ctx == c).flatMap fun x =>
      x.members.map fun p => Message.collNotice p x.comm x.number .abandoned) ++ s.outbox,
    gangMembers := s.gangMembers.filter fun m => m.ctx ≠ c }
  let s := gs.foldl (init := s) fun s g => g.nodes.foldl (init := s) fun s n =>
    { s with poolUsed := bump s.poolUsed n.desc.home
               (· - (n.desc.reserveChunks + (n.chunks.filter fun (k : Chunk) => k.source = ChunkSource.pool).length)),
             spillUsed := bump s.spillUsed n.desc.home (· - (n.chunks.filter fun (k : Chunk) => k.source = ChunkSource.spill).length) }
  let s := s.modCtx c fun x => { x with saveUsed := 0 }
  { s with graphs := s.graphs.filter fun g => g.ctx ≠ c }

/-- A context machine check (R339): the context's work is killed, its queues stop with their overrun events, and it stays
failed. -/
def State.contextMachineCheck (s : State) (c : Nat) : State :=
  let s := s.killContext c
  let qs := (s.queues.filter fun q => q.2.ctx = c).map Prod.fst
  let s : State := { s with queues := s.queues.map fun (q : Nat × HostQueue) => if q.2.ctx = c then (q.1, { q.2 with stopped := true }) else q }
  let s := qs.foldl (init := s) fun s q => s.modCtx c fun x =>
    { x with cevt := (x.cevt &&& ~~~(0xFFF0000 : Reg)) ||| 4 ||| BitVec.ofNat 64 (q * 65536) }
  s.modCtx c fun x => { x with failed := true }

end Sys2Proof.Machine
end

