-- ==== Sys2Proof/Machine/Operands.lean ====
section
/-! DEFINITION. Operand forms: source specifiers (R69), destination codes (R70), predicate selectors (R27), the words of a
group and what an instruction accepts of them (R76 to R81, R88), reading under the interlock mode (R84), and writing
results with the prefix's mask and policy (R77, R25). -/

namespace Sys2Proof.Machine

open Sys2Proof

/-! ### Codes -/

/-- A source specifier's meaning (R69). -/
inductive Src where
  | named (n : Nat)
  | queue (age : Nat)
  | scalar (n : Nat)
  | const (v : Reg)
  | gtid | lane | tid | recidx
  | reserved
  deriving DecidableEq, Repr

/-- The source specifiers of R69. -/
def srcOf (c : BitVec 7) : Src :=
  if c.toNat < 0x40 then .named c.toNat
  else if c.toNat < 0x50 then .queue (c.toNat - 0x3F)
  else if c.toNat < 0x70 then .scalar (c.toNat - 0x50)
  else match c.toNat with
    | 0x70 => .const 0
    | 0x71 => .const 1
    | 0x72 => .const 0xFFFFFFFFFFFFFFFF
    | 0x73 => .const 2
    | 0x74 => .gtid
    | 0x75 => .lane
    | 0x76 => .tid
    | 0x77 => .recidx
    | 0x78 => .const 0x3F800000
    | 0x79 => .const 0x3F000000
    | 0x7A => .const 0x40000000
    | 0x7B => .const 0x80000000
    | 0x7C => .const 0x8000000000000000
    | _ => .reserved

/-- A destination code's meaning (R70). -/
inductive Dst where
  | named (n : Nat)
  | push
  | discard
  | scalar (n : Nat)
  | reserved
  deriving DecidableEq, Repr

/-- The destination codes of R70. -/
def dstOf (c : BitVec 7) : Dst :=
  if c.toNat < 0x40 then .named c.toNat
  else if c.toNat = 0x40 then .push
  else if c.toNat = 0x41 then .discard
  else if 0x50 ≤ c.toNat ∧ c.toNat < 0x70 then .scalar (c.toNat - 0x50)
  else .reserved

/-- A source specifier that R69 does not reserve. -/
def legalSrc (c : BitVec 7) : Bool := srcOf c ≠ .reserved

/-- A source that reads the same in every lane: an s-register or a constant (R28, R69). -/
def isScalarSrc (c : BitVec 7) : Bool :=
  match srcOf c with
  | .scalar _ | .const _ => true
  | _ => false

/-- A scalar destination code. -/
def isScalarDst (c : BitVec 7) : Bool := match dstOf c with | .scalar _ => true | _ => false

/-- A destination of an instruction that writes no s-register: named, queue or discard (R29, R70). -/
def legalVecDst (c : BitVec 7) : Bool :=
  match dstOf c with
  | .named _ | .push | .discard => true
  | _ => false

/-- A destination of an instruction that may be group-uniform: an s-register only when every source is scalar (R29). -/
def legalDst (c : BitVec 7) (srcs : List (BitVec 7)) : Bool := legalVecDst c || (isScalarDst c && srcs.all isScalarSrc)

/-- A predicate source selector that R27 does not reserve. -/
def legalPredSrc (c : BitVec 4) : Bool := c.toNat < 14

/-- A predicate destination (R27). -/
def legalPredDst (c : BitVec 4) : Bool := c.toNat < 12

/-! ### The payload of prefix and hints -/

/-- The fields of a prefix word (R76). -/
def prefixOf (w : Word) : Prefix :=
  { mps := bf w 22 4, mneg := bf w 21 1, pol := bf w 20 1, rnd := bf w 17 3, cuse := bf w 15 2, c := bf w 8 7 }

/-- The fields of a modifier hint (R80). -/
def modifierOf (w : Word) : Modifier := { sco := bf w 20 3, ord := bf w 18 2, cp := bf w 16 2, nt := bf w 15 1 }

/-- The counts c1 to c6 of a stall hint (R79). -/
def stallsOf (w : Word) : List (BitVec 4) := [bf w 0 4, bf w 4 4, bf w 8 4, bf w 12 4, bf w 16 4, bf w 20 4]

/-! ### What an instruction accepts of its group's words -/

/-- The prefix fields an instruction accepts (R78): the mask and policy, a rounding mode, a fourth operand, a merge
source. -/
structure PrefixUse where
  m : Bool := false
  r : Bool := false
  c : Bool := false
  q : Bool := false
  deriving DecidableEq, Repr

/-- What an instruction accepts in its group: a prefix (none: no prefix at all), wide hints, a modifier hint, an ORD and
an SCO in it (R78, R80, R81). -/
structure Accepts where
  pre : Option PrefixUse := none
  wide : Bool := false
  modifier : Bool := false
  ord : Bool := false
  sco : Bool := false
  deriving DecidableEq, Repr

/-- Whether a prefix is legal for what is accepted and for a destination code (R76 to R78, R88 items 5 to 9). -/
def prefixLegal (u : PrefixUse) (dst : Option (BitVec 7)) (p : Prefix) : Bool :=
  legalPredSrc p.mps && p.rnd.toNat ≤ 5 && p.cuse ≠ 3 && (p.cuse ≠ 0 || p.c = 0) && (p.cuse = 0 || legalSrc p.c) &&
  (u.m || (p.mps = 12 && p.mneg = 0 && p.pol = 0)) && (u.r || p.rnd = 0) && (u.c || p.cuse ≠ 1) &&
  (u.q || p.cuse ≠ 2) &&
  (p.cuse ≠ 2 || dst = some 0x40) &&
  !(dst = some 0x40 && p.pol = 0 && p.mps ≠ 12 && p.cuse = 1)

/-- Whether the words before an instruction are legal for it (R67, R78, R80, R81, R88). -/
def wordsLegal (a : Accepts) (dst : Option (BitVec 7)) (w : Words) : Bool :=
  (match w.pre with
   | none => true
   | some p => match a.pre with
     | none => false
     | some u => prefixLegal u dst p) &&
  (w.wides.isEmpty || a.wide) &&
  (match w.modifier with
   | none => true
   | some m => a.modifier && m.sco.toNat ≤ 6 && (a.ord || m.ord = 0) && (a.sco || m.sco = 0))

/-! ### A thread in its surroundings -/

/-- A thread with the workgroup and group it belongs to. -/
structure View where
  wg : Workgroup
  grp : Group
  gtid : Nat
  t : Thread

/-- TID (R36). -/
def View.tid (v : View) : Nat := v.grp.firstTid + v.gtid

/-- The lane within the core (R9, R36). -/
def View.lane (v : View) : Nat := v.grp.quad * 4 + v.gtid

/-- The first TID of the thread's role. -/
def View.roleFirst (v : View) : Nat :=
  (v.wg.groups.filter fun g => g.role == v.grp.role).foldl (init := v.grp.firstTid) fun k g => min k g.firstTid

/-- RECIDX (R36). -/
def View.recidx (v : View) : Reg :=
  let i := v.tid - v.roleFirst
  if i < v.wg.recCount then BitVec.ofNat 64 i else 0xFFFFFFFFFFFFFFFF

/-- The place of the thread that a source names, if it is one that is written by instructions of the thread. -/
def Thread.srcPlace (t : Thread) (c : BitVec 7) : Option Target :=
  match srcOf c with
  | .named n => some (.named n)
  | .queue a => if t.qseq < a then none else some (.slot (t.qseq + 1 - a))
  | _ => none

/-- `read_src` (R42, R69), under the thread's interlock mode (R84). -/
def View.read (v : View) (c : BitVec 7) : Reg :=
  match srcOf c with
  | .named n => v.t.readPlace (.named n)
  | .queue a => if v.t.qseq < a then 0 else v.t.readPlace (.slot (v.t.qseq + 1 - a))
  | .scalar n => (v.grp.scalars[n]?).getD 0
  | .const x => x
  | .gtid => BitVec.ofNat 64 v.gtid
  | .lane => BitVec.ofNat 64 v.lane
  | .tid => BitVec.ofNat 64 v.tid
  | .recidx => v.recidx
  | .reserved => 0

/-- `read_pred` (R27, R42), under the interlock mode. -/
def Thread.readPred (t : Thread) (c : BitVec 4) : Bool :=
  if c.toNat < 12 then (t.readPlace (.pred c.toNat)).getLsbD 0 else c.toNat = 12

/-- The places a predicate selector reads. -/
def predPlace (c : BitVec 4) : List Target := if c.toNat < 12 then [.pred c.toNat] else []

/-- Whether the prefix mask is true for a thread (R77). -/
def Thread.maskTrue (t : Thread) (w : Words) : Bool :=
  match w.pre with
  | none => true
  | some p => t.readPred p.mps != (p.mneg == 1)

/-- The fourth operand (R77). -/
def View.fourth (v : View) : Reg :=
  match v.t.words.pre with
  | some p => if p.cuse = 1 then v.read p.c else 0
  | none => 0

/-- The source specifiers a prefix adds: C, with CUSE 1 or 2. -/
def prefixSrcs (w : Words) : List (BitVec 7) :=
  match w.pre with
  | some p => if p.cuse = 0 then [] else [p.c]
  | none => []

/-- The first register number beyond an allotment that specifiers name (R21) (DEDUCED: notes/assumptions/28). -/
def rangeError (allot : Nat) (codes : List (BitVec 7)) : Option Nat :=
  (codes.find? fun c => c.toNat < 0x40 && allot ≤ c.toNat).map BitVec.toNat

/-! ### Writing results -/

/-- Reserves a queue slot when the destination is the queue, and names the place of the destination. -/
def Thread.claim (t : Thread) (d : BitVec 7) : Thread × Option Target :=
  match dstOf d with
  | .named n => (t, some (.named n))
  | .push => (t.reserve, some (.slot (t.qseq + 1)))
  | _ => (t, none)

/-- Writes a value to a place: by a fixed latency, or late. -/
def Thread.deliver (t : Thread) (p : Option Target) (lat : Option Nat) (v : Reg) : Thread :=
  match p with
  | none => t
  | some p => match lat with
    | some l => t.writeFixed p v l
    | none => t.writeLate p v

/-- `write_dest` of an active lane (R42): to the named register or to the slot reserved. -/
def Thread.writeDest (t : Thread) (d : BitVec 7) (lat : Option Nat) (v : Reg) : Thread :=
  let (t, p) := t.claim d
  t.deliver p lat v

/-- What an inactive lane does with its destination (R25, R77): a named destination is left (merge) or zeroed (zero); a
queue slot is reserved all the same and filled with zero or with the merge source. -/
def View.inactiveDest (v : View) (d : BitVec 7) (lat : Option Nat) : Thread :=
  match v.t.words.pre with
  | none => v.t
  | some p =>
    match dstOf d with
    | .named _ => if p.pol = 1 then v.t.writeDest d lat 0 else v.t
    | .push => v.t.writeDest d lat (if p.pol = 1 then 0 else if p.cuse = 2 then v.read p.c else 0)
    | _ => v.t

/-- What an inactive lane does with a predicate destination (R77). -/
def Thread.inactivePred (t : Thread) (n : Nat) (lat : Nat) : Thread :=
  match t.words.pre with
  | some p => if p.pol = 1 then t.writeFixed (.pred n) 0 lat else t
  | none => t

end Sys2Proof.Machine
end

