-- ==== Sys2Proof/Machine/Flags.lean ====
section
/-! DEFINITION. Number formats and every flag computation: the binary formats (R45, R46, R50), rounding with overflow,
tininess, saturation and flushing (R48, R49, R51, R56, R58), exact sums and products with their special values (R47, R61),
the Denusk encoder and decoder (R52 to R55), the stochastic generator (R57), and the status word's fields (R34). -/

namespace Sys2Proof.Machine

open Sys2Proof

/-! ### The status word (R34) -/

/-- The sticky flags as they stand in TSW bits 5:0: IDZ, NV, DZ, OF, UF, NX. -/
abbrev FlagSet := BitVec 6

def flagNX : FlagSet := 1
def flagUF : FlagSet := 2
def flagOF : FlagSet := 4
def flagDZ : FlagSet := 8
def flagNV : FlagSet := 16
def flagIDZ : FlagSet := 32

/-- ORs flags into TSW (R64). -/
def Thread.raise (t : Thread) (f : FlagSet) : Thread := { t with tsw := t.tsw ||| f.setWidth 32 }

/-- TSW.FTZ. -/
def Thread.ftz (t : Thread) : Bool := t.tsw.getLsbD 11

/-- The rounding modes that every instruction that rounds can take (R56). -/
inductive Rnd where
  | rne | rz | rup | rdn | rna
  deriving DecidableEq, Repr

/-- The rounding mode of a code of TSW.RM (R34, R56). -/
def Rnd.ofCode (n : Nat) : Rnd :=
  match n with
  | 1 => .rz | 2 => .rup | 3 => .rdn | 4 => .rna | _ => .rne

/-- `rounding(m)` (R42): the prefix's mode if it gives one, else TSW.RM. -/
def Thread.rounding (t : Thread) : Rnd :=
  let own := Rnd.ofCode (bf t.tsw 8 3).toNat
  match t.words.pre with
  | some p => if p.rnd = 0 then own else Rnd.ofCode (p.rnd.toNat - 1)
  | none => own

/-- One draw of the stochastic generator (R57). -/
def srgNext (s : BitVec 32) : BitVec 32 :=
  let s := s ^^^ (s <<< 13)
  let s := s ^^^ (s >>> 17)
  s ^^^ (s <<< 5)

/-- One mixing round of the seeding of R57. -/
def srgMix (h v : BitVec 32) : BitVec 32 :=
  let h := h ^^^ v
  let h := h ^^^ (h >>> 16)
  let h := h * 0x85EBCA6B
  let h := h ^^^ (h >>> 13)
  let h := h * 0xC2B2AE35
  h ^^^ (h >>> 16)

/-- The seed of a thread's generator (R57). -/
def srgSeed (w : BitVec 32) (node launch tid : Nat) : BitVec 32 :=
  let h := srgMix (srgMix (srgMix w (BitVec.ofNat 32 node)) (BitVec.ofNat 32 launch)) (BitVec.ofNat 32 tid)
  if h = 0 then 1 else h

/-! ### Formats and values -/

/-- How a format codes its special values (R45, R50, R51). -/
inductive FmtKind where
  | ieee | e4m3 | e5m2
  deriving DecidableEq, Repr

/-- A binary floating-point format (R45): exponent and fraction widths, bias, special values. -/
structure Fmt where
  exp : Nat
  frac : Nat
  bias : Nat
  kind : FmtKind
  deriving DecidableEq, Repr

def fp32 : Fmt := ⟨8, 23, 127, .ieee⟩
def fp16 : Fmt := ⟨5, 10, 15, .ieee⟩
def bf16 : Fmt := ⟨8, 7, 127, .ieee⟩
def e4m3 : Fmt := ⟨4, 3, 7, .e4m3⟩
def e5m2 : Fmt := ⟨5, 2, 15, .e5m2⟩

/-- The float format of a type code (R75). -/
def fmtOfType (t : Nat) : Option Fmt :=
  match t with
  | 8 => some fp32 | 9 => some fp16 | 10 => some bf16 | 11 => some e4m3 | 12 => some e5m2 | _ => none

/-- The width of a format. -/
def Fmt.width (f : Fmt) : Nat := 1 + f.exp + f.frac

/-- The NaN code that is written (R45). -/
def Fmt.nan (f : Fmt) : Nat :=
  match f.kind with
  | .ieee => (2 ^ f.exp - 1) * 2 ^ f.frac + 2 ^ (f.frac - 1)
  | .e4m3 => 0x7F
  | .e5m2 => 0x7E

/-- The code of the largest finite value (R45). -/
def Fmt.maxCode (f : Fmt) : Nat :=
  match f.kind with
  | .ieee => (2 ^ f.exp - 1) * 2 ^ f.frac - 1
  | .e4m3 => 0x7E
  | .e5m2 => 0x7B

/-- The exponent of the smallest normal value. -/
def Fmt.emin (f : Fmt) : Int := 1 - (f.bias : Int)

/-- A sign bit in its place. -/
def Fmt.signed (f : Fmt) (neg : Bool) (mag : Nat) : Nat := (if neg then 2 ^ (f.exp + f.frac) else 0) + mag

/-- A value: a NaN, an infinity, or (−1)^neg × m × 2^e. -/
inductive FVal where
  | nan (signalling : Bool)
  | inf (neg : Bool)
  | fin (neg : Bool) (m : Nat) (e : Int)
  deriving DecidableEq, Repr

/-- The value of a code (R45, R46, R50). -/
def Fmt.decode (f : Fmt) (code : Nat) : FVal :=
  let fr := code % 2 ^ f.frac
  let ex := code / 2 ^ f.frac % 2 ^ f.exp
  let neg := code / 2 ^ (f.frac + f.exp) % 2 = 1
  let finite : FVal :=
    if ex = 0 then .fin neg fr (f.emin - f.frac)
    else .fin neg (2 ^ f.frac + fr) ((ex : Int) - f.bias - f.frac)
  match f.kind with
  | .ieee =>
    if ex = 2 ^ f.exp - 1 then (if fr = 0 then .inf neg else .nan (fr / 2 ^ (f.frac - 1) % 2 = 0)) else finite
  | .e4m3 => if ex = 15 ∧ fr = 7 then .nan false else finite
  | .e5m2 => if ex = 31 then (if fr = 0 then .fin neg 7 13 else .nan false) else finite

/-- Reads a subnormal as a zero of its sign under FTZ (R49). -/
def Fmt.flushIn (f : Fmt) (ftz : Bool) (v : FVal) : FVal :=
  match v with
  | .fin neg m e => if ftz && f.kind = .ieee && m ≠ 0 && e + (Nat.log2 m : Int) < f.emin then .fin neg 0 0 else v
  | _ => v

/-- An operand of a format in the low bits of a register, under FTZ. -/
def Fmt.operand (f : Fmt) (ftz : Bool) (r : Nat) : FVal := f.flushIn ftz (f.decode (r % 2 ^ f.width))

/-! ### Rounding -/

/-- Where the dropped part of a magnitude lies: nothing, below half, half, above half. -/
inductive Rest where
  | none | low | half | high
  deriving DecidableEq, Repr

/-- Drops `k` bits of a magnitude; `sticky` tells of a further part below its last bit. -/
def dropBits (m k : Nat) (sticky : Bool) : Nat × Rest :=
  let r := m % 2 ^ k
  (m / 2 ^ k,
   if r = 0 && !sticky then .none
   else if 2 * r < 2 ^ k then .low
   else if 2 * r = 2 ^ k && !sticky then .half
   else .high)

/-- Whether a mode rounds a magnitude up (R56). -/
def Rnd.up (mode : Rnd) (neg : Bool) (odd : Bool) (r : Rest) : Bool :=
  match mode with
  | .rne => r = .high || (r = .half && odd)
  | .rz => false
  | .rup => r ≠ .none && !neg
  | .rdn => r ≠ .none && neg
  | .rna => r = .half || r = .high

/-- Rounds m × 2^e to a multiple of 2^q: the multiple, and whether it is inexact. -/
def roundAt (mode : Rnd) (neg : Bool) (m : Nat) (e : Int) (sticky : Bool) (q : Int) : Nat × Bool :=
  let (m, e) := if e ≥ q then (m * 2 ^ (e - q + 2).toNat, q - 2) else (m, e)
  let (n, r) := dropBits m (q - e).toNat sticky
  (if mode.up neg (n % 2 = 1) r then n + 1 else n, r ≠ .none)

/-- The code of r × 2^q, with 2^frac ≤ r ≤ 2^(frac+1) or q the subnormal quantum. -/
def Fmt.codeOf (f : Fmt) (r : Nat) (q : Int) : Nat := ((q + f.frac + f.bias) * 2 ^ f.frac + r - 2 ^ f.frac).toNat

/-- What overflow writes (R48, R51), without the sign. -/
def Fmt.overflowCode (f : Fmt) (mode : Rnd) (neg : Bool) : Nat :=
  let inf := (2 ^ f.exp - 1) * 2 ^ f.frac
  if f.kind ≠ .ieee then f.maxCode
  else match mode with
    | .rne | .rna => inf
    | .rz => f.maxCode
    | .rup => if neg then f.maxCode else inf
    | .rdn => if neg then inf else f.maxCode

/-- Writes a subnormal result as zero under FTZ (R49): UF and NX. -/
def Fmt.flushOut (f : Fmt) (ftz : Bool) (code : Nat) (fl : FlagSet) : Nat × FlagSet :=
  if ftz && f.kind = .ieee && code ≠ 0 && code < 2 ^ f.frac then (0, fl ||| flagUF ||| flagNX) else (code, fl)

/-- `round_fmt` of (−1)^neg × (m + part) × 2^e, where `part` lies strictly between 0 and 1 when `sticky` (R42, R48, R49,
R51, R56): the code and the flags. -/
def Fmt.round (f : Fmt) (mode : Rnd) (ftz : Bool) (neg : Bool) (m : Nat) (e : Int) (sticky : Bool) : Nat × FlagSet :=
  if m = 0 && !sticky then (f.signed neg 0, 0)
  else
    let top : Int := e + Nat.log2 m
    let q := max top f.emin - f.frac
    let (r, inexact) := roundAt mode neg m e sticky q
    let code := f.codeOf r q
    if code > f.maxCode then (f.signed neg (f.overflowCode mode neg), flagOF ||| flagNX)
    else
      let free := (roundAt mode neg m e sticky (top - f.frac)).1
      let tiny := top < f.emin && !(top = f.emin - 1 && free = 2 ^ (f.frac + 1))
      let fl := (if inexact then flagNX else 0) ||| (if tiny && inexact then flagUF else 0)
      let (code, fl) := f.flushOut ftz code fl
      (f.signed neg code, fl)

/-- Stochastic rounding of an exact value with a draw (R58): overflow as RZ, tininess judged on what is selected. -/
def Fmt.roundSr (f : Fmt) (ftz : Bool) (draw : BitVec 32) (neg : Bool) (m : Nat) (e : Int) : Nat × FlagSet :=
  if m = 0 then (f.signed neg 0, 0)
  else
    let top : Int := e + Nat.log2 m
    let q := max top f.emin - f.frac
    let (m, e) := if e ≥ q then (m * 2 ^ (e - q + 1).toNat, q - 1) else (m, e)
    let k := (q - e).toNat
    let rem := m % 2 ^ k
    let up := (draw.toNat / 256) < 2 ^ 24 * rem / 2 ^ k
    let code := f.codeOf (if rem ≠ 0 && up then m / 2 ^ k + 1 else m / 2 ^ k) q
    if code > f.maxCode then (f.signed neg f.maxCode, flagOF ||| flagNX)
    else
      let inexact := rem ≠ 0
      let fl := (if inexact then flagNX else 0) ||| (if inexact && code < 2 ^ f.frac then flagUF else 0)
      let (code, fl) := f.flushOut ftz code fl
      (f.signed neg code, fl)

/-- Writes a value to a format: finite ones rounded, infinities kept or saturated (R51), NaN as the code of R45, with NV
when it was signalling (R46). -/
def Fmt.write (f : Fmt) (mode : Rnd) (ftz : Bool) (v : FVal) : Nat × FlagSet :=
  match v with
  | .nan s => (f.nan, if s then flagNV else 0)
  | .inf neg =>
    if f.kind = .ieee then (f.signed neg ((2 ^ f.exp - 1) * 2 ^ f.frac), 0)
    else (f.signed neg f.maxCode, flagOF ||| flagNX)
  | .fin neg m e => f.round mode ftz neg m e false

/-! ### Exact arithmetic -/

/-- The signed integer m × 2^(e − base) of a finite value, e ≥ base. -/
def scaled (neg : Bool) (m : Nat) (e base : Int) : Int :=
  let n : Int := (m * 2 ^ (e - base).toNat : Nat)
  if neg then -n else n

/-- The finite value n × 2^e with an exact zero's sign given. -/
def ofScaled (n : Int) (e : Int) (zeroNeg : Bool) : FVal := if n = 0 then .fin zeroNeg 0 0 else .fin (n < 0) n.natAbs e

/-- Whether a value is a signalling NaN. -/
def FVal.isSnan : FVal → Bool
  | .nan s => s
  | _ => false

/-- Whether a value is a NaN. -/
def FVal.isNan : FVal → Bool
  | .nan _ => true
  | _ => false

/-- The value with its sign inverted. -/
def FVal.neg : FVal → FVal
  | .nan s => .nan s
  | .inf n => .inf (!n)
  | .fin n m e => .fin (!n) m e

/-- The exact sum (R46, R47), with NV for a signalling operand or opposite infinities; the mode gives an exact zero's
sign. -/
def FVal.add (mode : Rnd) (x y : FVal) : FVal × FlagSet :=
  let snan : FlagSet := if x.isSnan || y.isSnan then flagNV else 0
  match x, y with
  | .nan _, _ => (.nan false, snan)
  | _, .nan _ => (.nan false, snan)
  | .inf a, .inf b => if a = b then (.inf a, 0) else (.nan false, flagNV)
  | .inf a, _ => (.inf a, 0)
  | _, .inf b => (.inf b, 0)
  | .fin a m e, .fin b n g =>
    let base := min e g
    let zeroNeg := if m = 0 && n = 0 && a = b then a else mode = .rdn
    (ofScaled (scaled a m e base + scaled b n g base) base zeroNeg, 0)

/-- The exact product (R46, R47). -/
def FVal.mul (x y : FVal) : FVal × FlagSet :=
  let snan : FlagSet := if x.isSnan || y.isSnan then flagNV else 0
  match x, y with
  | .nan _, _ => (.nan false, snan)
  | _, .nan _ => (.nan false, snan)
  | .inf a, .inf b => (.inf (a != b), 0)
  | .inf a, .fin b m _ => if m = 0 then (.nan false, flagNV) else (.inf (a != b), 0)
  | .fin a m _, .inf b => if m = 0 then (.nan false, flagNV) else (.inf (a != b), 0)
  | .fin a m e, .fin b n g => (.fin (a != b) (m * n) (e + g), 0)

/-- The exact x × y + z (R126): a quiet NaN z with ∞ × 0 raises NV as well. -/
def FVal.fma (mode : Rnd) (x y z : FVal) : FVal × FlagSet :=
  let (p, f) := x.mul y
  let (r, g) := p.add mode z
  (r, f ||| g)

/-- Three-way comparison of numbers: −1, 0 or 1. −0 and +0 are equal. -/
def FVal.cmp (x y : FVal) : Int :=
  match x, y with
  | .inf a, .inf b => if a = b then 0 else if a then -1 else 1
  | .inf a, _ => if a then -1 else 1
  | _, .inf b => if b then 1 else -1
  | .fin a m e, .fin b n g =>
    let base := min e g
    let d := scaled a m e base - scaled b n g base
    if d < 0 then -1 else if d = 0 then 0 else 1
  | _, _ => 0

/-- The sign of a value. -/
def FVal.isNeg : FVal → Bool
  | .nan _ => false
  | .inf n => n
  | .fin n _ _ => n

/-- Whether x is ordered below y, −0 below +0 (R127). -/
def FVal.below (x y : FVal) : Bool := x.cmp y = -1 || (x.cmp y = 0 && x.isNeg && !y.isNeg)

/-- Minimum and maximum of IEEE 754-2019 (R127): `num` gives minimumNumber and maximumNumber. The answer is which operand
is copied, or nothing for the canonical NaN; and the flags. -/
def fminmax (max num : Bool) (x y : FVal) : Option Bool × FlagSet :=
  let fl : FlagSet := if x.isSnan || y.isSnan then flagNV else 0
  (if x.isNan && y.isNan then none
   else if x.isNan then (if num then some true else none)
   else if y.isNan then (if num then some false else none)
   else if max then some (x.below y) else some (y.below x),
   fl)

/-- A sum of products as R60 and R61 resolve one block: the products' exact sum, with NV for a signalling input, ∞ × 0 or
opposite infinities, whatever else the block holds. -/
def blockSum (ps : List (FVal × FVal)) : FVal × FlagSet :=
  let prods := ps.map fun p => p.1.mul p.2
  let fl := prods.foldl (init := (0 : FlagSet)) fun f p => f ||| p.2
  let vs := prods.map Prod.fst
  let pos := vs.any fun v => v == .inf false
  let neg := vs.any fun v => v == .inf true
  let fl := if pos && neg then fl ||| flagNV else fl
  if vs.any FVal.isNan || (pos && neg) then (.nan false, fl)
  else if pos then (.inf false, fl)
  else if neg then (.inf true, fl)
  else
      let base := vs.foldl (init := (0 : Int)) fun b v => match v with | .fin _ _ e => min b e | _ => b
      let n := vs.foldl (init := (0 : Int)) fun k v => match v with | .fin a m e => k + scaled a m e base | _ => k
      let allNegZero := !vs.isEmpty && vs.all fun v => match v with | .fin a m _ => a && m == 0 | _ => false
      (ofScaled n base allNegZero, fl)

/-- One accumulation of R60: c + s rounded once to FP32. -/
def accumulate (mode : Rnd) (ftz : Bool) (c : FVal) (s : FVal × FlagSet) : Nat × FlagSet :=
  let (v, g) := c.add mode s.1
  let (code, h) := fp32.write mode ftz v
  (code, s.2 ||| g ||| h)

/-- The update of an accumulator by K products in blocks of U (R60), over FP32 codes. -/
def accumulateBlocks (mode : Rnd) (u : Nat) : Nat → Nat → List (FVal × FVal) → Nat × FlagSet
  | 0, c, _ => (c, 0)
  | _, c, [] => (c, 0)
  | k + 1, c, ps =>
    let (c', f) := accumulate mode false (fp32.decode c) (blockSum (ps.take u))
    let (c'', g) := accumulateBlocks mode u k c' (ps.drop u)
    (c'', f ||| g)

/-! ### Integers -/

/-- A finite value rounded to an integer under a mode: the magnitude, and whether it is inexact. -/
def roundInt (mode : Rnd) (neg : Bool) (m : Nat) (e : Int) : Nat × Bool := roundAt mode neg m e false 0

/-- A finite value rounded stochastically to an integer with a draw (R58). -/
def roundIntSr (draw : BitVec 32) (m : Nat) (e : Int) : Nat × Bool :=
  if e ≥ 0 then (m * 2 ^ e.toNat, false)
  else
    let k := (-e).toNat
    let rem := m % 2 ^ k
    let up := (draw.toNat / 256) < 2 ^ 24 * rem / 2 ^ k
    (if rem ≠ 0 && up then m / 2 ^ k + 1 else m / 2 ^ k, rem ≠ 0)

/-- Width and signedness of an integer type code (R75). -/
def intType (t : Nat) : Nat × Bool := (8 * 2 ^ (t % 4), t < 4)

/-- The integer that an integer operand of a type holds. -/
def intOperand (t : Nat) (r : Reg) : Int :=
  let (w, s) := intType t
  let n := r.toNat % 2 ^ w
  if s && n ≥ 2 ^ (w - 1) then (n : Int) - 2 ^ w else n

/-- Saturates an integer to a type (R59): the code and whether it was out of range. -/
def saturate (t : Nat) (n : Int) : Nat × Bool :=
  let (w, s) := intType t
  let lo : Int := if s then -(2 ^ (w - 1)) else 0
  let hi : Int := if s then 2 ^ (w - 1) - 1 else 2 ^ w - 1
  let c := max lo (min hi n)
  ((c % 2 ^ w).toNat, c ≠ n)

/-! ### The Denusk formats (R52 to R55) -/

/-- The magnitude width of DB8 and DB4. -/
def denuskWidth (db4 : Bool) : Nat := if db4 then 2 else 6

/-- The value of an element under a header (R53). -/
def denuskDecode (db4 : Bool) (ea eb : Nat) (elem : Nat) : FVal :=
  let w := denuskWidth db4
  let x := if elem / 2 ^ (w + 1) % 2 = 0 then ea else eb
  let x : Int := if x = 255 then 254 else x
  .fin (elem / 2 ^ w % 2 = 1) (elem % 2 ^ w) (x - 127 - (w - 1 : Nat))

/-- The inputs of the encoder, a finite value as a multiple of 2^−149: y[i] of R54 with its sign, and the flags. -/
def denuskInput (db4 : Bool) (v : FVal) : Bool × Nat × FlagSet :=
  let w := denuskWidth db4
  match v with
  | .nan _ => (false, 0, flagNV)
  | .inf neg => (neg, (2 ^ w - 1) * 2 ^ (127 + 149 - (w - 1)), flagOF ||| flagNX)
  | .fin neg m e => (neg, if e ≥ -149 then m * 2 ^ (e + 149).toNat else m / 2 ^ (-149 - e).toNat, 0)

/-- The unit of a shared exponent, as a multiple of 2^−149. -/
def denuskUnit (db4 : Bool) (x : Nat) : Nat := 2 ^ (x + 149 - 127 - (denuskWidth db4 - 1))

/-- y over a unit, rounded to an integer by RNE. -/
def divRne (y u : Nat) : Nat :=
  let q := y / u
  let r := y % u
  if 2 * r > u || (2 * r = u && q % 2 = 1) then q + 1 else q

/-- The encoder's error of a magnitude under a shared exponent. -/
def denuskErr (db4 : Bool) (x y : Nat) : Nat :=
  let u := denuskUnit db4 x
  let v := min (divRne y u) (2 ^ denuskWidth db4 - 1) * u
  if y ≥ v then y - v else v - y

/-- The search for Eb (R54), from Ea down: the best so far and its error. -/
def denuskSearch (db4 : Bool) (ea : Nat) (ys : List Nat) : Nat → Nat → Nat × Nat → Nat
  | 0, _, best => best.1
  | k + 1, c, best =>
    if c < 1 then best.1
    else
      let err := ys.foldl (init := 0) fun s y => s + min (denuskErr db4 ea y) (denuskErr db4 c y)
      denuskSearch db4 ea ys k (c - 1) (if err < best.2 then (c, err) else best)

/-- The shared exponents of a block (R54). -/
def denuskHeader (db4 : Bool) (ys : List Nat) : Nat × Nat :=
  let amax := ys.foldl (init := 0) max
  if amax = 0 then (0, 0)
  else
    let e : Int := (Nat.log2 amax : Int) - 149
    let ea := (min (max (e + 127) 1) 254).toNat
    let err0 := ys.foldl (init := 0) fun s y => s + denuskErr db4 ea y
    (ea, denuskSearch db4 ea ys 15 (ea - 1) (ea, err0))

/-- How an element's magnitude is rounded: under a mode, or stochastically with a draw. -/
inductive ElemRnd where
  | mode (m : Rnd)
  | draw (d : BitVec 32)
  deriving DecidableEq, Repr

/-- The code of an element (R54) under the block's header, and its flags. The magnitude is rounded, so a directed mode rounds it
as a number that is not negative. -/
def denuskElem (db4 : Bool) (ea eb : Nat) (rnd : ElemRnd) (neg : Bool) (y : Nat) : Nat × FlagSet :=
  let w := denuskWidth db4
  let top := 2 ^ w - 1
  let sel := denuskErr db4 eb y < denuskErr db4 ea y
  let x := if sel then eb else ea
  let u := denuskUnit db4 x
  let k := x + 149 - 127 - (w - 1)
  let mag := match rnd with
    | .mode m => (roundAt m false y (-(k : Int)) false 0).1
    | .draw d => (roundIntSr d y (-(k : Int))).1
  let ovf := mag > top
  let mag := min mag top
  let fl : FlagSet := (if ovf && x = 254 then flagOF else 0) ||| (if mag * u ≠ y then flagNX else 0) |||
    (if y ≠ 0 && mag = 0 then flagUF else 0)
  ((if sel then 2 ^ (w + 1) else 0) + (if neg && mag ≠ 0 then 2 ^ w else 0) + mag, fl)

/-- The encoder of R54 over up to 32 inputs, each with how it rounds; an element that is padding is given as +0 and its
flags are dropped by the caller. The answer is the header and, per element, the code and the flags. -/
def denuskEncode (db4 : Bool) (xs : List (FVal × ElemRnd)) : Nat × List (Nat × FlagSet) :=
  let ins := xs.map fun x => (denuskInput db4 x.1, x.2)
  let (ea, eb) := denuskHeader db4 (ins.map fun i => i.1.2.1)
  (ea + 256 * eb, ins.map fun i =>
    let (code, fl) := denuskElem db4 ea eb i.2 i.1.1 i.1.2.1
    (code, fl ||| i.1.2.2))

end Sys2Proof.Machine
end

