-- ==== Sys2Proof/Machine/Issue.lean ====
section
/-! DEFINITION. Issuing a word: what an instruction names and accepts (its form), the checks made in every thread that
executes it (R21, R84, R88), and the ways in which instructions run: lane by lane, once per group (R28, R116), as a
command accepted by an engine (R168, R193, R215), and as an event. -/

namespace Sys2Proof.Machine

open Sys2Proof

/-! ### Forms -/

/-- What a destination code may be: absent, a vector destination, an s-register too when every source is scalar (R29,
R116), an s-register by the instruction's own rule (R123, R250, R252). -/
inductive DstRule where
  | absent | vector | uniform | either
  deriving DecidableEq, Repr

/-- The form of an instruction: its destination code, the codes it reads, the predicates it reads and writes, whether its
remaining fields are legal, what it accepts of its group's words, and its own checks of those words. -/
structure Form where
  rule : DstRule := .absent
  dst : BitVec 7 := 0
  srcs : List (BitVec 7) := []
  psrcs : List (BitVec 4) := []
  pdsts : List (BitVec 4) := []
  ok : Bool := true
  /-- Codes that an inactive lane reads too: the mask word of a rendezvous (R158). -/
  always : List (BitVec 7) := []
  accepts : Accepts := {}
  okWords : List (BitVec 25) → Bool := fun _ => true

/-- The destination code, if the instruction has one. -/
def Form.dst? (f : Form) : Option (BitVec 7) := if f.rule = .absent then none else some f.dst

/-- Legality of an instruction's own fields (R88 items 2 to 5). -/
def Form.legal (f : Form) : Bool :=
  (match f.rule with
   | .absent => true
   | .vector => legalVecDst f.dst
   | .uniform => legalDst f.dst f.srcs
   | .either => legalVecDst f.dst || isScalarDst f.dst) &&
  f.srcs.all legalSrc && f.psrcs.all legalPredSrc && f.pdsts.all legalPredDst && f.ok

/-- Whether a form writes an s-register: it is then group-uniform and takes no prefix (R28, R78, R116). -/
def Form.scalar (f : Form) : Bool := f.rule ≠ .absent && isScalarDst f.dst

/-- Legality of a group: the instruction's fields and the words before it (R88). -/
def Form.groupLegal (f : Form) (w : Words) : Bool :=
  f.legal && wordsLegal f.accepts f.dst? w && f.okWords w.wides && !(f.scalar && w.pre.isSome && f.rule = .uniform)

/-- The codes the register-range check covers (R21): those of the instruction, then C. -/
def Form.codes (f : Form) (w : Words) : List (BitVec 7) := f.dst?.toList ++ f.srcs ++ prefixSrcs w

/-- The places an instruction reads in a thread (R84): the mask's predicate; in an active lane its sources, its
predicates and the fourth operand; in an inactive lane the merge source that it needs. -/
def Form.reads (f : Form) (t : Thread) : List Target :=
  let mask := match t.words.pre with | some p => predPlace p.mps | none => []
  mask ++ f.always.filterMap t.srcPlace ++
  if t.maskTrue t.words then
    (f.srcs ++ (match t.words.pre with | some p => if p.cuse = 1 then [p.c] else [] | none => [])).filterMap t.srcPlace ++
      f.psrcs.flatMap predPlace
  else match t.words.pre with
    | some p => if p.cuse = 2 && p.pol = 0 then [p.c].filterMap t.srcPlace else []
    | none => []

/-- The checks of a group in one thread: legality (R88), register range (R21), stall underrun (R84). A group that fails the last two
takes the fault of the register range (DESIGN CHOICE: notes/assumptions/110). -/
def Form.check (f : Form) (v : View) : Except Trap Unit :=
  if !f.groupLegal v.t.words then .error (trap .undefinedInstruction (v.t.pc.setWidth 64))
  else match rangeError v.grp.allot (f.codes v.t.words) with
    | some n => .error (trap .registerRange (BitVec.ofNat 64 n))
    | none =>
      if v.t.imode = 2 then
        match v.t.underruns (f.reads v.t) with
        | [] => .ok ()
        | h :: _ => .error { cause := .stallUnderrun, addr := v.t.pc.setWidth 64, aux := h.pc }
      else .ok ()

/-! ### The answer of an instruction -/

/-- The outcome of a word or an event. -/
abbrev Out := Host.Outcome State Fault Refusal

/-- A thread in its surroundings. -/
def State.view? (s : State) (w g t : Nat) : Option View :=
  match s.wg? w with
  | none => none
  | some x => match x.groups[g]? with
    | none => none
    | some gr => (gr.threads[t]?).map fun th => { wg := x, grp := gr, gtid := t, t := th }

/-- The name of the thread of a view. -/
def View.id (v : View) (g : Nat) : ThreadId := ⟨v.wg.id, g, v.gtid⟩

/-- Takes the faults that the lanes of one issue raised, as one delivery (R330). -/
def State.takeHits (s : State) (w g : Nat) (hits : List (Nat × Trap)) : State :=
  if hits.isEmpty then s else s.takeFault (.ofGroup w g hits)

/-! ### Lane by lane -/

/-- What a lane does: from the machine and the lane's view, the machine and the thread after the instruction, or a
trap. -/
abbrev Lane := State → View → State × Except Trap Thread

/-- One lane of an issue. -/
def State.lane (f : Form) (body : Lane) (w g : Nat) (acc : State × List (Nat × Trap)) (t : Nat) :
    State × List (Nat × Trap) :=
  match acc.1.view? w g t with
  | none => acc
  | some v =>
    match f.check v with
    | .error x => (acc.1, acc.2 ++ [(t, x)])
    | .ok () =>
      match body acc.1 v with
      | (s, .error x) => (s, acc.2 ++ [(t, x)])
      | (s, .ok th) => (s.setThread ⟨w, g, t⟩ th, acc.2)

/-- An instruction that each thread executes for itself. Its lanes act in ascending order (DESIGN CHOICE: notes/assumptions/111);
those that fault leave no effect of their own, and the others complete (R141). -/
def State.perLane (s : State) (f : Form) (body : Lane) : Out :=
  match s.cur with
  | none => .refused .noThread
  | some u =>
    let r := u.gtids.foldl (State.lane f body u.wg u.grp) (s, [])
    .next (r.1.takeHits u.wg u.grp r.2)

/-- What an active lane computes: the thread with its flags and generator, and the result. -/
abbrev Compute := View → Except Trap (Thread × Reg)

/-- A lane that computes a result from its own operands and writes it to a destination; the latency is fixed or, when
absent, variable (R83). -/
def vectorLane (d : BitVec 7) (lat : Option Nat) (op : Compute) : Lane := fun s v =>
  if v.t.maskTrue v.t.words then
    match op v with
    | .error x => (s, .error x)
    | .ok (t, r) => (s, .ok (t.writeDest d lat r).step)
  else (s, .ok (v.inactiveDest d lat).step)

/-- A vector instruction. -/
def State.vector (s : State) (f : Form) (lat : Option Nat) (op : Compute) : Out :=
  s.perLane f (vectorLane f.dst lat op)

/-- A lane that writes a predicate (R77, R107). -/
def predLane (p : BitVec 4) (lat : Nat) (op : View → Thread × Bool) : Lane := fun s v =>
  if v.t.maskTrue v.t.words then
    let (t, b) := op v
    (s, .ok (t.writeFixed (.pred p.toNat) (bit b) lat).step)
  else (s, .ok (v.t.inactivePred p.toNat lat).step)

/-! ### Once per group (R28, R116) -/

/-- What a group-uniform instruction does when its rendezvous has formed: it completes, waits on an engine, has seen to
its threads itself, or traps. -/
inductive GroupAct where
  | done (s : State)
  | wait (s : State)
  | settled (s : State)
  | fault (s : State) (x : Trap)

/-- A group's threads proceed past the instruction. -/
def State.groupSteps (s : State) (w g : Nat) : State := s.modGrp w g fun x => x.mapLive Thread.step

/-- A group's threads acquire at `.wg`: the end of a wait for engine commands (R187, R207, R218). -/
def State.groupAcquires (s : State) (w g : Nat) : State :=
  (s.groupAcquired (w, g) 1).modGrp w g fun x => x.mapLive Thread.acquires

/-- A group's threads proceed past the instruction after a wait that is a fusion point (R11). -/
def State.groupPasses (s : State) (w g : Nat) : State :=
  s.modGrp w g fun x => x.stepFused (fun _ t => t.isLive) Thread.step

/-- A group's threads proceed past a product command whose gang's latch has formed, which is an acquire for scratchpad only: no load
from it that comes after has been performed before (R178, R260). -/
def State.latchPasses (s : State) (w g : Nat) : State :=
  ((s.groupFormed (w, g)).modGrp w g fun x => x.mapLive fun t =>
    { t with early := t.early.filter fun e => e.global }).groupPasses w g

/-- Every live thread of a group waits on an engine. -/
def State.groupWaits (s : State) (w g : Nat) : State :=
  s.modGrp w g fun x => x.mapLive fun t => { t with wait := .engine }

/-- The arrival of threads at a group-uniform instruction. -/
def State.arriveUniform (s : State) (w g : Nat) (ts : List Nat) : State :=
  ts.foldl (init := s) fun s t => s.modThread ⟨w, g, t⟩ fun x => { x with wait := .uniform }

/-- The checks of the arriving threads: each traps by itself (R118). -/
def State.uniformHits (s : State) (f : Form) (w g : Nat) (ts : List Nat) : List (Nat × Trap) :=
  ts.filterMap fun t => match s.view? w g t with
    | none => none
    | some v => match f.check v with
      | .error x => some (t, x)
      | .ok () => none

/-- The rendezvous of R28. When threads of the group wait at another group-uniform instruction, every live thread takes
the uniform-divergence fault; when every live thread waits at this one, it executes once. -/
def State.uniform (s : State) (f : Form) (act : State → Nat → Nat → Words → GroupAct) : Out :=
  match s.cur with
  | none => .refused .noThread
  | some u =>
    let hits := s.uniformHits f u.wg u.grp u.gtids
    let good := u.gtids.filter fun t => !(hits.any fun h => h.1 == t)
    let at_ : Option (BitVec 56 × Words) := good.head?.bind fun t => (s.thread? ⟨u.wg, u.grp, t⟩).map fun x => (x.pc, x.words)
    match at_ with
    | none => .next (s.takeHits u.wg u.grp hits)
    | some (pc, words) =>
      let s := (s.arriveUniform u.wg u.grp good).takeHits u.wg u.grp hits
      match s.grp? u.wg u.grp with
      | none => .next s
      | some gr =>
        if !gr.allLive (fun t => t.wait ≠ .uniform || t.pc == pc) then
          .next (s.takeFault (.ofGroup u.wg u.grp (gr.liveGtids.map fun t =>
            (t, trap .uniformDivergence ((((gr.threads[t]?).map Thread.pc).getD 0).setWidth 64)))))
        else if gr.liveGtids.isEmpty || !gr.allLive (fun t => t.wait = .uniform) then .next s
        else match act s u.wg u.grp words with
          | .done s => .next (s.groupSteps u.wg u.grp)
          | .wait s => .next (s.groupWaits u.wg u.grp)
          | .settled s => .next s
          | .fault s x => .next (s.takeFault (s.groupDelivery u.wg u.grp x))

/-- The value a scalar source supplies to a group (R28, R69). -/
def Group.read (g : Group) (c : BitVec 7) : Reg :=
  match srcOf c with
  | .scalar n => (g.scalars[n]?).getD 0
  | .const v => v
  | _ => 0

/-- An s-register of a group. -/
def Group.scalar (g : Group) (n : BitVec 5) : Reg := (g.scalars[n.toNat]?).getD 0

/-- Writes an s-register. -/
def State.writeScalar (s : State) (w g : Nat) (n : Nat) (v : Reg) : State :=
  s.modGrp w g fun x => { x with scalars := x.scalars.setIfInBounds n v }

/-- Writes the s-register that a destination code names (R70). -/
def State.writeScalarDst (s : State) (w g : Nat) (d : BitVec 7) (v : Reg) : State :=
  match dstOf d with
  | .scalar n => s.writeScalar w g n v
  | _ => s

/-- ORs flags into the TSW of every live thread of a group: the flags of a group-uniform instruction (R64; DEDUCED: notes/assumptions/22). -/
def State.groupRaise (s : State) (w g : Nat) (f : FlagSet) : State :=
  if f = 0 then s else s.modGrp w g fun x => x.mapLive fun t => t.raise f

/-! ### Integer operations, in a lane or once per group -/

/-- What an operation reads: operands A and B, the fourth operand, and the wide-immediate hints of its group. -/
structure Operands where
  a : Reg
  b : Reg
  c : Reg
  wides : List (BitVec 25)
  deriving DecidableEq, Repr

/-- The operands of a lane. -/
def View.operands (v : View) (a b : BitVec 7) : Operands :=
  { a := v.read a, b := v.read b, c := v.fourth, wides := v.t.words.wides }

/-- The operands of a group. -/
def Group.operands (g : Group) (a b : BitVec 7) (w : Words) : Operands :=
  { a := g.read a, b := g.read b, c := 0, wides := w.wides }

/-- An integer instruction (R98 to R106, R116): vector, or group-uniform when it writes an s-register. -/
def State.intOp (s : State) (f : Form) (a b : BitVec 7) (lat : Option Nat)
    (op : Operands → Except Trap (Reg × FlagSet)) : Out :=
  if f.scalar then
    s.uniform f fun s w g words =>
      match s.grp? w g with
      | none => .done s
      | some gr => match op (gr.operands a b words) with
        | .error x => .fault s x
        | .ok (r, fl) => .done ((s.groupRaise w g fl).writeScalarDst w g f.dst r)
  else
    s.vector f lat fun v => match op (v.operands a b) with
      | .error x => .error x
      | .ok (r, fl) => .ok (v.t.raise fl, r)

/-! ### Events -/

/-- Whether the module's clocks run and it has not failed (R373, R387). -/
def State.running (s : State) : Bool := !s.stopped && s.bootState ≠ 15

/-- An event: it comes about while the power is on and the module runs, and it may find that nothing is to be done. -/
def State.event (s : State) (f : State → Input → State) : Out :=
  if s.power then .next (if s.running then f s s.input else s) else .fault .noPower

/-- An event of the management controller, which acts while the other clocks are stopped too (R373). -/
def State.management (s : State) (f : State → Input → State) : Out :=
  if s.power then .next (f s s.input) else .fault .noPower

end Sys2Proof.Machine
end

