-- ==== Sys2Proof/Machine/Forms.lean ====
section
/-! DEFINITION. The forms of the word instructions: what each names, reads and accepts (R70 to R88 and the chapters of the
instructions). -/

namespace Sys2Proof.Machine

open Sys2Proof

/-! ### What prefixes and hints the majors accept (R78, R80, R81, R125) -/

/-- Mask and merge source. -/
def useMQ : PrefixUse := { m := true, q := true }

/-- Mask, merge source and fourth operand. -/
def useMCQ : PrefixUse := { m := true, q := true, c := true }

/-- Mask, rounding and merge source. -/
def useMRQ : PrefixUse := { m := true, r := true, q := true }

/-- Mask, rounding, fourth operand and merge source. -/
def useMRCQ : PrefixUse := { m := true, r := true, q := true, c := true }

/-- Mask alone. -/
def useM : PrefixUse := { m := true }

/-- The fourth operand alone (the shuffles of major 0x10). -/
def useC : PrefixUse := { c := true }

/-! ### Integer, bit and immediate forms -/

/-- Three operands at most, a destination that may be an s-register (R98, R103, R116). -/
def aluForm (d : BitVec 7) (srcs : List (BitVec 7)) : Form :=
  { rule := .uniform, dst := d, srcs := srcs, accepts := { pre := some useMQ } }

/-- As `aluForm`, with a fourth operand (R98, R103). -/
def alu4Form (d : BitVec 7) (srcs : List (BitVec 7)) : Form :=
  { rule := .uniform, dst := d, srcs := srcs, accepts := { pre := some useMCQ } }

/-- The immediate majors 0x04 to 0x08, which take wide-immediate hints (R81, R100). -/
def immForm (d : BitVec 7) (srcs : List (BitVec 7)) : Form :=
  { rule := .uniform, dst := d, srcs := srcs, accepts := { pre := some useMQ, wide := true } }

/-- `movi` (R102): with two wide-immediate hints bits 24:20 of the first are reserved (R81). -/
def moviForm (d : BitVec 7) : Form :=
  { immForm d [] with okWords := fun w => match w with
      | [w1, _] => bf w1 20 5 = 0
      | _ => true }

/-! ### Compare, predicates, select, control -/

/-- A compare (R107, R131). -/
def cmpForm (p : BitVec 4) (a b : BitVec 7) (ok : Bool) : Form :=
  { srcs := [a, b], pdsts := [p], ok := ok, accepts := { pre := some useM } }

/-- The integer types and conditions of `icmp` (R107). -/
def icmpOk (c t : BitVec 4) : Bool := (t = 2 || t = 3 || t = 6 || t = 7) && c.toNat ≤ 5

/-- The float types and conditions of `fcmp` (R131). -/
def fcmpOk (c t : BitVec 4) : Bool := isFcmpType t && c.toNat ≤ 7

/-- A word that names predicates alone (R108, R111). -/
def predForm (psrcs pdsts : List (BitVec 4)) : Form := { psrcs := psrcs, pdsts := pdsts }

/-- `isel` (R109). -/
def iselForm (d a b : BitVec 7) (p : BitVec 4) : Form :=
  { rule := .vector, dst := d, srcs := [a, b], psrcs := [p], accepts := { pre := some useMQ } }

/-- A word that reads sources and has no destination and no prefix. -/
def readForm (srcs : List (BitVec 7)) (ok : Bool) : Form := { srcs := srcs, ok := ok }

/-- A lane collective that takes no fourth operand (R121); the `ballot`, `vote` and `redux` forms accept an s-register
(R123). -/
def collectiveForm (d a b : BitVec 7) (scalar : Bool) : Form :=
  { rule := if scalar then .either else .vector, dst := d, srcs := [a, b] }

/-- A shuffle (R121), which takes a fourth operand. -/
def shuffleForm (d a b : BitVec 7) : Form :=
  { rule := .vector, dst := d, srcs := [a, b], accepts := { pre := some useC } }

/-- `tick` (R250). -/
def tickForm (d : BitVec 7) : Form := { rule := .either, dst := d }

/-- `sysrd` (R36, R252): selectors 0x00 to 0x0F; those that differ from thread to thread write no s-register. -/
def sysrdForm (d : BitVec 7) (sel : BitVec 8) : Form :=
  { rule := .either, dst := d,
    ok := sel.toNat < 16 && !(isScalarDst d && [0, 1, 2, 5, 6, 13].contains sel.toNat) }

/-- `syswr` and `fflags` (R139, R252): a vector destination, no prefix. -/
def statusForm (d : BitVec 7) (srcs : List (BitVec 7)) : Form := { rule := .vector, dst := d, srcs := srcs }

/-! ### Float forms (R125) -/

/-- A float instruction that writes a vector destination. -/
def floatForm (d : BitVec 7) (srcs : List (BitVec 7)) (u : PrefixUse) : Form :=
  { rule := .vector, dst := d, srcs := srcs, accepts := { pre := some u } }

/-- Whether the exact widenings of R135 take a pair of types. -/
def isExactPair (s t : BitVec 4) : Bool :=
  (t = 8 && (s = 9 || s = 10 || s = 11 || s = 12 || s = 13 || s = 14)) || ((t = 9 || t = 10) && (s = 11 || s = 12))

/-- Whether the narrowings of R135 take a pair of types. -/
def isNarrowPair (s t : BitVec 4) : Bool :=
  (s = 8 && 9 ≤ t.toNat && t.toNat ≤ 14) || ((s = 9 || s = 10) && s ≠ t && 9 ≤ t.toNat && t.toNat ≤ 14)

/-- The pairs and rounding codes of `frnd` (R135). -/
def frndOk (s t : BitVec 4) (r : BitVec 3) : Bool := isFrndPair s t && r.toNat ≤ 5

/-- The pairs and rounding codes of `fcvt` (R135). -/
def fcvtOk (s t : BitVec 4) (r : BitVec 3) : Bool :=
  (isExactPair s t && r.toNat ≤ 5) || (isNarrowPair s t && r.toNat ≤ 6)

/-- The pairs and rounding codes of `fcvti` (R135). -/
def fcvtiOk (s t : BitVec 4) (r : BitVec 3) : Bool := isFcmpType s && isIntType t && r.toNat ≤ 6

/-- The pairs and rounding codes of `icvtf` (R135). -/
def icvtfOk (s t : BitVec 4) (r : BitVec 3) : Bool := isIntType s && isFcmpType t && r.toNat ≤ 6

/-- A conversion (R125, R135): a prefix rounding mode only when RC is 0 (R88 item 14). -/
def cvtForm (d a : BitVec 7) (r : BitVec 3) (ok : Bool) : Form :=
  { rule := .vector, dst := d, srcs := [a], ok := ok,
    accepts := { pre := some (if r = 0 then useMRQ else useMQ) } }

/-! ### Memory forms -/

/-- A load of major 0x18 (R142). -/
def ldForm (d a : BitVec 7) (sp : BitVec 2) (sz : BitVec 3) : Form :=
  { rule := .vector, dst := d, srcs := [a], ok := sp ≠ 3 && sz ≠ 7,
    accepts := { pre := some useMQ, wide := true, modifier := true, sco := true } }

/-- A store of major 0x19: field D is the data source (R72, R142); SZ 4 to 6 is reserved (R74). -/
def stForm (d a : BitVec 7) (sp : BitVec 2) (sz : BitVec 3) : Form :=
  { srcs := [d, a], ok := sp ≠ 3 && sz.toNat ≤ 3,
    accepts := { pre := some useM, wide := true, modifier := true, sco := true } }

/-- A load-acquire of major 0x1A. -/
def ldAcqForm (d a : BitVec 7) (sp : BitVec 2) (sz sc : BitVec 3) : Form :=
  { rule := .vector, dst := d, srcs := [a], ok := sp ≠ 3 && sz ≠ 7 && sc.toNat ≤ 5, accepts := { pre := some useMQ } }

/-- A store-release of major 0x1B. -/
def stRelForm (d a : BitVec 7) (sp : BitVec 2) (sz sc : BitVec 3) : Form :=
  { srcs := [d, a], ok := sp ≠ 3 && sz.toNat ≤ 3 && sc.toNat ≤ 5, accepts := { pre := some useM } }

/-- A load of major 0x1C. -/
def ldxForm (d a b : BitVec 7) (sp : BitVec 2) (sz : BitVec 3) : Form :=
  { rule := .vector, dst := d, srcs := [a, b], ok := sp ≠ 3 && sz ≠ 7,
    accepts := { pre := some useMQ, modifier := true, sco := true } }

/-- A store of major 0x1D. -/
def stxForm (d a b : BitVec 7) (sp : BitVec 2) (sz : BitVec 3) : Form :=
  { srcs := [d, a, b], ok := sp ≠ 3 && sz.toNat ≤ 3,
    accepts := { pre := some useM, modifier := true, sco := true } }

/-- An `atom` (R78, R80, R147): the fourth operand only for compare-and-swap. -/
def atomForm (d a b : BitVec 7) (cas : Bool) : Form :=
  { rule := .vector, dst := d, srcs := [a, b],
    accepts := { pre := some (if cas then useMCQ else useMQ), modifier := true, ord := true, sco := true } }

/-- An `ared`. -/
def aredForm (a b : BitVec 7) : Form :=
  { srcs := [a, b], accepts := { pre := some useM, modifier := true, ord := true, sco := true } }

/-- A form of major 0x20 (R150): its sources and whether its scope and predicate fields are listed there; the maintenance
forms `pref`, `cinv` and `cwb` take a modifier hint without SCO and ORD (R80). -/
def syncForm (srcs : List (BitVec 7)) (pdsts : List (BitVec 4)) (ok hint : Bool) : Form :=
  { srcs := srcs, pdsts := pdsts, ok := ok, accepts := { modifier := hint } }

/-- `xst` (R156). -/
def xstForm (d a : BitVec 7) (sz : BitVec 3) : Form :=
  { srcs := [d, a], ok := sz.toNat ≤ 3, accepts := { pre := some useM } }

/-- `stc` (R158): D is the data source. -/
def stcForm (d a b : BitVec 7) : Form :=
  { srcs := [d, a, b], always := [b], accepts := { pre := some useM, modifier := true, sco := true } }

/-- `lde` (R158). -/
def ldeForm (d a b : BitVec 7) : Form :=
  { rule := .vector, dst := d, srcs := [a, b], always := [b],
    accepts := { pre := some useMQ, modifier := true, sco := true } }

/-- `walkset` and `walknext` write an s-register and read scalar sources (R28, R162). -/
def walkUniformForm (d : BitVec 7) (srcs : List (BitVec 7)) : Form :=
  { rule := .either, dst := d, srcs := srcs, ok := isScalarDst d && srcs.all isScalarSrc }

/-- `walkld` (R162). -/
def walkldForm (d : BitVec 7) (srcs : List (BitVec 7)) : Form :=
  { rule := .vector, dst := d, srcs := srcs, accepts := { pre := some useMQ } }

/-- `walkst` (R162): D is the data source. -/
def walkstForm (d a : BitVec 7) : Form := { srcs := [d, a], accepts := { pre := some useM } }

/-! ### Engine forms: group-uniform, with neither prefix nor hint -/

/-- A group-uniform word whose fields are legal or not. -/
def engineForm (ok : Bool) : Form := { ok := ok }

/-- The gang field (R87): 0 or 4 to 7. -/
def gangOk (g : BitVec 3) : Bool := g = 0 || 4 ≤ g.toNat

/-- A record word (R244): executed by each thread. -/
def recordForm (srcs : List (BitVec 7)) (pdsts : List (BitVec 4)) : Form := { srcs := srcs, pdsts := pdsts }

/-- The form of a word instruction; an event has none. -/
def instrForm (i : Instr) : Form :=
  match i with
  | .iadd32 d a b => aluForm d [a, b]
  | .iadd64 d a b => aluForm d [a, b]
  | .isub32 d a b => aluForm d [a, b]
  | .isub64 d a b => aluForm d [a, b]
  | .imul32 d a b => aluForm d [a, b]
  | .imul64 d a b => aluForm d [a, b]
  | .imulh32 d a b => aluForm d [a, b]
  | .imulh64 d a b => aluForm d [a, b]
  | .imulhn32 d a b => aluForm d [a, b]
  | .imulhn64 d a b => aluForm d [a, b]
  | .idiv32 d a b => aluForm d [a, b]
  | .idiv64 d a b => aluForm d [a, b]
  | .idivn32 d a b => aluForm d [a, b]
  | .idivn64 d a b => aluForm d [a, b]
  | .irem32 d a b => aluForm d [a, b]
  | .irem64 d a b => aluForm d [a, b]
  | .iremn32 d a b => aluForm d [a, b]
  | .iremn64 d a b => aluForm d [a, b]
  | .iminI32 d a b => aluForm d [a, b]
  | .iminI64 d a b => aluForm d [a, b]
  | .iminN32 d a b => aluForm d [a, b]
  | .iminN64 d a b => aluForm d [a, b]
  | .imaxI32 d a b => aluForm d [a, b]
  | .imaxI64 d a b => aluForm d [a, b]
  | .imaxN32 d a b => aluForm d [a, b]
  | .imaxN64 d a b => aluForm d [a, b]
  | .iabs32 d a => aluForm d [a]
  | .iabs64 d a => aluForm d [a]
  | .and32 d a b => aluForm d [a, b]
  | .and64 d a b => aluForm d [a, b]
  | .or32 d a b => aluForm d [a, b]
  | .or64 d a b => aluForm d [a, b]
  | .xor32 d a b => aluForm d [a, b]
  | .xor64 d a b => aluForm d [a, b]
  | .andn32 d a b => aluForm d [a, b]
  | .andn64 d a b => aluForm d [a, b]
  | .shl32 d a b => aluForm d [a, b]
  | .shl64 d a b => aluForm d [a, b]
  | .shr32 d a b => aluForm d [a, b]
  | .shr64 d a b => aluForm d [a, b]
  | .sra32 d a b => aluForm d [a, b]
  | .sra64 d a b => aluForm d [a, b]
  | .rotl32 d a b => aluForm d [a, b]
  | .rotl64 d a b => aluForm d [a, b]
  | .imad32 d a b => alu4Form d [a, b]
  | .imad64 d a b => alu4Form d [a, b]
  | .iaddImm32 d a _ => immForm d [a]
  | .iaddImm64 d a _ => immForm d [a]
  | .andImm d a _ => immForm d [a]
  | .orImm d a _ => immForm d [a]
  | .xorImm d a _ => immForm d [a]
  | .shlImm32 d a _ => aluForm d [a]
  | .shlImm64 d a _ => aluForm d [a]
  | .shrImm32 d a _ => aluForm d [a]
  | .shrImm64 d a _ => aluForm d [a]
  | .sraImm32 d a _ => aluForm d [a]
  | .sraImm64 d a _ => aluForm d [a]
  | .rotlImm32 d a _ => aluForm d [a]
  | .rotlImm64 d a _ => aluForm d [a]
  | .movi d _ => moviForm d
  | .popc32 d a => aluForm d [a]
  | .popc64 d a => aluForm d [a]
  | .clz32 d a => aluForm d [a]
  | .clz64 d a => aluForm d [a]
  | .ctz32 d a => aluForm d [a]
  | .ctz64 d a => aluForm d [a]
  | .brev32 d a => aluForm d [a]
  | .brev64 d a => aluForm d [a]
  | .bfxI64 d a b => aluForm d [a, b]
  | .bfxN64 d a b => aluForm d [a, b]
  | .bfi d a b => alu4Form d [a, b]
  | .bilv d a b => aluForm d [a, b]
  | .bdilv d a b => aluForm d [a, b]
  | .perm8 d a b => aluForm d [a, b]
  | .fsh32 d a b => alu4Form d [a, b]
  | .fsh64 d a b => alu4Form d [a, b]
  | .sextI8 d a => aluForm d [a]
  | .sextI16 d a => aluForm d [a]
  | .sextI32 d a => aluForm d [a]
  | .zextN8 d a => aluForm d [a]
  | .zextN16 d a => aluForm d [a]
  | .zextN32 d a => aluForm d [a]
  | .mov d a => aluForm d [a]
  | .addr d a b => aluForm d [a, b]
  | .dot4I8 d a b => alu4Form d [a, b]
  | .dot4N8 d a b => alu4Form d [a, b]
  | .icmp p c a b t => cmpForm p a b (icmpOk c t)
  | .fcmp p c a b t => cmpForm p a b (fcmpOk c t)
  | .pset p _ a b => predForm [a, b] [p]
  | .isel d a b p _ => iselForm d a b p
  | .bra p _ _ => predForm [p] []
  | .call p _ _ => predForm [p] []
  | .nop => readForm [] true
  | .brx a => readForm [a] true
  | .ret a => readForm [a] true
  | .exit => readForm [] true
  | .yieldTurn => readForm [] true
  | .fuse a => readForm [a] true
  | .tick d => tickForm d
  | .ballot d a b => collectiveForm d a b true
  | .voteAny d a b => collectiveForm d a b true
  | .voteAll d a b => collectiveForm d a b true
  | .voteEq d a b => collectiveForm d a b true
  | .match32 d a b => collectiveForm d a b false
  | .match64 d a b => collectiveForm d a b false
  | .shflIdx d a b => shuffleForm d a b
  | .shflUp d a b => shuffleForm d a b
  | .shflDn d a b => shuffleForm d a b
  | .shflXor d a b => shuffleForm d a b
  | .reduxAdd32 d a b => collectiveForm d a b true
  | .reduxMinI32 d a b => collectiveForm d a b true
  | .reduxMinN32 d a b => collectiveForm d a b true
  | .reduxMaxI32 d a b => collectiveForm d a b true
  | .reduxMaxN32 d a b => collectiveForm d a b true
  | .reduxAnd d a b => collectiveForm d a b true
  | .reduxOr d a b => collectiveForm d a b true
  | .reduxXor d a b => collectiveForm d a b true
  | .reduxAdd64 d a b => collectiveForm d a b true
  | .sysrd d s => sysrdForm d s
  | .syswrImode d a => statusForm d [a]
  | .syswrSrg d a => statusForm d [a]
  | .fflagsRd d => statusForm d []
  | .fflagsClr d a => statusForm d [a]
  | .fflagsCtl d a => statusForm d [a]
  | .mark => readForm [] true
  | .trap => readForm [] true
  | .brk => readForm [] true
  | .fadd d a b => floatForm d [a, b] useMRQ
  | .fsub d a b => floatForm d [a, b] useMRQ
  | .fmul d a b => floatForm d [a, b] useMRQ
  | .ffma d a b => floatForm d [a, b] useMRCQ
  | .fmin d a b => floatForm d [a, b] useMQ
  | .fmax d a b => floatForm d [a, b] useMQ
  | .fminn d a b => floatForm d [a, b] useMQ
  | .fmaxn d a b => floatForm d [a, b] useMQ
  | .fabs d a => floatForm d [a] useMQ
  | .fneg d a => floatForm d [a] useMQ
  | .frcp d a => floatForm d [a] useMRQ
  | .frsq d a => floatForm d [a] useMRQ
  | .fsqrt d a => floatForm d [a] useMRQ
  | .fexp2 d a => floatForm d [a] useMQ
  | .flog2 d a => floatForm d [a] useMQ
  | .fsin d a => floatForm d [a] useMQ
  | .fcos d a => floatForm d [a] useMQ
  | .fclass d a => floatForm d [a] useMQ
  | .hadd2F16 d a b => floatForm d [a, b] useMRQ
  | .hadd2Bf16 d a b => floatForm d [a, b] useMRQ
  | .hmul2F16 d a b => floatForm d [a, b] useMRQ
  | .hmul2Bf16 d a b => floatForm d [a, b] useMRQ
  | .hfma2F16 d a b => floatForm d [a, b] useMRCQ
  | .hfma2Bf16 d a b => floatForm d [a, b] useMRCQ
  | .fdot2F16 d a b => floatForm d [a, b] useMRCQ
  | .fdot2Bf16 d a b => floatForm d [a, b] useMRCQ
  | .f8dot4E4m3 d a b => floatForm d [a, b] useMRCQ
  | .f8dot4E5m2 d a b => floatForm d [a, b] useMRCQ
  | .fpackF16 d a b => floatForm d [a, b] useMRQ
  | .fpackBf16 d a b => floatForm d [a, b] useMRQ
  | .fpackE4m3 d a b => floatForm d [a, b] useMRQ
  | .fpackE5m2 d a b => floatForm d [a, b] useMRQ
  | .frnd d a s t r => cvtForm d a r (frndOk s t r)
  | .fcvt d a s t r => cvtForm d a r (fcvtOk s t r)
  | .fcvti d a s t r => cvtForm d a r (fcvtiOk s t r)
  | .icvtf d a s t r => cvtForm d a r (icvtfOk s t r)
  | .ld d a s z _ => ldForm d a s z
  | .st d a s z _ => stForm d a s z
  | .ldAcq d a s z c _ => ldAcqForm d a s z c
  | .stRel d a s z c _ => stRelForm d a s z c
  | .ldx d a b s z => ldxForm d a b s z
  | .stx d a b s z => stxForm d a b s z
  | .atomAdd d a b _ => atomForm d a b false
  | .atomMin d a b _ => atomForm d a b false
  | .atomMax d a b _ => atomForm d a b false
  | .atomAnd d a b _ => atomForm d a b false
  | .atomOr d a b _ => atomForm d a b false
  | .atomXor d a b _ => atomForm d a b false
  | .atomExch d a b _ => atomForm d a b false
  | .atomCas d a b _ => atomForm d a b true
  | .atomFadd d a b => atomForm d a b false
  | .atomFmin d a b => atomForm d a b false
  | .atomFmax d a b => atomForm d a b false
  | .atomIncb d a b => atomForm d a b false
  | .atomDecb d a b => atomForm d a b false
  | .aredAdd a b _ => aredForm a b
  | .aredMin a b _ => aredForm a b
  | .aredMax a b _ => aredForm a b
  | .aredAnd a b _ => aredForm a b
  | .aredOr a b _ => aredForm a b
  | .aredXor a b _ => aredForm a b
  | .aredExch a b _ => aredForm a b
  | .aredFadd a b => aredForm a b
  | .aredFmin a b => aredForm a b
  | .aredFmax a b => aredForm a b
  | .aredIncb a b => aredForm a b
  | .aredDecb a b => aredForm a b
  | .fence s => syncForm [] [] (decide (s.toNat ≤ 5)) false
  | .fenceAcq s => syncForm [] [] (decide (s.toNat ≤ 5)) false
  | .fenceRel s => syncForm [] [] (decide (s.toNat ≤ 5)) false
  | .barArm _ a b => syncForm [a, b] [] true false
  | .barArrive s _ a => syncForm [a] [] (decide (s.toNat ≤ 5)) false
  | .barExpect _ a => syncForm [a] [] true false
  | .barWait s _ a => syncForm [a] [] (decide (s.toNat ≤ 5)) false
  | .barSync s _ a => syncForm [a] [] (decide (s.toNat ≤ 5)) false
  | .barTest s _ a p => syncForm [a] [p] (s.toNat ≤ 5 && p.toNat % 2 == 0) false
  | .barSwap => syncForm [] [] true false
  | .gsync s => syncForm [] [] (decide (s.toNat ≤ 5)) false
  | .wsync s => syncForm [] [] (decide (1 ≤ s.toNat && s.toNat ≤ 5)) false
  | .pref a => syncForm [a] [] true true
  | .cinv a b => syncForm [a, b] [] true true
  | .cwb s a b => syncForm [a, b] [] (decide (3 ≤ s.toNat && s.toNat ≤ 5)) true
  | .icinv s a b => syncForm [a, b] [] (s == 1 || s == 3) false
  | .xst d a _ z _ => xstForm d a z
  | .stc32 d a b => stcForm d a b
  | .stc64 d a b => stcForm d a b
  | .lde32 d a b => ldeForm d a b
  | .lde64 d a b => ldeForm d a b
  | .walkset d a b => walkUniformForm d [a, b]
  | .walkld32 d a => walkldForm d [a]
  | .walkldRow d => walkldForm d []
  | .walkldCol d => walkldForm d []
  | .walkld64 d a => walkldForm d [a]
  | .walkst32 d a => walkstForm d a
  | .walkst64 d a => walkstForm d a
  | .walknext d => walkUniformForm d []
  | .mma _ _ _ g _ _ => engineForm (gangOk g)
  | .mtrans _ _ _ g _ => engineForm (gangOk g)
  | .mperm _ _ _ g _ => engineForm (gangOk g)
  | .mrsum _ _ _ g _ => engineForm (gangOk g)
  | .gang i a => engineForm (i.toNat < 4 && isScalarSrc a)
  | .accld _ _ => engineForm true
  | .accst _ _ => engineForm true
  | .acczero _ => engineForm true
  | .mwait _ => engineForm true
  | .mflags _ a => engineForm (isScalarSrc a)
  | .tcfg _ => engineForm true
  | .tbuild _ _ => engineForm true
  | .tlook s _ _ => engineForm (s ≠ 31)
  | .tinv _ => engineForm true
  | .tstat _ _ => engineForm true
  | .tspill _ _ => engineForm true
  | .tfill _ _ => engineForm true
  | .twait => engineForm true
  | .twaitPoll _ => engineForm true
  | .cpy _ s _ _ => engineForm (decide (s.toNat ≤ 24))
  | .lay _ s h _ => engineForm (s.toNat ≤ 28 && h.toNat ≤ 30)
  | .layq s h _ => engineForm (s.toNat ≤ 28 && h.toNat ≤ 30)
  | .topk _ s _ => engineForm (decide (s.toNat ≤ 30))
  | .texp _ s _ => engineForm (decide (s.toNat ≤ 30))
  | .coll _ _ _ => engineForm true
  | .cwait => engineForm true
  | .recInit a _ => recordForm [a] []
  | .emit _ => recordForm [] []
  | .emitq _ q => recordForm [] [q]
  | .eport _ => recordForm [] []
  | .prefixWord => readForm [] true
  | .wideHint => readForm [] true
  | .modifierHint => readForm [] true
  | .stallHint => readForm [] true
  | .zeroWord => readForm [] true
  | _ => {}

end Sys2Proof.Machine
end

