-- ==== Sys2Proof/Machine/Integer.lean ====
section
/-! DEFINITION. Majors 0x01 and 0x02: integer arithmetic and logic (R98, R99). Both majors share one table of functions;
the major fixes the width. -/

namespace Sys2Proof.Machine

open Sys2Proof

/-! ### The functions of R99, at any width -/

/-- The high half of the signed product. -/
def mulHigh {w : Nat} (x y : BitVec w) : BitVec w := BitVec.ofInt w (x.toInt * y.toInt / 2 ^ w)

/-- The high half of the natural product. -/
def mulHighNat {w : Nat} (x y : BitVec w) : BitVec w := BitVec.ofNat w (x.toNat * y.toNat / 2 ^ w)

/-- Signed division toward zero; all ones for a zero divisor. -/
def divSigned {w : Nat} (x y : BitVec w) : BitVec w :=
  if y = 0 then BitVec.allOnes w else BitVec.ofInt w (x.toInt.tdiv y.toInt)

/-- Natural division; all ones for a zero divisor. -/
def divNatural {w : Nat} (x y : BitVec w) : BitVec w :=
  if y = 0 then BitVec.allOnes w else BitVec.ofNat w (x.toNat / y.toNat)

/-- Signed remainder; the dividend for a zero divisor. -/
def remSigned {w : Nat} (x y : BitVec w) : BitVec w := if y = 0 then x else BitVec.ofInt w (x.toInt.tmod y.toInt)

/-- Natural remainder; the dividend for a zero divisor. -/
def remNatural {w : Nat} (x y : BitVec w) : BitVec w := if y = 0 then x else BitVec.ofNat w (x.toNat % y.toNat)

/-- The lesser as signed numbers. -/
def minSigned {w : Nat} (x y : BitVec w) : BitVec w := if x.toInt ≤ y.toInt then x else y

/-- The lesser as naturals. -/
def minNatural {w : Nat} (x y : BitVec w) : BitVec w := if x.toNat ≤ y.toNat then x else y

/-- The greater as signed numbers. -/
def maxSigned {w : Nat} (x y : BitVec w) : BitVec w := if x.toInt ≤ y.toInt then y else x

/-- The greater as naturals. -/
def maxNatural {w : Nat} (x y : BitVec w) : BitVec w := if x.toNat ≤ y.toNat then y else x

/-- The absolute value; the least number stays itself. -/
def absSigned {w : Nat} (x _y : BitVec w) : BitVec w := if x.toInt < 0 then -x else x

/-- A and not B. -/
def andNot {w : Nat} (x y : BitVec w) : BitVec w := x &&& ~~~y

/-- Shift left by the whole value of y. -/
def shiftLeft {w : Nat} (x y : BitVec w) : BitVec w := if y.toNat ≥ w then 0 else x <<< y.toNat

/-- Logical shift right by the whole value of y. -/
def shiftRight {w : Nat} (x y : BitVec w) : BitVec w := if y.toNat ≥ w then 0 else x >>> y.toNat

/-- Arithmetic shift right by the whole value of y. -/
def shiftArith {w : Nat} (x y : BitVec w) : BitVec w := x.sshiftRight (min y.toNat (w - 1))

/-- Rotation left by y modulo the width. -/
def rotLeft {w : Nat} (x y : BitVec w) : BitVec w := x.rotateLeft (y.toNat % w)

/-! ### Operations on operands -/

/-- A function of A and B at a width, its result zero-extended (R21, R99). -/
def binop (w : Nat) (f : BitVec w → BitVec w → BitVec w) (o : Operands) : Except Trap (Reg × FlagSet) :=
  .ok ((f (o.a.setWidth w) (o.b.setWidth w)).setWidth 64, 0)

/-- A division or remainder, which sets IDZ for a zero divisor (R44, R99). -/
def divop (w : Nat) (f : BitVec w → BitVec w → BitVec w) (o : Operands) : Except Trap (Reg × FlagSet) :=
  .ok ((f (o.a.setWidth w) (o.b.setWidth w)).setWidth 64, if o.b.setWidth w = 0#w then flagIDZ else 0)

/-- A × B plus the fourth operand (R99). -/
def madop (w : Nat) (o : Operands) : Except Trap (Reg × FlagSet) :=
  .ok ((o.a.setWidth w * o.b.setWidth w + o.c.setWidth w).setWidth 64, 0)

/-! ### The instructions -/

/-- `IADD_32` (R99). -/
def execIadd32 (d a b : BitVec 7) (s : State) : Out := s.intOp (aluForm d [a, b]) a b (some 4) (binop 32 (· + ·))

/-- `IADD_64` (R99). -/
def execIadd64 (d a b : BitVec 7) (s : State) : Out := s.intOp (aluForm d [a, b]) a b (some 4) (binop 64 (· + ·))

/-- `ISUB_32` (R99). -/
def execIsub32 (d a b : BitVec 7) (s : State) : Out := s.intOp (aluForm d [a, b]) a b (some 4) (binop 32 (· - ·))

/-- `ISUB_64` (R99). -/
def execIsub64 (d a b : BitVec 7) (s : State) : Out := s.intOp (aluForm d [a, b]) a b (some 4) (binop 64 (· - ·))

/-- `IMUL_32` (R99). -/
def execImul32 (d a b : BitVec 7) (s : State) : Out := s.intOp (aluForm d [a, b]) a b (some 6) (binop 32 (· * ·))

/-- `IMUL_64` (R99). -/
def execImul64 (d a b : BitVec 7) (s : State) : Out := s.intOp (aluForm d [a, b]) a b (some 6) (binop 64 (· * ·))

/-- `IMULH_32` (R99). -/
def execImulh32 (d a b : BitVec 7) (s : State) : Out := s.intOp (aluForm d [a, b]) a b (some 6) (binop 32 mulHigh)

/-- `IMULH_64` (R99). -/
def execImulh64 (d a b : BitVec 7) (s : State) : Out := s.intOp (aluForm d [a, b]) a b (some 6) (binop 64 mulHigh)

/-- `IMULHN_32` (R99). -/
def execImulhn32 (d a b : BitVec 7) (s : State) : Out := s.intOp (aluForm d [a, b]) a b (some 6) (binop 32 mulHighNat)

/-- `IMULHN_64` (R99). -/
def execImulhn64 (d a b : BitVec 7) (s : State) : Out := s.intOp (aluForm d [a, b]) a b (some 6) (binop 64 mulHighNat)

/-- `IDIV_32` (R99). -/
def execIdiv32 (d a b : BitVec 7) (s : State) : Out := s.intOp (aluForm d [a, b]) a b none (divop 32 divSigned)

/-- `IDIV_64` (R99). -/
def execIdiv64 (d a b : BitVec 7) (s : State) : Out := s.intOp (aluForm d [a, b]) a b none (divop 64 divSigned)

/-- `IDIVN_32` (R99). -/
def execIdivn32 (d a b : BitVec 7) (s : State) : Out := s.intOp (aluForm d [a, b]) a b none (divop 32 divNatural)

/-- `IDIVN_64` (R99). -/
def execIdivn64 (d a b : BitVec 7) (s : State) : Out := s.intOp (aluForm d [a, b]) a b none (divop 64 divNatural)

/-- `IREM_32` (R99). -/
def execIrem32 (d a b : BitVec 7) (s : State) : Out := s.intOp (aluForm d [a, b]) a b none (divop 32 remSigned)

/-- `IREM_64` (R99). -/
def execIrem64 (d a b : BitVec 7) (s : State) : Out := s.intOp (aluForm d [a, b]) a b none (divop 64 remSigned)

/-- `IREMN_32` (R99). -/
def execIremn32 (d a b : BitVec 7) (s : State) : Out := s.intOp (aluForm d [a, b]) a b none (divop 32 remNatural)

/-- `IREMN_64` (R99). -/
def execIremn64 (d a b : BitVec 7) (s : State) : Out := s.intOp (aluForm d [a, b]) a b none (divop 64 remNatural)

/-- `IMIN_I_32` (R99). -/
def execIminI32 (d a b : BitVec 7) (s : State) : Out := s.intOp (aluForm d [a, b]) a b (some 4) (binop 32 minSigned)

/-- `IMIN_I_64` (R99). -/
def execIminI64 (d a b : BitVec 7) (s : State) : Out := s.intOp (aluForm d [a, b]) a b (some 4) (binop 64 minSigned)

/-- `IMIN_N_32` (R99). -/
def execIminN32 (d a b : BitVec 7) (s : State) : Out := s.intOp (aluForm d [a, b]) a b (some 4) (binop 32 minNatural)

/-- `IMIN_N_64` (R99). -/
def execIminN64 (d a b : BitVec 7) (s : State) : Out := s.intOp (aluForm d [a, b]) a b (some 4) (binop 64 minNatural)

/-- `IMAX_I_32` (R99). -/
def execImaxI32 (d a b : BitVec 7) (s : State) : Out := s.intOp (aluForm d [a, b]) a b (some 4) (binop 32 maxSigned)

/-- `IMAX_I_64` (R99). -/
def execImaxI64 (d a b : BitVec 7) (s : State) : Out := s.intOp (aluForm d [a, b]) a b (some 4) (binop 64 maxSigned)

/-- `IMAX_N_32` (R99). -/
def execImaxN32 (d a b : BitVec 7) (s : State) : Out := s.intOp (aluForm d [a, b]) a b (some 4) (binop 32 maxNatural)

/-- `IMAX_N_64` (R99). -/
def execImaxN64 (d a b : BitVec 7) (s : State) : Out := s.intOp (aluForm d [a, b]) a b (some 4) (binop 64 maxNatural)

/-- `IABS_32` (R99). -/
def execIabs32 (d a : BitVec 7) (s : State) : Out := s.intOp (aluForm d [a]) a a (some 4) (binop 32 absSigned)

/-- `IABS_64` (R99). -/
def execIabs64 (d a : BitVec 7) (s : State) : Out := s.intOp (aluForm d [a]) a a (some 4) (binop 64 absSigned)

/-- `AND_32` (R99). -/
def execAnd32 (d a b : BitVec 7) (s : State) : Out := s.intOp (aluForm d [a, b]) a b (some 4) (binop 32 (· &&& ·))

/-- `AND_64` (R99). -/
def execAnd64 (d a b : BitVec 7) (s : State) : Out := s.intOp (aluForm d [a, b]) a b (some 4) (binop 64 (· &&& ·))

/-- `OR_32` (R99). -/
def execOr32 (d a b : BitVec 7) (s : State) : Out := s.intOp (aluForm d [a, b]) a b (some 4) (binop 32 (· ||| ·))

/-- `OR_64` (R99). -/
def execOr64 (d a b : BitVec 7) (s : State) : Out := s.intOp (aluForm d [a, b]) a b (some 4) (binop 64 (· ||| ·))

/-- `XOR_32` (R99). -/
def execXor32 (d a b : BitVec 7) (s : State) : Out := s.intOp (aluForm d [a, b]) a b (some 4) (binop 32 (· ^^^ ·))

/-- `XOR_64` (R99). -/
def execXor64 (d a b : BitVec 7) (s : State) : Out := s.intOp (aluForm d [a, b]) a b (some 4) (binop 64 (· ^^^ ·))

/-- `ANDN_32` (R99). -/
def execAndn32 (d a b : BitVec 7) (s : State) : Out := s.intOp (aluForm d [a, b]) a b (some 4) (binop 32 andNot)

/-- `ANDN_64` (R99). -/
def execAndn64 (d a b : BitVec 7) (s : State) : Out := s.intOp (aluForm d [a, b]) a b (some 4) (binop 64 andNot)

/-- `SHL_32` (R99). -/
def execShl32 (d a b : BitVec 7) (s : State) : Out := s.intOp (aluForm d [a, b]) a b (some 4) (binop 32 shiftLeft)

/-- `SHL_64` (R99). -/
def execShl64 (d a b : BitVec 7) (s : State) : Out := s.intOp (aluForm d [a, b]) a b (some 4) (binop 64 shiftLeft)

/-- `SHR_32` (R99). -/
def execShr32 (d a b : BitVec 7) (s : State) : Out := s.intOp (aluForm d [a, b]) a b (some 4) (binop 32 shiftRight)

/-- `SHR_64` (R99). -/
def execShr64 (d a b : BitVec 7) (s : State) : Out := s.intOp (aluForm d [a, b]) a b (some 4) (binop 64 shiftRight)

/-- `SRA_32` (R99). -/
def execSra32 (d a b : BitVec 7) (s : State) : Out := s.intOp (aluForm d [a, b]) a b (some 4) (binop 32 shiftArith)

/-- `SRA_64` (R99). -/
def execSra64 (d a b : BitVec 7) (s : State) : Out := s.intOp (aluForm d [a, b]) a b (some 4) (binop 64 shiftArith)

/-- `ROTL_32` (R99). -/
def execRotl32 (d a b : BitVec 7) (s : State) : Out := s.intOp (aluForm d [a, b]) a b (some 4) (binop 32 rotLeft)

/-- `ROTL_64` (R99). -/
def execRotl64 (d a b : BitVec 7) (s : State) : Out := s.intOp (aluForm d [a, b]) a b (some 4) (binop 64 rotLeft)

/-- `IMAD_32` (R99). -/
def execImad32 (d a b : BitVec 7) (s : State) : Out := s.intOp (alu4Form d [a, b]) a b (some 6) (madop 32)

/-- `IMAD_64` (R99). -/
def execImad64 (d a b : BitVec 7) (s : State) : Out := s.intOp (alu4Form d [a, b]) a b (some 6) (madop 64)

end Sys2Proof.Machine
end

