-- ==== Sys2Proof/Machine/Bits.lean ====
section
/-! DEFINITION. Majors 0x03 to 0x0A: bit manipulation (R103 to R106) and the immediate forms (R100 to R102). -/

namespace Sys2Proof.Machine

open Sys2Proof

/-! ### The extended immediate (R81) -/

/-- The immediate of a group: the word's own, or extended by one or two wide-immediate hints. -/
def wideImm (n : Nat) (i : BitVec n) (w : List (BitVec 25)) : Reg :=
  match w with
  | [] => i.signExtend 64
  | [w1] => (w1 ++ i).signExtend 64
  | w1 :: w2 :: _ => (w1 ++ w2 ++ i).signExtend 64

/-- An operation of a width with A and the extended immediate (R100). -/
def immop (w : Nat) (i : BitVec 12) (f : BitVec w → BitVec w → BitVec w) (o : Operands) : Except Trap (Reg × FlagSet) :=
  .ok ((f (o.a.setWidth w) ((wideImm 12 i o.wides).setWidth w)).setWidth 64, 0)

/-- A shift of a width by an immediate amount (R101): that of R99 with b the amount. -/
def shiftop (w k : Nat) (f : BitVec w → BitVec w → BitVec w) (o : Operands) : Except Trap (Reg × FlagSet) :=
  .ok ((f (o.a.setWidth w) (BitVec.ofNat w k)).setWidth 64, 0)

/-- `IADD_IMM_32` (R100). -/
def execIaddImm32 (d a : BitVec 7) (i : BitVec 12) (s : State) : Out :=
  s.intOp (immForm d [a]) a a (some 4) (immop 32 i (· + ·))

/-- `IADD_IMM_64` (R100). -/
def execIaddImm64 (d a : BitVec 7) (i : BitVec 12) (s : State) : Out :=
  s.intOp (immForm d [a]) a a (some 4) (immop 64 i (· + ·))

/-- `AND_IMM` (R100). -/
def execAndImm (d a : BitVec 7) (i : BitVec 12) (s : State) : Out :=
  s.intOp (immForm d [a]) a a (some 4) (immop 64 i (· &&& ·))

/-- `OR_IMM` (R100). -/
def execOrImm (d a : BitVec 7) (i : BitVec 12) (s : State) : Out :=
  s.intOp (immForm d [a]) a a (some 4) (immop 64 i (· ||| ·))

/-- `XOR_IMM` (R100). -/
def execXorImm (d a : BitVec 7) (i : BitVec 12) (s : State) : Out :=
  s.intOp (immForm d [a]) a a (some 4) (immop 64 i (· ^^^ ·))

/-- `SHL_IMM_32` (R101). -/
def execShlImm32 (d a : BitVec 7) (k : BitVec 5) (s : State) : Out :=
  s.intOp (aluForm d [a]) a a (some 4) (shiftop 32 k.toNat shiftLeft)

/-- `SHL_IMM_64` (R101). -/
def execShlImm64 (d a : BitVec 7) (k : BitVec 6) (s : State) : Out :=
  s.intOp (aluForm d [a]) a a (some 4) (shiftop 64 k.toNat shiftLeft)

/-- `SHR_IMM_32` (R101). -/
def execShrImm32 (d a : BitVec 7) (k : BitVec 5) (s : State) : Out :=
  s.intOp (aluForm d [a]) a a (some 4) (shiftop 32 k.toNat shiftRight)

/-- `SHR_IMM_64` (R101). -/
def execShrImm64 (d a : BitVec 7) (k : BitVec 6) (s : State) : Out :=
  s.intOp (aluForm d [a]) a a (some 4) (shiftop 64 k.toNat shiftRight)

/-- `SRA_IMM_32` (R101). -/
def execSraImm32 (d a : BitVec 7) (k : BitVec 5) (s : State) : Out :=
  s.intOp (aluForm d [a]) a a (some 4) (shiftop 32 k.toNat shiftArith)

/-- `SRA_IMM_64` (R101). -/
def execSraImm64 (d a : BitVec 7) (k : BitVec 6) (s : State) : Out :=
  s.intOp (aluForm d [a]) a a (some 4) (shiftop 64 k.toNat shiftArith)

/-- `ROTL_IMM_32` (R101). -/
def execRotlImm32 (d a : BitVec 7) (k : BitVec 5) (s : State) : Out :=
  s.intOp (aluForm d [a]) a a (some 4) (shiftop 32 k.toNat rotLeft)

/-- `ROTL_IMM_64` (R101). -/
def execRotlImm64 (d a : BitVec 7) (k : BitVec 6) (s : State) : Out :=
  s.intOp (aluForm d [a]) a a (some 4) (shiftop 64 k.toNat rotLeft)

/-- `MOVI` (R102). -/
def execMovi (d : BitVec 7) (i : BitVec 19) (s : State) : Out :=
  s.intOp (moviForm d) 0x70 0x70 (some 4) fun o => .ok (wideImm 19 i o.wides, 0)

/-! ### Bit functions (R103 to R105) -/

/-- The word whose bit `i` is `f i`. -/
def ofBits (w : Nat) (f : Nat → Bool) : BitVec w :=
  (List.range w).foldl (init := 0#w) fun r i => if f i then r ||| (1#w <<< i) else r

/-- The number of set bits. -/
def popCount {w : Nat} (x : BitVec w) : Nat := ((List.range w).filter fun i => x.getLsbD i).length

/-- The zero bits above the highest set bit (R42). -/
def leadZeros {w : Nat} (x : BitVec w) : Nat := if x = 0 then w else w - 1 - Nat.log2 x.toNat

/-- The zero bits below the lowest set bit; the width when there is none. -/
def trailZeros {w : Nat} (x : BitVec w) : Nat := ((List.range w).find? fun i => x.getLsbD i).getD w

/-- The bits in reverse order. -/
def bitReverse {w : Nat} (x : BitVec w) : BitVec w := ofBits w fun i => x.getLsbD (w - 1 - i)

/-- The position of a control word (R104). -/
def fieldPos (c : Reg) : Nat := (bf c 0 6).toNat

/-- The length used of a control word (R104). -/
def fieldLen (c : Reg) : Nat := min (min (bf c 8 7).toNat 64) (64 - fieldPos c)

/-- The mask of the low `m` bits. -/
def lowMask (m : Nat) : Reg := BitVec.ofNat 64 (2 ^ m - 1)

/-- The field of R104, zero-extended. -/
def extractField (a c : Reg) : Reg := (a >>> fieldPos c) &&& lowMask (fieldLen c)

/-- The field of R104, sign-extended. -/
def extractSigned (a c : Reg) : Reg :=
  let f := extractField a c
  let m := fieldLen c
  if m ≠ 0 && f.getLsbD (m - 1) then f ||| ~~~lowMask m else f

/-- `bfi` of R104: bits of A inserted into B. -/
def insertField (a b c : Reg) : Reg :=
  let mask := lowMask (fieldLen c) <<< fieldPos c
  (b &&& ~~~mask) ||| ((a <<< fieldPos c) &&& mask)

/-- Whether a stride of R105 is legal, and the source or target position of bit i. -/
def stridePos (b : Reg) (i : Nat) : Option Nat :=
  let st := (bf b 0 4).toNat
  let p := st * i + (bf b 8 3).toNat
  if st = 0 ∨ st > 8 then none else if p ≤ 63 then some p else none

/-- `bilv` of R105: bit i of A goes to its strided position. -/
def interleave (a b : Reg) : Reg :=
  (List.range 64).foldl (init := 0) fun r i =>
    match stridePos b i with
    | some j => if a.getLsbD i then r ||| (1 <<< j) else r
    | none => r

/-- `bdilv` of R105: the strided bits of A gathered. -/
def deinterleave (a b : Reg) : Reg :=
  (List.range 64).foldl (init := 0) fun r i =>
    match stridePos b i with
    | some j => if a.getLsbD j then r ||| (1 <<< i) else r
    | none => r

/-- Byte `j` of a register. -/
def byteOf (x : Reg) (j : Nat) : Byte := x.extractLsb' (8 * j) 8

/-- `perm8` of R103. -/
def permuteBytes (a b : Reg) : Reg :=
  (List.range 8).foldl (init := 0) fun r j =>
    let n := (b.extractLsb' (4 * j) 4).toNat
    r ||| ((if n < 8 then (byteOf a n).setWidth 64 else 0) <<< (8 * j))

/-- The funnel shift of R103. -/
def funnel (w : Nat) (a b : BitVec w) (k : Nat) : BitVec w := BitVec.ofNat w ((a.toNat * 2 ^ w + b.toNat) * 2 ^ (k % w) / 2 ^ w)

/-- The byte dot product of R103, signed or natural, with the fourth operand. -/
def dotBytes (signed : Bool) (a b c : Reg) : BitVec 32 :=
  let val (x : Reg) (j : Nat) : Int := if signed then (byteOf x j).toInt else (byteOf x j).toNat
  BitVec.ofInt 32 ((c.setWidth 32).toNat + ((List.range 4).map fun j => val a j * val b j).sum)

/-- A function of one operand. -/
def unop (f : Reg → Reg) (o : Operands) : Except Trap (Reg × FlagSet) := .ok (f o.a, 0)

/-- A function of three operands. -/
def triop (f : Reg → Reg → Reg → Reg) (o : Operands) : Except Trap (Reg × FlagSet) := .ok (f o.a o.b o.c, 0)

/-- A count over the low bits of a register. -/
def countOf (w : Nat) (f : BitVec w → Nat) (x : Reg) : Reg := BitVec.ofNat 64 (f (x.setWidth w))

/-- `POPC_32` (R103). -/
def execPopc32 (d a : BitVec 7) (s : State) : Out := s.intOp (aluForm d [a]) a a (some 6) (unop (countOf 32 popCount))

/-- `POPC_64` (R103). -/
def execPopc64 (d a : BitVec 7) (s : State) : Out := s.intOp (aluForm d [a]) a a (some 6) (unop (countOf 64 popCount))

/-- `CLZ_32` (R103). -/
def execClz32 (d a : BitVec 7) (s : State) : Out := s.intOp (aluForm d [a]) a a (some 6) (unop (countOf 32 leadZeros))

/-- `CLZ_64` (R103). -/
def execClz64 (d a : BitVec 7) (s : State) : Out := s.intOp (aluForm d [a]) a a (some 6) (unop (countOf 64 leadZeros))

/-- `CTZ_32` (R103). -/
def execCtz32 (d a : BitVec 7) (s : State) : Out := s.intOp (aluForm d [a]) a a (some 6) (unop (countOf 32 trailZeros))

/-- `CTZ_64` (R103). -/
def execCtz64 (d a : BitVec 7) (s : State) : Out := s.intOp (aluForm d [a]) a a (some 6) (unop (countOf 64 trailZeros))

/-- `BREV_32` (R103). -/
def execBrev32 (d a : BitVec 7) (s : State) : Out :=
  s.intOp (aluForm d [a]) a a (some 6) (unop fun x => (bitReverse (x.setWidth 32)).setWidth 64)

/-- `BREV_64` (R103). -/
def execBrev64 (d a : BitVec 7) (s : State) : Out := s.intOp (aluForm d [a]) a a (some 6) (unop bitReverse)

/-- `BFX_I64` (R104). -/
def execBfxI64 (d a b : BitVec 7) (s : State) : Out :=
  s.intOp (aluForm d [a, b]) a b (some 6) (binop 64 extractSigned)

/-- `BFX_N64` (R104). -/
def execBfxN64 (d a b : BitVec 7) (s : State) : Out :=
  s.intOp (aluForm d [a, b]) a b (some 6) (binop 64 extractField)

/-- `BFI` (R104). -/
def execBfi (d a b : BitVec 7) (s : State) : Out := s.intOp (alu4Form d [a, b]) a b (some 6) (triop insertField)

/-- `BILV` (R105). -/
def execBilv (d a b : BitVec 7) (s : State) : Out := s.intOp (aluForm d [a, b]) a b (some 6) (binop 64 interleave)

/-- `BDILV` (R105). -/
def execBdilv (d a b : BitVec 7) (s : State) : Out := s.intOp (aluForm d [a, b]) a b (some 6) (binop 64 deinterleave)

/-- `PERM8` (R103). -/
def execPerm8 (d a b : BitVec 7) (s : State) : Out := s.intOp (aluForm d [a, b]) a b (some 6) (binop 64 permuteBytes)

/-- `FSH_32` (R103). -/
def execFsh32 (d a b : BitVec 7) (s : State) : Out :=
  s.intOp (alu4Form d [a, b]) a b (some 6)
    (triop fun x y c => (funnel 32 (x.setWidth 32) (y.setWidth 32) (c.setWidth 32).toNat).setWidth 64)

/-- `FSH_64` (R103). -/
def execFsh64 (d a b : BitVec 7) (s : State) : Out :=
  s.intOp (alu4Form d [a, b]) a b (some 6) (triop fun x y c => funnel 64 x y c.toNat)

/-- `SEXT_I8` (R103). -/
def execSextI8 (d a : BitVec 7) (s : State) : Out :=
  s.intOp (aluForm d [a]) a a (some 4) (unop fun x => (x.setWidth 8).signExtend 64)

/-- `SEXT_I16` (R103). -/
def execSextI16 (d a : BitVec 7) (s : State) : Out :=
  s.intOp (aluForm d [a]) a a (some 4) (unop fun x => (x.setWidth 16).signExtend 64)

/-- `SEXT_I32` (R103). -/
def execSextI32 (d a : BitVec 7) (s : State) : Out :=
  s.intOp (aluForm d [a]) a a (some 4) (unop fun x => (x.setWidth 32).signExtend 64)

/-- `ZEXT_N8` (R103). -/
def execZextN8 (d a : BitVec 7) (s : State) : Out :=
  s.intOp (aluForm d [a]) a a (some 4) (unop fun x => (x.setWidth 8).setWidth 64)

/-- `ZEXT_N16` (R103). -/
def execZextN16 (d a : BitVec 7) (s : State) : Out :=
  s.intOp (aluForm d [a]) a a (some 4) (unop fun x => (x.setWidth 16).setWidth 64)

/-- `ZEXT_N32` (R103). -/
def execZextN32 (d a : BitVec 7) (s : State) : Out :=
  s.intOp (aluForm d [a]) a a (some 4) (unop fun x => (x.setWidth 32).setWidth 64)

/-- `MOV` (R103). -/
def execMov (d a : BitVec 7) (s : State) : Out := s.intOp (aluForm d [a]) a a (some 4) (unop id)

/-- `ADDR` (R106): a sum that is not canonical traps with the non-canonical-address fault. -/
def execAddr (d a b : BitVec 7) (s : State) : Out :=
  s.intOp (aluForm d [a, b]) a b (some 4) fun o =>
    let v := o.a + o.b
    if bf v 56 8 ≠ 0 then .error (trap .nonCanonical v) else .ok (v, 0)

/-- `DOT4_I8` (R103). -/
def execDot4I8 (d a b : BitVec 7) (s : State) : Out :=
  s.intOp (alu4Form d [a, b]) a b (some 6) (triop fun x y c => (dotBytes true x y c).setWidth 64)

/-- `DOT4_N8` (R103). -/
def execDot4N8 (d a b : BitVec 7) (s : State) : Out :=
  s.intOp (alu4Form d [a, b]) a b (some 6) (triop fun x y c => (dotBytes false x y c).setWidth 64)

end Sys2Proof.Machine
end

