-- ==== Sys2Proof/Machine/Control.lean ====
section
/-! DEFINITION. Major 0x0B's `icmp`, majors 0x0C to 0x0F, 0x11, 0x12 and 0x17: compare and predicate logic (R107 to R109),
control flow (R110 to R115), the end of a thread (R250), special values and status (R139, R252), `mark`, `trap` and
`brk` (R251), and the trace ring (R377). -/

namespace Sys2Proof.Machine

open Sys2Proof

/-! ### Compare, predicates, select -/

/-- An integer as a type of R75 reads it. -/
def typedInt (t : BitVec 4) (r : Reg) : Int := intOperand t.toNat r

/-- The conditions 0 to 5 of R75 on an order given as −1, 0 or 1. -/
def condHolds (c : BitVec 4) (o : Int) : Bool :=
  match c.toNat with
  | 0 => o = 0 | 1 => o ≠ 0 | 2 => o < 0 | 3 => o ≤ 0 | 4 => o > 0 | 5 => o ≥ 0 | _ => false

/-- The order of two integers. -/
def orderInt (x y : Int) : Int := if x < y then -1 else if x = y then 0 else 1

/-- `ICMP` (R107). -/
def execIcmp (p c : BitVec 4) (a b : BitVec 7) (t : BitVec 4) (s : State) : Out :=
  s.perLane (cmpForm p a b (icmpOk c t)) (predLane p 4 fun v =>
    (v.t, condHolds c (orderInt (typedInt t (v.read a)) (typedInt t (v.read b)))))

/-- Bit 2a + b of a table (R73, R108). -/
def lutBit (l : BitVec 4) (a b : Bool) : Bool := l.getLsbD ((if a then 2 else 0) + (if b then 1 else 0))

/-- `PSET` (R108). -/
def execPset (p l a b : BitVec 4) (s : State) : Out :=
  s.perLane (predForm [a, b] [p]) fun s v =>
    (s, .ok (v.t.writeFixed (.pred p.toNat) (bit (lutBit l (v.t.readPred a) (v.t.readPred b))) 4).step)

/-- `ISEL` (R109). -/
def execIsel (d a b : BitVec 7) (p : BitVec 4) (n : BitVec 1) (s : State) : Out :=
  s.vector (iselForm d a b p) (some 4) fun v =>
    .ok (v.t, if v.t.readPred p != (n == 1) then v.read a else v.read b)

/-! ### Branches -/

/-- The target of a branch (R73): the branch word's own address plus four times the offset, modulo 2^56
(DESIGN CHOICE: notes/assumptions/103). -/
def Thread.branchTarget (t : Thread) (o : BitVec 20) : BitVec 56 := t.wordPc + 4 * o.signExtend 56

/-- `BRA` (R111). -/
def execBra (p : BitVec 4) (n : BitVec 1) (o : BitVec 20) (s : State) : Out :=
  s.perLane (predForm [p] []) fun s v =>
    (s, .ok (if v.t.readPred p != (n == 1) then v.t.jump (v.t.branchTarget o) else v.t.step))

/-- `CALL` (R112): a slot is reserved and filled at once with the address of the word after the call. -/
def execCall (p : BitVec 4) (n : BitVec 1) (o : BitVec 20) (s : State) : Out :=
  s.perLane (predForm [p] []) fun s v =>
    (s, .ok (if v.t.readPred p != (n == 1) then
        let t := v.t.reserve
        (t.writeNow (.slot t.qseq) (v.t.wordPc.setWidth 64 + 4)).jump (v.t.branchTarget o)
      else v.t.step))

/-- The checks and the transfer of `brx` and `ret` (R113); of a target that fails both, the misaligned-target fault is taken
(DESIGN CHOICE: notes/assumptions/103). -/
def jumpLane (a : BitVec 7) : Lane := fun s v =>
  let x := v.read a
  if bf x 0 2 ≠ 0 then (s, .error (trap .misalignedTarget x))
  else if bf x 56 8 ≠ 0 then (s, .error (trap .nonCanonical x))
  else (s, .ok (v.t.jump (x.setWidth 56)))

/-- `BRX` (R113). -/
def execBrx (a : BitVec 7) (s : State) : Out := s.perLane (readForm [a] true) (jumpLane a)

/-- `RET` (R113): as `brx`; the mark of a return changes only timing. -/
def execRet (a : BitVec 7) (s : State) : Out := s.perLane (readForm [a] true) (jumpLane a)

/-- `NOP` (R114). -/
def execNop (s : State) : Out := s.perLane (readForm [] true) fun s v => (s, .ok v.t.step)

/-- `YIELD` (R250): the thread's turn ends, so that the other ready threads of its lane issue before it does again. -/
def execYieldTurn (s : State) : Out := s.perLane (readForm [] true) fun s v => (s, .ok { v.t.step with yielded := true })

/-- The ticks in which a number of core clocks passes (R370, R384), rounded up (DEDUCED: notes/assumptions/39). -/
def State.clocksToTicks (s : State) (n : Nat) : Nat := (10 * n + 19 + s.clkPoint) / (20 + s.clkPoint)

/-- Threads have come to a `fuse` word (R115): when one of them waits for no time, those that stand there proceed with it; else
the waits end early once every live thread of the group stands there. -/
def Group.fuseArrival (g : Group) (ts : List Nat) (now : Nat) : Group :=
  match ts.findSome? fun i => (g.threads[i]?).bind fun t =>
      if t.isLive && t.wait == .fuse now then some t.pc else none with
  | some pc => g.fuseAt pc
  | none => g.fuseRelease

/-- `FUSE` (R115): a bounded wait, at a fusion point. -/
def execFuse (a : BitVec 7) (s : State) : Out :=
  match s.perLane (readForm [a] true) (fun s v =>
    (s, .ok { v.t with wait := .fuse (s.tick + s.clocksToTicks (min (v.read a).toNat 4095)) })) with
  | .next t => .next (match t.cur with
    | none => t
    | some u => t.modGrp u.wg u.grp fun g => g.fuseArrival u.gtids t.tick)
  | o => o

/-! ### Special values (R36, R250, R252) -/

/-- The special values of R36; those of the placement are those at launch. -/
def State.special (s : State) (v : View) (g : Nat) (sel : BitVec 8) : Reg :=
  let n (k : Nat) : Reg := BitVec.ofNat 64 k
  match sel.toNat with
  | 0 => n v.tid
  | 1 => n (4 * v.grp.birthQuad + v.gtid)
  | 2 => n (v.grp.birthQuad + v.gtid / 4)
  | 3 => n g
  | 4 => n v.grp.role
  | 5 => n v.gtid
  | 6 => n v.grp.birthSlot
  | 7 => n v.wg.birthCore
  | 8 => n (v.wg.birthCore / 4)
  | 9 => n (v.wg.birthCore / 12)
  | 10 => n s.pkg
  | 11 => n v.wg.rank
  | 12 => n s.tick
  | 13 => v.recidx
  | 14 => n v.wg.recCount
  | _ => n v.wg.ctx

/-- A read of a special value: by each thread, or once per group into an s-register. -/
def State.readSpecial (s : State) (f : Form) (sel : BitVec 8) : Out :=
  if f.scalar then
    s.uniform f fun s w g _ =>
      match (((s.grp? w g).map Group.liveGtids).getD []).head?.bind fun t => s.view? w g t with
      | none => .done s
      | some v => .done (s.writeScalarDst w g f.dst (s.special v g sel))
  else
    match s.cur with
    | none => .refused .noThread
    | some u => s.vector f none fun v => .ok (v.t, s.special v u.grp sel)

/-- `SYSRD` (R252). -/
def execSysrd (d : BitVec 7) (sel : BitVec 8) (s : State) : Out := s.readSpecial (sysrdForm d sel) sel

/-- `TICK` (R250): the global tick at issue. -/
def execTick (d : BitVec 7) (s : State) : Out := s.readSpecial (tickForm d) 12

/-- `SYSWR_IMODE` (R35, R252): a value of 3 leaves IMODE unchanged. -/
def execSyswrImode (d a : BitVec 7) (s : State) : Out :=
  s.vector (statusForm d [a]) none fun v =>
    let m := bf (v.read a) 0 2
    .ok (if m = 3 then v.t else { v.t with imode := m }, v.t.imode.setWidth 64)

/-- `SYSWR_SRG` (R57, R252): zero is stored as one. -/
def execSyswrSrg (d a : BitVec 7) (s : State) : Out :=
  s.vector (statusForm d [a]) none fun v =>
    let x := bf (v.read a) 0 32
    .ok ({ v.t with srg := if x = 0 then 1 else x }, v.t.srg.setWidth 64)

/-- `FFLAGS_RD` (R139). -/
def execFflagsRd (d : BitVec 7) (s : State) : Out :=
  s.vector (statusForm d []) none fun v => .ok (v.t, v.t.tsw.setWidth 64)

/-- `FFLAGS_CLR` (R139): clears the sticky flags named in A. -/
def execFflagsClr (d a : BitVec 7) (s : State) : Out :=
  s.vector (statusForm d [a]) none fun v =>
    .ok ({ v.t with tsw := v.t.tsw &&& ~~~((bf (v.read a) 0 6).setWidth 32) }, v.t.tsw.setWidth 64)

/-- The status word with RM and FTZ taken from a value; a mode of 5 to 7 leaves RM (R34). -/
def controlTsw (tsw : BitVec 32) (x : Reg) : BitVec 32 :=
  let rm : BitVec 32 := if (bf x 8 3).toNat ≤ 4 then (bf x 8 3).setWidth 32 <<< 8 else tsw &&& 0x700
  let ftz : BitVec 32 := (bf x 11 1).setWidth 32 <<< 11
  (tsw &&& ~~~(0xF00 : BitVec 32)) ||| rm ||| ftz

/-- `FFLAGS_CTL` (R34, R139). -/
def execFflagsCtl (d a : BitVec 7) (s : State) : Out :=
  s.vector (statusForm d [a]) none fun v =>
    .ok ({ v.t with tsw := controlTsw v.t.tsw (v.read a) }, v.t.tsw.setWidth 64)

/-! ### The trace ring (R377) -/

/-- The words of a trace record. -/
def traceRecord (time : Reg) (id : BitVec 20) (grp launch node : Nat) (kind : BitVec 4) : List Reg :=
  [time, id ++ BitVec.ofNat 4 grp ++ BitVec.ofNat 24 launch ++ BitVec.ofNat 12 node ++ kind]

/-- Puts records into a context's trace ring when all of them fit; a ring whose memory cannot be written keeps none
(DEDUCED: notes/assumptions/40). -/
def State.tracePut (s : State) (c : Nat) (x : Context) : List (List Reg) → State
  | [] => s
  | r :: rs =>
    let place := x.traceProd.toNat % 2 ^ x.traceSize.toNat
    match s.writeRun c (x.traceBase.toNat + 16 * place) (wordBytes r) with
    | (s, .error _) => s
    | (s, .ok ()) =>
      let x := { x with traceProd := x.traceProd + 1 }
      (s.modCtx c fun y => { y with traceProd := x.traceProd }).tracePut c x rs

/-- Writes a mark to the trace ring of a workgroup's context when tracing is on; a full ring drops the record and counts
it, and the next record that fits is preceded by the count. -/
def State.trace (s : State) (w : Workgroup) (grp : Nat) (id : BitVec 20) : State :=
  match s.ctx? w.ctx with
  | none => s
  | some c =>
    if !c.traceEn then s
    else
      let free := (if c.traceSize.toNat < 8 then 0 else 2 ^ c.traceSize.toNat) - (c.traceProd - c.traceCons).toNat
      let mark := traceRecord (BitVec.ofNat 64 s.tick) id grp w.launch w.node 0
      if c.traceDropped = 0 then
        if free ≥ 1 then s.tracePut w.ctx c [mark]
        else s.modCtx w.ctx fun x => { x with traceDropped := x.traceDropped + 1 }
      else if free ≥ 2 then
        (s.tracePut w.ctx c [traceRecord (BitVec.ofNat 64 c.traceDropped) 0 grp w.launch w.node 1, mark]).modCtx w.ctx
          fun x => { x with traceDropped := 0 }
      else s.modCtx w.ctx fun x => { x with traceDropped := x.traceDropped + 1 }

/-! ### Mark, trap, break -/

/-- The 20-bit payload of the word in hand (R87). -/
def State.payload20 (s : State) : BitVec 20 := bf s.ir 0 20

/-- `MARK` (R251): one record per weave that issues it (R377). -/
def execMark (s : State) : Out :=
  s.perLane (readForm [] true) fun s v =>
    let first := match s.cur with | some u => u.gtids.head? == some v.gtid | none => false
    let grp := match s.cur with | some u => u.grp | none => 0
    (if first then s.trace v.wg grp s.payload20 else s, .ok v.t.step)

/-- `TRAP` (R251): the software-trap fault. -/
def execTrap (s : State) : Out :=
  s.perLane (readForm [] true) fun s _ => (s, .error (Sys2Proof.Machine.trap .softwareTrap (s.payload20.setWidth 64)))

/-- `BRK` (R251): the breakpoint trap when breakpoints are enabled for the context, else no effect
(DEDUCED: notes/assumptions/29). -/
def execBrk (s : State) : Out :=
  s.perLane (readForm [] true) fun s v =>
    if ((s.ctx? v.wg.ctx).map Context.brkEn).getD false then
      (s, .error (Sys2Proof.Machine.trap .breakpoint (s.payload20.setWidth 64)))
    else (s, .ok v.t.step)

/-! ### The end of a thread (R250) -/

/-- What the end of threads of a group settles: waiters that lose a member (R119, R179), waits that no longer wait for
them (R28, R155, R223), and the end of the workgroup (R14). -/
def State.threadsLeft (s : State) (w g : Nat) : State :=
  match s.wg? w with
  | none => s
  | some x =>
    let orphans := ((x.groups[g]?).map Group.orphans).getD []
    let s := s.takeHits w g orphans
    let ended := ((s.grp? w g).map fun y => y.liveGtids.isEmpty).getD true
    let s := if ended then s.takeFaults (latchDeliveries w x g) else s
    ((s.wakePeers w).tryComplete w).noteCandidates x.graph

/-- The table-range fault that a group's pending-fault register holds (R206): a lookup command raised it (UNIT 1, R328). -/
def rangeTrap (off : BitVec 23) : Trap :=
  { cause := .tableRange, addr := off.setWidth 64, unit := 1 }

/-- `EXIT` (R206, R250): waits until the group's lookup count is 0; with a table-range fault pending the group takes it
and no thread exits. -/
def execExit (s : State) : Out :=
  match s.cur with
  | none => .refused .noThread
  | some u =>
    match s.grp? u.wg u.grp with
    | none => .next s
    | some gr =>
      let hits := s.uniformHits (readForm [] true) u.wg u.grp u.gtids
      let good := u.gtids.filter fun t => !(hits.any fun h => h.1 == t)
      let s := s.takeHits u.wg u.grp hits
      if good.isEmpty then .next s
      else if gr.lookupCount ≠ 0 then
        .next (good.foldl (init := s) fun s t => s.modThread ⟨u.wg, u.grp, t⟩ fun x => { x with wait := .engine })
      else match gr.pendFault with
        | some off =>
          let s := s.modGrp u.wg u.grp fun x => { x with pendFault := none }
          .next (s.takeFault (s.groupDelivery u.wg u.grp (rangeTrap off)))
        | none =>
          let s := good.foldl (init := s) fun s t => s.modThread ⟨u.wg, u.grp, t⟩ fun x =>
            { x with life := .exited, recbuf := Vector.replicate 16 0, words := Words.none }
          .next (s.threadsLeft u.wg u.grp)

/-! ### Words that carry a payload for the group (R67, R76 to R82, R88) -/

/-- A word that joins the group in progress: each thread takes it, or traps with the undefined-instruction fault, whatever follows the word,
a zero word too (DESIGN CHOICE: notes/assumptions/103). -/
def State.joinWord (s : State) (f : Words → Option Words) : Out :=
  match s.cur with
  | none => .refused .noThread
  | some u =>
    let r := u.gtids.foldl (init := (s, ([] : List (Nat × Trap)))) fun acc t =>
      match acc.1.thread? ⟨u.wg, u.grp, t⟩ with
      | none => acc
      | some x => match f x.words with
        | some w => (acc.1.setThread ⟨u.wg, u.grp, t⟩ { x with words := w }, acc.2)
        | none => (acc.1, acc.2 ++ [(t, Sys2Proof.Machine.trap .undefinedInstruction (x.pc.setWidth 64))])
    .next (r.1.takeHits u.wg u.grp r.2)

/-- `PREFIX` (R76): a prefix follows no prefix (R88 item 6). -/
def execPrefixWord (s : State) : Out :=
  s.joinWord fun w => if w.pre.isSome then none else some { w with pre := some (prefixOf s.ir) }

/-- `WIDE_IMMEDIATE_HINT` (R81): two at most, before a modifier hint and a prefix (R67, R88 items 6, 11, 12). -/
def execWideHint (s : State) : Out :=
  s.joinWord fun w =>
    if w.pre.isSome || w.modifier.isSome || w.wides.length ≥ 2 then none else some { w with wides := w.wides ++ [bf s.ir 0 25] }

/-- `MODIFIER_HINT` (R80): one at most, before a prefix. -/
def execModifierHint (s : State) : Out :=
  s.joinWord fun w =>
    if w.pre.isSome || w.modifier.isSome then none else some { w with modifier := some (modifierOf s.ir) }

/-- `STALL_HINT` (R79, R82): replaces the counts not yet used; between the words of a group it is undefined (R88 item
13). -/
def execStallHint (s : State) : Out :=
  match s.cur with
  | none => .refused .noThread
  | some u =>
    let r := u.gtids.foldl (init := (s, ([] : List (Nat × Trap)))) fun acc t =>
      match acc.1.thread? ⟨u.wg, u.grp, t⟩ with
      | none => acc
      | some x =>
        if x.words.count = 0 then
          (acc.1.setThread ⟨u.wg, u.grp, t⟩ { x with stalls := stallsOf s.ir, pc := x.pc + 4 }, acc.2)
        else (acc.1, acc.2 ++ [(t, Sys2Proof.Machine.trap .undefinedInstruction (x.pc.setWidth 64))])
    .next (r.1.takeHits u.wg u.grp r.2)

/-- A fault that every thread at the word takes. -/
def State.allTrap (s : State) (c : Cause) : Out :=
  match s.cur with
  | none => .refused .noThread
  | some u =>
    .next (s.takeHits u.wg u.grp (u.gtids.filterMap fun t =>
      (s.thread? ⟨u.wg, u.grp, t⟩).map fun x => (t, Sys2Proof.Machine.trap c (x.pc.setWidth 64))))

/-- `ZERO_WORD` (R88): the zero-word fault, whatever words that may stand there precede it in its group
(DESIGN CHOICE: notes/assumptions/103). -/
def execZeroWord (s : State) : Out := s.allTrap .zeroWord

/-- `UNDEFINED_INSTRUCTION` (R88): a word that is no instruction. -/
def execUndefinedInstruction (s : State) : Out := s.allTrap .undefinedInstruction

end Sys2Proof.Machine
end

