-- ==== Sys2Proof/Machine/Lane.lean ====
section
/-! DEFINITION. Major 0x10: the lane collectives (R117 to R123). A thread that issues one waits, with what it supplied,
until every member that its mask names waits at the same PC with the same mask word; the last arrival completes the
collective for all of them. -/

namespace Sys2Proof.Machine

open Sys2Proof

/-! ### Arrival (R117 to R119) -/

/-- Whether a mask word fails the checks of R117 for a thread. -/
def maskBad (m : Reg) (gtid count : Nat) : Bool :=
  bf m 34 30 ≠ 0 || (bf m 32 2).toNat ≠ gtid / 32 || !m.getLsbD (gtid % 32) || (maskMembers m).any fun i => decide (count ≤ i)

/-- The mask word a thread waits with at a rendezvous of R118. -/
def Wait.mask? : Wait → Option Reg
  | .lane m _ _ _ => some m
  | .compress m _ _ _ _ => some m
  | _ => none

/-- The fault address of a mask fault (R329): the low 34 bits. -/
def maskTrap (m : Reg) : Trap := trap .collectiveMask (bf m 0 34 |>.setWidth 64)

/-- Whether a thread waits at a rendezvous with a PC and a mask word. -/
def Thread.standsAt (t : Thread) (pc : BitVec 56) (m : Reg) : Bool := t.isLive && t.pc == pc && t.wait.mask? == some m

/-- Whether a thread waits at a rendezvous with another PC or another mask word. -/
def Thread.standsElse (t : Thread) (pc : BitVec 56) (m : Reg) : Bool :=
  t.isLive && t.wait.mask?.isSome && !t.standsAt pc m

/-- Lanes that fault, each with its trap, grouped into deliveries by the PC at which they stand (R330)
(DEDUCED: notes/assumptions/37). -/
def State.takeByPc (s : State) (w g : Nat) (hits : List (Nat × Trap)) : State :=
  let pcOf (i : Nat) : BitVec 56 := ((s.thread? ⟨w, g, i⟩).map Thread.pc).getD 0
  let pcs := (hits.map fun h => pcOf h.1).eraseDups
  s.takeFaults (pcs.map fun pc => Delivery.ofGroup w g (hits.filter fun h => pcOf h.1 == pc))

/-- The threads, among those of a group, to which R119 leaves two outcomes when thread `i` issues with a PC and a mask. -/
def Group.disputed (g : Group) (i : Nat) (pc : BitVec 56) (m : Reg) : List Nat :=
  let own := (maskMembers m).any fun j => j ≠ i && ((g.threads[j]?).map fun t => t.standsElse pc m).getD false
  let others := (List.range g.threads.length).filter fun j =>
    j ≠ i && ((g.threads[j]?).map fun t => t.standsElse pc m && (match t.wait.mask? with
      | some n => (maskMembers n).contains i
      | none => false)).getD false
  (if own then [i] else []) ++ others

/-- The members a waiting thread still lacks that themselves wait elsewhere. -/
def Group.lacks (g : Group) (i : Nat) : List Nat :=
  match g.threads[i]? with
  | none => []
  | some t =>
    match t.wait.mask? with
    | none => []
    | some m => (maskMembers m).filter fun j => j ≠ i && ((g.threads[j]?).map fun x => x.standsElse t.pc m).getD false

/-- The threads reached from a list by going to the members each lacks, in at most `n` rounds. -/
def Group.lackedFrom (g : Group) : Nat → List Nat → List Nat
  | 0, l => l
  | n + 1, l => g.lackedFrom n ((l ++ l.flatMap g.lacks).eraseDups)

/-- Whether a waiting thread lacks, through others that wait, itself: none of them reaches a later rendezvous, so R119
leaves some of them only the fault (DEDUCED: notes/assumptions/23). -/
def Group.deadlocked (g : Group) (i : Nat) : Bool := (g.lackedFrom g.threads.length (g.lacks i)).contains i

/-- Draws, for each disputed thread, which of the two outcomes of R119 it has. -/
def State.dispute (s : State) (w g : Nat) : List Nat → State × List (Nat × Trap)
  | [] => (s, [])
  | i :: t =>
    let (s, v) := s.draw
    let pc := ((s.thread? ⟨w, g, i⟩).map Thread.pc).getD 0
    let (s, r) := s.dispute w g t
    (s, (if v.getLsbD 0 then [(i, trap .collectiveMismatch (pc.setWidth 64))] else []) ++ r)

/-- One lane's arrival at a rendezvous under R118: the checks, the reservation, the wait; and, when it is the last, what
completes the rendezvous. -/
def State.meet (f : Form) (b : BitVec 7) (wait : View → Reg → Bool → Wait)
    (finish : State → Nat → Nat → List Nat → State) (w g : Nat) (acc : State × List (Nat × Trap)) (i : Nat) :
    State × List (Nat × Trap) :=
  match acc.1.view? w g i with
  | none => acc
  | some v =>
    match f.check v with
    | .error x => (acc.1, acc.2 ++ [(i, x)])
    | .ok () =>
      let m := v.read b
      if maskBad m i v.grp.threads.length then (acc.1, acc.2 ++ [(i, maskTrap m)])
      else if !((maskMembers m).all fun j => ((v.grp.threads[j]?).map Thread.isLive).getD false) then
        (acc.1, acc.2 ++ [(i, trap .collectiveMismatch (v.t.pc.setWidth 64))])
      else
        let push := f.rule ≠ .absent && decide (dstOf f.dst = .push)
        let t := if push then v.t.reserve else v.t
        let s := acc.1.setThread ⟨w, g, i⟩ { t with wait := wait v m push }
        let (s, hits) := s.dispute w g (v.grp.disputed i v.t.pc m)
        match s.grp? w g with
        | none => (s, acc.2 ++ hits)
        | some gr =>
          let hits : List (Nat × Trap) := if hits.isEmpty && gr.deadlocked i then
            [(i, trap .collectiveMismatch (v.t.pc.setWidth 64))] else hits
          let faulty := acc.2 ++ hits
          if (maskMembers m).all fun j =>
              ((gr.threads[j]?).map fun x => x.standsAt v.t.pc m).getD false && !(faulty.any fun h => h.1 == j) then
            (finish s w g (maskMembers m), faulty)
          else (s, faulty)

/-- An instruction that is a rendezvous under R118. -/
def State.rendezvous (s : State) (f : Form) (b : BitVec 7) (wait : View → Reg → Bool → Wait)
    (finish : State → Nat → Nat → List Nat → State) : Out :=
  match s.cur with
  | none => .refused .noThread
  | some u =>
    let r := u.gtids.foldl (State.meet f b wait finish u.wg u.grp) (s, [])
    .next (r.1.takeByPc u.wg u.grp r.2)

/-- Delivers a result to a thread that waited: to the slot it reserved or to its named register, with variable latency;
the thread proceeds. -/
def Thread.receive (t : Thread) (d : BitVec 7) (v : Reg) : Thread :=
  let t := match dstOf d with
    | .named n => t.writeLate (.named n) v
    | .push => t.writeLate (.slot t.qseq) v
    | _ => t
  t.step

/-! ### Results (R121, R122) -/

/-- A member of a formed rendezvous: its position, its data operand and its fourth operand. -/
structure Member where
  pos : Nat
  data : Reg
  fourth : Reg
  deriving DecidableEq, Repr

/-- The member a thread is. -/
def memberOf (gr : Group) (i : Nat) : Option Member :=
  match (gr.threads[i]?).map Thread.wait with
  | some (.lane _ d c _) => some { pos := i % 32, data := d, fourth := c }
  | _ => none

/-- A word with a bit per member that satisfies a test. -/
def memberBits (ms : List Member) (p : Member → Bool) : Reg :=
  (ms.filter p).foldl (init := 0) fun r m => r ||| (1 <<< m.pos)

/-- The value a shuffle takes from a position (R121): the thread's own when no member stands there. -/
def shuffled (ms : List Member) (me : Member) (pos : Int) : Reg :=
  match ms.find? fun m => (m.pos : Int) = pos with
  | some m => m.data
  | none => me.data

/-- A reduction over the members' low 32 bits. -/
def reduce32 (f : BitVec 32 → BitVec 32 → BitVec 32) (ms : List Member) (_ : Member) : Reg :=
  match ms with
  | [] => 0
  | m :: t => (t.foldl (init := m.data.setWidth 32) fun r x => f r (x.data.setWidth 32)).setWidth 64

/-- Completes a lane collective: each member receives its result; with a scalar destination the group must have at most
32 threads, the mask must name every live thread, and the result is written once (R123). The lanes that the
mask names fuse (R11). -/
def State.finishLane (d : BitVec 7) (op : List Member → Member → Reg) (s : State) (w g : Nat) (is : List Nat) : State :=
  match s.grp? w g with
  | none => s
  | some gr =>
    let ms := is.filterMap (memberOf gr)
    if isScalarDst d then
      if gr.threads.length > 32 || !(gr.liveGtids.all is.contains) then
        let m := ((is.head?.bind fun i => gr.threads[i]?).bind fun t => t.wait.mask?).getD 0
        s.takeFault (.ofGroup w g (is.map fun i => (i, maskTrap m)))
      else
        let s := match ms with
          | [] => s
          | m :: _ => s.writeScalarDst w g d (op ms m)
        let s := s.modGrp w g (Group.fuse · is)
        is.foldl (init := s) fun s i => s.modThread ⟨w, g, i⟩ Thread.step
    else
      is.foldl (init := s.modGrp w g (Group.fuse · is)) fun s i =>
        match memberOf gr i with
        | none => s
        | some m => s.modThread ⟨w, g, i⟩ fun t => t.receive d (op ms m)

/-- A lane collective (R121). -/
def State.laneOp (s : State) (f : Form) (a b : BitVec 7) (op : List Member → Member → Reg) : Out :=
  s.rendezvous f b (fun v m r => .lane m (v.read a) v.fourth r) (State.finishLane f.dst op)

/-- `BALLOT` (R121). -/
def execBallot (d a b : BitVec 7) (s : State) : Out :=
  s.laneOp (collectiveForm d a b true) a b fun ms _ => memberBits ms fun m => m.data ≠ 0

/-- `VOTE_ANY` (R121). -/
def execVoteAny (d a b : BitVec 7) (s : State) : Out :=
  s.laneOp (collectiveForm d a b true) a b fun ms _ => bit (ms.any fun m => m.data ≠ 0)

/-- `VOTE_ALL` (R121). -/
def execVoteAll (d a b : BitVec 7) (s : State) : Out :=
  s.laneOp (collectiveForm d a b true) a b fun ms _ => bit (ms.all fun m => m.data ≠ 0)

/-- `VOTE_EQ` (R121). -/
def execVoteEq (d a b : BitVec 7) (s : State) : Out :=
  s.laneOp (collectiveForm d a b true) a b fun ms me => bit (ms.all fun m => m.data == me.data)

/-- `MATCH_32` (R122). -/
def execMatch32 (d a b : BitVec 7) (s : State) : Out :=
  s.laneOp (collectiveForm d a b false) a b fun ms me =>
    memberBits ms fun m => m.data.setWidth 32 == me.data.setWidth 32

/-- `MATCH_64` (R122). -/
def execMatch64 (d a b : BitVec 7) (s : State) : Out :=
  s.laneOp (collectiveForm d a b false) a b fun ms me => memberBits ms fun m => m.data == me.data

/-- `SHFL_IDX` (R121). -/
def execShflIdx (d a b : BitVec 7) (s : State) : Out :=
  s.laneOp (shuffleForm d a b) a b fun ms me => shuffled ms me me.fourth.toNat

/-- `SHFL_UP` (R121). -/
def execShflUp (d a b : BitVec 7) (s : State) : Out :=
  s.laneOp (shuffleForm d a b) a b fun ms me => shuffled ms me ((me.pos : Int) - me.fourth.toNat)

/-- `SHFL_DN` (R121). -/
def execShflDn (d a b : BitVec 7) (s : State) : Out :=
  s.laneOp (shuffleForm d a b) a b fun ms me => shuffled ms me ((me.pos : Int) + me.fourth.toNat)

/-- `SHFL_XOR` (R121). -/
def execShflXor (d a b : BitVec 7) (s : State) : Out :=
  s.laneOp (shuffleForm d a b) a b fun ms me => shuffled ms me (BitVec.ofNat 64 me.pos ^^^ me.fourth).toNat

/-- `REDUX_ADD_32` (R121). -/
def execReduxAdd32 (d a b : BitVec 7) (s : State) : Out := s.laneOp (collectiveForm d a b true) a b (reduce32 (· + ·))

/-- `REDUX_MIN_I32` (R121). -/
def execReduxMinI32 (d a b : BitVec 7) (s : State) : Out := s.laneOp (collectiveForm d a b true) a b (reduce32 minSigned)

/-- `REDUX_MIN_N32` (R121). -/
def execReduxMinN32 (d a b : BitVec 7) (s : State) : Out := s.laneOp (collectiveForm d a b true) a b (reduce32 minNatural)

/-- `REDUX_MAX_I32` (R121). -/
def execReduxMaxI32 (d a b : BitVec 7) (s : State) : Out := s.laneOp (collectiveForm d a b true) a b (reduce32 maxSigned)

/-- `REDUX_MAX_N32` (R121). -/
def execReduxMaxN32 (d a b : BitVec 7) (s : State) : Out := s.laneOp (collectiveForm d a b true) a b (reduce32 maxNatural)

/-- `REDUX_AND` (R121). -/
def execReduxAnd (d a b : BitVec 7) (s : State) : Out := s.laneOp (collectiveForm d a b true) a b (reduce32 (· &&& ·))

/-- `REDUX_OR` (R121). -/
def execReduxOr (d a b : BitVec 7) (s : State) : Out := s.laneOp (collectiveForm d a b true) a b (reduce32 (· ||| ·))

/-- `REDUX_XOR` (R121). -/
def execReduxXor (d a b : BitVec 7) (s : State) : Out := s.laneOp (collectiveForm d a b true) a b (reduce32 (· ^^^ ·))

/-- `REDUX_ADD_64` (R121). -/
def execReduxAdd64 (d a b : BitVec 7) (s : State) : Out :=
  s.laneOp (collectiveForm d a b true) a b fun ms _ => ms.foldl (init := 0) fun r m => r + m.data

end Sys2Proof.Machine
end

