-- ==== Sys2Proof/Machine/Float.lean ====
section
/-! DEFINITION. Majors 0x14, 0x15 and 0x0B's `fcmp`: FP32 arithmetic (R126 to R128), compares (R131), packed and dot
instructions (R132 to R134). -/

namespace Sys2Proof.Machine

open Sys2Proof

/-! ### Computing lanes -/

/-- A lane's answer: the flags raised, the generator kept. -/
def flagged (t : Thread) (r : Nat × FlagSet) : Except Trap (Thread × Reg) := .ok (t.raise r.2, BitVec.ofNat 64 r.1)

/-- An FP32 operand of a lane (R124), under FTZ. -/
def View.f32 (v : View) (c : BitVec 7) : FVal := fp32.operand v.t.ftz (v.read c).toNat

/-- Rounds an exact value with its flags to a format under the lane's mode. -/
def Thread.roundTo (t : Thread) (f : Fmt) (x : FVal × FlagSet) : Nat × FlagSet :=
  let (code, fl) := f.write t.rounding t.ftz x.1
  (code, x.2 ||| fl)

/-- `FADD` (R126). -/
def execFadd (d a b : BitVec 7) (s : State) : Out :=
  s.vector (floatForm d [a, b] useMRQ) (some 8) fun v =>
    flagged v.t (v.t.roundTo fp32 ((v.f32 a).add v.t.rounding (v.f32 b)))

/-- `FSUB` (R126). -/
def execFsub (d a b : BitVec 7) (s : State) : Out :=
  s.vector (floatForm d [a, b] useMRQ) (some 8) fun v =>
    flagged v.t (v.t.roundTo fp32 ((v.f32 a).add v.t.rounding (v.f32 b).neg))

/-- `FMUL` (R126). -/
def execFmul (d a b : BitVec 7) (s : State) : Out :=
  s.vector (floatForm d [a, b] useMRQ) (some 8) fun v =>
    flagged v.t (v.t.roundTo fp32 ((v.f32 a).mul (v.f32 b)))

/-- `FFMA` (R126). -/
def execFfma (d a b : BitVec 7) (s : State) : Out :=
  s.vector (floatForm d [a, b] useMRCQ) (some 8) fun v =>
    flagged v.t (v.t.roundTo fp32 ((v.f32 a).fma v.t.rounding (v.f32 b) (fp32.operand v.t.ftz v.fourth.toNat)))

/-! ### Minimum and maximum (R127) -/

/-- An operand copied exactly; under FTZ a subnormal is the zero of its sign. -/
def copyFlushed (ftz : Bool) (c : Nat) : Nat :=
  let c := c % 2 ^ 32
  if ftz && c / 2 ^ 23 % 256 = 0 then c / 2 ^ 31 * 2 ^ 31 else c

/-- One of the four forms of R127 on two FP32 codes. -/
def minmax32 (max num ftz : Bool) (x y : Nat) : Nat × FlagSet :=
  match fminmax max num (fp32.operand ftz x) (fp32.operand ftz y) with
  | (none, f) => (fp32.nan, f)
  | (some true, f) => (copyFlushed ftz y, f)
  | (some false, f) => (copyFlushed ftz x, f)

/-- `FMIN` (R127). -/
def execFmin (d a b : BitVec 7) (s : State) : Out :=
  s.vector (floatForm d [a, b] useMQ) (some 8) fun v =>
    flagged v.t (minmax32 false false v.t.ftz (v.read a).toNat (v.read b).toNat)

/-- `FMAX` (R127). -/
def execFmax (d a b : BitVec 7) (s : State) : Out :=
  s.vector (floatForm d [a, b] useMQ) (some 8) fun v =>
    flagged v.t (minmax32 true false v.t.ftz (v.read a).toNat (v.read b).toNat)

/-- `FMINN` (R127). -/
def execFminn (d a b : BitVec 7) (s : State) : Out :=
  s.vector (floatForm d [a, b] useMQ) (some 8) fun v =>
    flagged v.t (minmax32 false true v.t.ftz (v.read a).toNat (v.read b).toNat)

/-- `FMAXN` (R127). -/
def execFmaxn (d a b : BitVec 7) (s : State) : Out :=
  s.vector (floatForm d [a, b] useMQ) (some 8) fun v =>
    flagged v.t (minmax32 true true v.t.ftz (v.read a).toNat (v.read b).toNat)

/-! ### Bit operations and class (R128) -/

/-- `FABS` (R128): the sign bit cleared. -/
def execFabs (d a : BitVec 7) (s : State) : Out :=
  s.vector (floatForm d [a] useMQ) (some 8) fun v => .ok (v.t, v.read a &&& 0x7FFFFFFF)

/-- `FNEG` (R128): the sign bit inverted. -/
def execFneg (d a : BitVec 7) (s : State) : Out :=
  s.vector (floatForm d [a] useMQ) (some 8) fun v => .ok (v.t, (v.read a &&& 0xFFFFFFFF) ^^^ 0x80000000)

/-- The class bit of an FP32 code (R128). -/
def classOf (c : BitVec 32) : Nat :=
  let neg := c.getLsbD 31
  let e := (bf c 23 8).toNat
  let f := (bf c 0 23).toNat
  if e = 255 then (if f = 0 then (if neg then 0 else 7) else if c.getLsbD 22 then 9 else 8)
  else if e = 0 then (if f = 0 then (if neg then 3 else 4) else if neg then 2 else 5)
  else if neg then 1 else 6

/-- `FCLASS` (R128). -/
def execFclass (d a : BitVec 7) (s : State) : Out :=
  s.vector (floatForm d [a] useMQ) (some 8) fun v => .ok (v.t, 1 <<< classOf ((v.read a).setWidth 32))

/-! ### Compare (R131) -/

/-- The truth of a condition on two values, and the flags. -/
def floatCond (c : BitVec 4) (x y : FVal) : Bool × FlagSet :=
  let snan : FlagSet := if x.isSnan || y.isSnan then flagNV else 0
  if x.isNan || y.isNan then
    (c = 1 || c = 6, if 2 ≤ c.toNat && c.toNat ≤ 5 then flagNV else snan)
  else (c = 7 || condHolds c (x.cmp y), 0)

/-- `FCMP` (R131). -/
def execFcmp (p c : BitVec 4) (a b : BitVec 7) (t : BitVec 4) (s : State) : Out :=
  s.perLane (cmpForm p a b (fcmpOk c t)) (predLane p 4 fun v =>
    let f := (fmtOfType t.toNat).getD fp32
    let r := floatCond c (f.operand v.t.ftz (v.read a).toNat) (f.operand v.t.ftz (v.read b).toNat)
    (v.t.raise r.2, r.1))

/-! ### Packed pairs (R132) -/

/-- Element `i` of `w` bits (R42). -/
def elemOf (r : Reg) (i w : Nat) : Nat := r.toNat / 2 ^ (i * w) % 2 ^ w

/-- Two results packed as halves, the flags joined. -/
def pack2 (f : Nat → Nat × FlagSet) : Nat × FlagSet := ((f 0).1 + 65536 * (f 1).1, (f 0).2 ||| (f 1).2)

/-- An element of a lane's packed operand, as a value of a 16-bit format. -/
def View.half (v : View) (f : Fmt) (r : Reg) (j : Nat) : FVal := f.operand v.t.ftz (elemOf r j 16)

/-- A packed operation: each element computed on its own. -/
def packedOp (f : Fmt) (a b : BitVec 7) (op : Rnd → FVal → FVal → FVal → FVal × FlagSet) : Compute := fun v =>
  flagged v.t (pack2 fun j =>
    v.t.roundTo f (op v.t.rounding (v.half f (v.read a) j) (v.half f (v.read b) j) (v.half f v.fourth j)))

/-- `HADD2_F16` (R132). -/
def execHadd2F16 (d a b : BitVec 7) (s : State) : Out :=
  s.vector (floatForm d [a, b] useMRQ) (some 8) (packedOp fp16 a b fun m x y _ => x.add m y)

/-- `HMUL2_F16` (R132). -/
def execHmul2F16 (d a b : BitVec 7) (s : State) : Out :=
  s.vector (floatForm d [a, b] useMRQ) (some 8) (packedOp fp16 a b fun _ x y _ => x.mul y)

/-- `HFMA2_F16` (R132). -/
def execHfma2F16 (d a b : BitVec 7) (s : State) : Out :=
  s.vector (floatForm d [a, b] useMRCQ) (some 8) (packedOp fp16 a b fun m x y z => x.fma m y z)

/-- `HADD2_BF16` (R132). -/
def execHadd2Bf16 (d a b : BitVec 7) (s : State) : Out :=
  s.vector (floatForm d [a, b] useMRQ) (some 8) (packedOp bf16 a b fun m x y _ => x.add m y)

/-- `HMUL2_BF16` (R132). -/
def execHmul2Bf16 (d a b : BitVec 7) (s : State) : Out :=
  s.vector (floatForm d [a, b] useMRQ) (some 8) (packedOp bf16 a b fun _ x y _ => x.mul y)

/-- `HFMA2_BF16` (R132). -/
def execHfma2Bf16 (d a b : BitVec 7) (s : State) : Out :=
  s.vector (floatForm d [a, b] useMRCQ) (some 8) (packedOp bf16 a b fun m x y z => x.fma m y z)

/-! ### Dots (R133) -/

/-- A dot of `k` elements of `w` bits accumulated onto the fourth operand with one rounding. -/
def dotOp (f : Fmt) (k w : Nat) (a b : BitVec 7) : Compute := fun v =>
  let ps := (List.range k).map fun j =>
    (f.operand v.t.ftz (elemOf (v.read a) j w), f.operand v.t.ftz (elemOf (v.read b) j w))
  flagged v.t (accumulate v.t.rounding v.t.ftz (fp32.operand v.t.ftz v.fourth.toNat) (blockSum ps))

/-- `FDOT2_F16` (R133). -/
def execFdot2F16 (d a b : BitVec 7) (s : State) : Out :=
  s.vector (floatForm d [a, b] useMRCQ) (some 8) (dotOp fp16 2 16 a b)

/-- `FDOT2_BF16` (R133). -/
def execFdot2Bf16 (d a b : BitVec 7) (s : State) : Out :=
  s.vector (floatForm d [a, b] useMRCQ) (some 8) (dotOp bf16 2 16 a b)

/-- `F8DOT4_E4M3` (R133). -/
def execF8dot4E4m3 (d a b : BitVec 7) (s : State) : Out :=
  s.vector (floatForm d [a, b] useMRCQ) (some 8) (dotOp e4m3 4 8 a b)

/-- `F8DOT4_E5M2` (R133). -/
def execF8dot4E5m2 (d a b : BitVec 7) (s : State) : Out :=
  s.vector (floatForm d [a, b] useMRCQ) (some 8) (dotOp e5m2 4 8 a b)

/-! ### Packing (R134) -/

/-- Rounds FP32 inputs to a format and packs them, element 0 lowest. -/
def packOp (f : Fmt) (xs : View → List Nat) : Compute := fun v =>
  let rs := (xs v).map fun x => v.t.roundTo f (fp32.operand v.t.ftz x, 0)
  flagged v.t (rs.foldr (init := (0, 0)) fun r acc => (r.1 + 2 ^ f.width * acc.1, r.2 ||| acc.2))

/-- The inputs of the 16-bit forms. -/
def packPair (a b : BitVec 7) (v : View) : List Nat := [elemOf (v.read a) 0 32, elemOf (v.read b) 0 32]

/-- The inputs of the 8-bit forms. -/
def packQuad (a b : BitVec 7) (v : View) : List Nat :=
  [elemOf (v.read a) 0 32, elemOf (v.read a) 1 32, elemOf (v.read b) 0 32, elemOf (v.read b) 1 32]

/-- `FPACK_F16` (R134). -/
def execFpackF16 (d a b : BitVec 7) (s : State) : Out :=
  s.vector (floatForm d [a, b] useMRQ) (some 8) (packOp fp16 (packPair a b))

/-- `FPACK_BF16` (R134). -/
def execFpackBf16 (d a b : BitVec 7) (s : State) : Out :=
  s.vector (floatForm d [a, b] useMRQ) (some 8) (packOp bf16 (packPair a b))

/-- `FPACK_E4M3` (R134). -/
def execFpackE4m3 (d a b : BitVec 7) (s : State) : Out :=
  s.vector (floatForm d [a, b] useMRQ) (some 8) (packOp e4m3 (packQuad a b))

/-- `FPACK_E5M2` (R134). -/
def execFpackE5m2 (d a b : BitVec 7) (s : State) : Out :=
  s.vector (floatForm d [a, b] useMRQ) (some 8) (packOp e5m2 (packQuad a b))

end Sys2Proof.Machine
end

