-- ==== Sys2Proof/Machine/Special.lean ====
section
/-! DEFINITION. The special functions of major 0x14: reciprocal and roots, correctly rounded (R129), and the 28-bit rule
of `fexp2`, `flog2`, `fsin` and `fcos` (R130). The four are evaluated in fixed point with far more bits than the rule
truncates to (DEDUCED: notes/assumptions/12). -/

namespace Sys2Proof.Machine

open Sys2Proof

/-! ### Correctly rounded functions (R129) -/

/-- The integer square root, a bit at a time from bit `k` down. -/
def isqrt (n : Nat) : Nat → Nat → Nat
  | 0, r => if (r + 1) * (r + 1) ≤ n then r + 1 else r
  | k + 1, r => isqrt n k (if (r + 2 ^ (k + 1)) * (r + 2 ^ (k + 1)) ≤ n then r + 2 ^ (k + 1) else r)

/-- The FP32 code of an infinity. -/
def inf32 (neg : Bool) : Nat := fp32.signed neg 0x7F800000

/-- `frcp` of a value. -/
def rcp32 (mode : Rnd) (ftz : Bool) (x : FVal) : Nat × FlagSet :=
  match x with
  | .nan q => (fp32.nan, if q then flagNV else 0)
  | .inf n => (fp32.signed n 0, 0)
  | .fin n m e =>
    if m = 0 then (inf32 n, flagDZ)
    else fp32.round mode ftz n (2 ^ 80 / m) (-80 - e) (2 ^ 80 % m ≠ 0)

/-- A positive value as m × 2^e with e even. -/
def evenExp (m : Nat) (e : Int) : Nat × Int := if e % 2 = 0 then (m, e) else (2 * m, e - 1)

/-- `fsqrt` of a value. -/
def sqrt32 (mode : Rnd) (ftz : Bool) (x : FVal) : Nat × FlagSet :=
  match x with
  | .nan q => (fp32.nan, if q then flagNV else 0)
  | .inf n => if n then (fp32.nan, flagNV) else (inf32 false, 0)
  | .fin n m e =>
    if m = 0 then (fp32.signed n 0, 0)
    else if n then (fp32.nan, flagNV)
    else
      let (m, e) := evenExp m e
      let k := m * 2 ^ 80
      let r := isqrt k 60 0
      fp32.round mode ftz false r (e / 2 - 40) (r * r ≠ k)

/-- `frsq` of a value. -/
def rsq32 (mode : Rnd) (ftz : Bool) (x : FVal) : Nat × FlagSet :=
  match x with
  | .nan q => (fp32.nan, if q then flagNV else 0)
  | .inf n => if n then (fp32.nan, flagNV) else (0, 0)
  | .fin n m e =>
    if m = 0 then (inf32 n, flagDZ)
    else if n then (fp32.nan, flagNV)
    else
      let (m, e) := evenExp m e
      let r := isqrt (2 ^ 160 / m) 82 0
      fp32.round mode ftz false r (-80 - e / 2) (r * r * m ≠ 2 ^ 160)

/-- `FRCP` (R129). -/
def execFrcp (d a : BitVec 7) (s : State) : Out :=
  s.vector (floatForm d [a] useMRQ) none fun v => flagged v.t (rcp32 v.t.rounding v.t.ftz (v.f32 a))

/-- `FRSQ` (R129). -/
def execFrsq (d a : BitVec 7) (s : State) : Out :=
  s.vector (floatForm d [a] useMRQ) none fun v => flagged v.t (rsq32 v.t.rounding v.t.ftz (v.f32 a))

/-- `FSQRT` (R129). -/
def execFsqrt (d a : BitVec 7) (s : State) : Out :=
  s.vector (floatForm d [a] useMRQ) none fun v => flagged v.t (sqrt32 v.t.rounding v.t.ftz (v.f32 a))

/-! ### Fixed point: multiples of 2^−fixBits -/

/-- The fraction bits of the fixed-point evaluation. -/
def fixBits : Nat := 336

/-- One in fixed point. -/
def fixOne : Nat := 2 ^ fixBits

/-- The odd powers' series x − x³/3 + x⁵/5 … or x + x³/3 + …, of 1/n. -/
def atanSeries (alternate : Bool) (sq : Nat) : Nat → Nat → Nat → Nat
  | 0, _, _ => 0
  | k + 1, p, j =>
    let rest := atanSeries alternate sq k (p / sq) (j + 2)
    if alternate then p / j - rest else p / j + rest

/-- The natural logarithm of 2: 2 artanh (1/3). -/
def fixLn2 : Nat := 2 * atanSeries false 9 120 (fixOne / 3) 1

/-- π by Machin's formula: 16 arctan (1/5) − 4 arctan (1/239). -/
def fixPi : Nat := 16 * atanSeries true 25 90 (fixOne / 5) 1 - 4 * atanSeries true 57121 40 (fixOne / 239) 1

/-- The series of exp: 1 + x/j + x²/(j(j+1)) + …, in Horner's order from term `k` down. -/
def expSeries (x : Nat) : Nat → Nat → Nat
  | 0, _ => fixOne
  | k + 1, j => fixOne + x * expSeries x k (j + 1) / fixOne / j

/-- The series of sin x / x in Horner's order: 1 − x²/((j)(j+1)) × (1 − …). -/
def sinSeries (sq : Nat) : Nat → Nat → Nat
  | 0, _ => fixOne
  | k + 1, j => fixOne - sq * sinSeries sq k (j + 2) / fixOne / (j * (j + 1))

/-- sin of a fixed-point angle of at most π/2. -/
def fixSin (x : Nat) : Nat := x * sinSeries (x * x / fixOne) 45 2 / fixOne

/-- artanh z = z + z³/3 + …, with z at most 1/3. -/
def artanhSeries (z sq : Nat) : Nat → Nat → Nat
  | 0, _ => 0
  | k + 1, j => z / j + artanhSeries (z * sq / fixOne) sq k (j + 2)

/-- Rounds the magnitude of an irrational value under the 28-bit rule: it is cut to 28 significant bits, then rounded to
FP32 by RNE. NX is always raised, and UF when the result is tiny. -/
def cut28 (ftz neg : Bool) (m : Nat) (e : Int) : Nat × FlagSet :=
  let k := Nat.log2 m - 27
  let (code, fl) := fp32.round .rne ftz neg (m / 2 ^ k) (e + k) false
  let mag := code % 2 ^ 31
  (code, fl ||| flagNX ||| (if 0 < mag ∧ mag < 2 ^ 23 then flagUF else 0))

/-- `fexp2` of a value (R130). -/
def exp2Value (ftz : Bool) (x : FVal) : Nat × FlagSet :=
  match x with
  | .nan q => (fp32.nan, if q then flagNV else 0)
  | .inf n => if n then (0, 0) else (inf32 false, 0)
  | .fin n m e =>
    let big := m ≠ 0 && (Nat.log2 m : Int) + e ≥ 8
    if big && !n then (inf32 false, flagOF ||| flagNX)
    else if big then fp32.round .rne ftz false 1 (-300) false
    else
      -- x in fixed point: a multiple of 2^−149 loses nothing
      let f : Nat := m * fixOne / 2 ^ (-e).toNat * 2 ^ e.toNat
      let whole : Int := if n then -((f + fixOne - 1) / fixOne : Nat) else (f / fixOne : Nat)
      let part : Nat := if n then (-whole).toNat * fixOne - f else f % fixOne
      if part = 0 then
        if whole ≥ 128 then (inf32 false, flagOF ||| flagNX) else fp32.round .rne ftz false 1 whole false
      else cut28 ftz false (expSeries (part * fixLn2 / fixOne) 90 1) (whole - fixBits)

/-- `flog2` of a value (R130). -/
def log2Value (ftz : Bool) (x : FVal) : Nat × FlagSet :=
  match x with
  | .nan q => (fp32.nan, if q then flagNV else 0)
  | .inf n => if n then (fp32.nan, flagNV) else (inf32 false, 0)
  | .fin n m e =>
    if m = 0 then (inf32 true, flagDZ)
    else if n then (fp32.nan, flagNV)
    else
      let top := Nat.log2 m
      let ex : Int := e + top
      if m = 2 ^ top then fp32.round .rne ftz (ex < 0) ex.natAbs 0 false
      else
        let g := (m - 2 ^ top) * fixOne / 2 ^ top
        let z := g * fixOne / (2 * fixOne + g)
        let l := 2 * artanhSeries z (z * z / fixOne) 110 1 * fixOne / fixLn2
        let r : Int := ex * fixOne + l
        cut28 ftz (r < 0) r.natAbs (-fixBits)

/-- The argument of `fsin` and `fcos` modulo 2, in fixed point. -/
def halfTurns (m : Nat) (e : Int) : Nat :=
  (if e ≥ 0 then m * 2 ^ (min e.toNat 400) * fixOne else m * fixOne / 2 ^ (-e).toNat) % (2 * fixOne)

/-- sin (π y) or its negation for y of 0 to 2 half-turns: the sign and the angle folded to at most a quarter turn. -/
def foldTurn (y : Nat) : Bool × Nat :=
  let neg := y ≥ fixOne
  let y := y % fixOne
  (neg, if 2 * y > fixOne then fixOne - y else y)

/-- ± sin (π y) of a folded angle (R130). -/
def sinFolded (ftz neg : Bool) (y : Nat) : Nat × FlagSet :=
  if 2 * y = fixOne then fp32.round .rne ftz neg 1 0 false
  else cut28 ftz neg (fixSin (fixPi * y / fixOne)) (-fixBits)

/-- `fsin` of a value (R130). -/
def sinValue (ftz : Bool) (x : FVal) : Nat × FlagSet :=
  match x with
  | .nan q => (fp32.nan, if q then flagNV else 0)
  | .inf _ => (fp32.nan, flagNV)
  | .fin n m e =>
    let (neg, y) := foldTurn (halfTurns m e)
    if y = 0 then (fp32.signed n 0, 0) else sinFolded ftz (n != neg) y

/-- `fcos` of a value (R130): cos (π x) = sin (π (x + 1/2)). -/
def cosValue (ftz : Bool) (x : FVal) : Nat × FlagSet :=
  match x with
  | .nan q => (fp32.nan, if q then flagNV else 0)
  | .inf _ => (fp32.nan, flagNV)
  | .fin _ m e =>
    let (neg, y) := foldTurn ((halfTurns m e + fixOne / 2) % (2 * fixOne))
    if y = 0 then (0, 0) else sinFolded ftz neg y

/-- `FEXP2` (R130). -/
def execFexp2 (d a : BitVec 7) (s : State) : Out :=
  s.vector (floatForm d [a] useMQ) none fun v => flagged v.t (exp2Value v.t.ftz (v.f32 a))

/-- `FLOG2` (R130). -/
def execFlog2 (d a : BitVec 7) (s : State) : Out :=
  s.vector (floatForm d [a] useMQ) none fun v => flagged v.t (log2Value v.t.ftz (v.f32 a))

/-- `FSIN` (R130). -/
def execFsin (d a : BitVec 7) (s : State) : Out :=
  s.vector (floatForm d [a] useMQ) none fun v => flagged v.t (sinValue v.t.ftz (v.f32 a))

/-- `FCOS` (R130). -/
def execFcos (d a : BitVec 7) (s : State) : Out :=
  s.vector (floatForm d [a] useMQ) none fun v => flagged v.t (cosValue v.t.ftz (v.f32 a))

end Sys2Proof.Machine
end

