-- ==== Sys2Proof/Machine/Convert.lean ====
section
/-! DEFINITION. Major 0x16: rounding to integral values, and conversions between float, integer and Denusk types (R135 to
R138). -/

namespace Sys2Proof.Machine

open Sys2Proof

/-- How a conversion rounds: under a mode, or stochastically (RC 6). -/
def Thread.convRnd (t : Thread) (rc : BitVec 3) : Option Rnd :=
  match rc.toNat with
  | 0 => some t.rounding
  | 6 => none
  | n => some (Rnd.ofCode (n - 1))

/-- A draw of the thread's generator (R57). -/
def Thread.drawSrg (t : Thread) : Thread × BitVec 32 :=
  let x := srgNext t.srg
  ({ t with srg := x }, x)

/-- The latency of a conversion (R83, R136): fixed, but for Denusk types and RC 6. -/
def convLat (s t : BitVec 4) (rc : BitVec 3) : Option Nat :=
  if rc = 6 || isDenuskType s || isDenuskType t then none else some 8

/-- The value an FP type's operand holds in a register; FTZ reaches FP32, FP16 and BF16 (R49, R59). -/
def Thread.floatIn (t : Thread) (ty : BitVec 4) (r : Reg) : FVal :=
  ((fmtOfType ty.toNat).getD fp32).operand t.ftz r.toNat

/-- Rounds a value to a format, with a draw under RC 6 (R58); the result of widening a narrow value is not flushed
(R59). -/
def Thread.convTo (t : Thread) (f : Fmt) (rc : BitVec 3) (ftz : Bool) (v : FVal) : Thread × (Nat × FlagSet) :=
  match t.convRnd rc with
  | some mode => (t, f.write mode ftz v)
  | none =>
    let (t, d) := t.drawSrg
    (t, match v with
      | .fin n m e => f.roundSr ftz d n m e
      | _ => f.write .rz ftz v)

/-! ### `frnd` (R136) -/

/-- A value rounded to an integral one in its format. -/
def integral (f : Fmt) (mode : Rnd) (v : FVal) : Nat × FlagSet :=
  match v with
  | .nan q => (f.nan, if q then flagNV else 0)
  | .inf n => ((f.write mode false (.inf n)).1, 0)
  | .fin n m e => ((f.round .rz false n (if m = 0 then 0 else (roundInt mode n m e).1) 0 false).1, 0)

/-- `FRND` (R136). -/
def execFrnd (d a : BitVec 7) (ts td : BitVec 4) (rc : BitVec 3) (s : State) : Out :=
  s.vector (cvtForm d a rc (frndOk ts td rc)) (some 8) fun v =>
    let f := (fmtOfType ts.toNat).getD fp32
    flagged v.t (integral f ((v.t.convRnd rc).getD .rne) (v.t.floatIn ts (v.read a)))

/-! ### Float and integer (R59, R136) -/

/-- Saturates a rounded magnitude to an integer type; out of range raises NV and not NX. -/
def toIntType (ty : BitVec 4) (neg : Bool) (r : Nat × Bool) : Nat × FlagSet :=
  let n : Int := if neg then -(r.1 : Int) else r.1
  let (c, bad) := saturate ty.toNat n
  (c, if bad then flagNV else if r.2 then flagNX else 0)

/-- A float converted to an integer type. -/
def Thread.toInteger (t : Thread) (ty : BitVec 4) (rc : BitVec 3) (v : FVal) : Thread × (Nat × FlagSet) :=
  let (w, sg) := intType ty.toNat
  let extreme (neg : Bool) : Nat :=
    if neg then (if sg then 2 ^ (w - 1) else 0) else (if sg then 2 ^ (w - 1) - 1 else 2 ^ w - 1)
  let (t, draw) := if rc = 6 then t.drawSrg else (t, 0)
  (t, match v with
    | .nan _ => (0, flagNV)
    | .inf n => (extreme n, flagNV)
    | .fin n m e =>
      toIntType ty n (match t.convRnd rc with
        | some mode => roundInt mode n m e
        | none => roundIntSr draw m e))

/-- `FCVTI` (R136). -/
def execFcvti (d a : BitVec 7) (ts td : BitVec 4) (rc : BitVec 3) (s : State) : Out :=
  s.vector (cvtForm d a rc (fcvtiOk ts td rc)) (convLat ts td rc) fun v =>
    let (t, r) := v.t.toInteger td rc (v.t.floatIn ts (v.read a))
    flagged t r

/-- `ICVTF` (R136). -/
def execIcvtf (d a : BitVec 7) (ts td : BitVec 4) (rc : BitVec 3) (s : State) : Out :=
  s.vector (cvtForm d a rc (icvtfOk ts td rc)) (convLat ts td rc) fun v =>
    let n := intOperand ts.toNat (v.read a)
    let (t, r) := v.t.convTo ((fmtOfType td.toNat).getD fp32) rc v.t.ftz (.fin (n < 0) n.natAbs 0)
    flagged t r

/-! ### Denusk encode: a rendezvous of 32 threads (R138) -/

/-- What a thread supplies to the block: its operand if active. -/
def Group.denuskData (g : Group) (i : Nat) : Option Reg :=
  match (g.threads[i]?).map Thread.wait with
  | some (.denusk d true _) => some d
  | _ => none

/-- A member of the block as the encode finds it: its GTID, its generator after its draw, its value and its rounding. -/
structure DenuskInput where
  gtid : Option Nat
  srg : BitVec 32
  val : FVal
  rnd : ElemRnd

/-- The block's 32 inputs; an element that no active member supplies is padding. -/
def Group.denuskInputs (g : Group) (ts : BitVec 4) (rc : BitVec 3) (block : Nat) : List DenuskInput :=
  (List.range 32).map fun k =>
    let i := 32 * block + k
    match g.threads[i]?, g.denuskData i with
    | some t, some d =>
      let v := t.floatIn ts d
      (match t.convRnd rc with
       | some m => { gtid := some i, srg := t.srg, val := v, rnd := .mode m }
       | none => let (t, x) := t.drawSrg; { gtid := some i, srg := t.srg, val := v, rnd := .draw x })
    | _, _ => { gtid := none, srg := 0, val := .fin false 0 0, rnd := .mode .rne }

/-- Completes a member: an active one receives header and element, an inactive one fills its destination (R25, R77). -/
def Thread.denuskDone (t : Thread) (d : BitVec 7) (r : Option (Nat × FlagSet × BitVec 32)) : Thread :=
  match t.wait with
  | .denusk kept _ _ =>
    match r with
    | some (v, fl, srg) => ({ t.raise fl with srg := srg }).receive d (BitVec.ofNat 64 v)
    | none =>
      let zero : Bool := match t.words.pre with | some p => p.pol == 1 | none => false
      (match dstOf d with
       | .named n => if zero then t.writeLate (.named n) 0 else t
       | .push => t.writeLate (.slot t.qseq) (if zero then 0 else kept)
       | _ => t).step
  | _ => t

/-- Encodes a block and completes its members. -/
def State.finishDenusk (s : State) (d : BitVec 7) (ts td : BitVec 4) (rc : BitVec 3) (w g i : Nat) : State :=
  match s.grp? w g with
  | none => s
  | some gr =>
    let ins := gr.denuskInputs ts rc (i / 32)
    let (header, codes) := denuskEncode (td == 14) (ins.map fun x => (x.val, x.rnd))
    (gr.blockMembers i).foldl (init := s) fun s j =>
      let r := match ins[j % 32]?, codes[j % 32]? with
        | some x, some (c, fl) => if x.gtid = some j then some (header * 65536 + c, fl, x.srg) else none
        | _, _ => none
      s.modThread ⟨w, g, j⟩ fun t => t.denuskDone d r

/-- One lane's arrival at a Denusk encode. Waiting members at another PC take the collective-mismatch fault. -/
def State.meetDenusk (f : Form) (a : BitVec 7) (ts td : BitVec 4) (rc : BitVec 3) (w g : Nat)
    (acc : State × List (Nat × Trap)) (i : Nat) : State × List (Nat × Trap) :=
  match acc.1.view? w g i with
  | none => acc
  | some v =>
    match f.check v with
    | .error x => (acc.1, acc.2 ++ [(i, x)])
    | .ok () =>
      let act := v.t.maskTrue v.t.words
      let merge := match v.t.words.pre with | some p => if p.cuse = 2 then v.read p.c else 0 | none => 0
      let push := decide (dstOf f.dst = .push)
      let t := if push then v.t.reserve else v.t
      let s := acc.1.setThread ⟨w, g, i⟩ { t with wait := .denusk (if act then v.read a else merge) act push }
      match s.grp? w g with
      | none => (s, acc.2)
      | some gr =>
        let others := (gr.blockMembers i).filter fun j =>
          ((gr.threads[j]?).map fun x => x.atDenusk && x.pc ≠ v.t.pc).getD false
        let hits := others.map fun j =>
          (j, trap .collectiveMismatch ((((gr.threads[j]?).map Thread.pc).getD 0).setWidth 64))
        if (gr.blockMembers i).all fun j => ((gr.threads[j]?).map fun x => x.atDenusk && x.pc == v.t.pc).getD false then
          (s.finishDenusk f.dst ts td rc w g i, acc.2)
        else (s, acc.2 ++ hits.filter fun h => !(acc.2.any fun k => k.1 == h.1))

/-- A Denusk encode. -/
def State.encodeDenusk (s : State) (d a : BitVec 7) (ts td : BitVec 4) (rc : BitVec 3) : Out :=
  match s.cur with
  | none => .refused .noThread
  | some u =>
    let r := u.gtids.foldl (State.meetDenusk (cvtForm d a rc (fcvtOk ts td rc)) a ts td rc u.wg u.grp) (s, [])
    .next (r.1.takeByPc u.wg u.grp r.2)

/-- A Denusk decode of a lane (R137): header in bits 31:16, element in the low bits. -/
def denuskLane (db4 : Bool) (r : Reg) : Nat :=
  (fp32.write .rne false (denuskDecode db4 (bf r 16 8).toNat (bf r 24 8).toNat (r.toNat % (if db4 then 16 else 256)))).1

/-- `FCVT` (R136 to R138). -/
def execFcvt (d a : BitVec 7) (ts td : BitVec 4) (rc : BitVec 3) (s : State) : Out :=
  if isDenuskType td then s.encodeDenusk d a ts td rc
  else s.vector (cvtForm d a rc (fcvtOk ts td rc)) (convLat ts td rc) fun v =>
    if isDenuskType ts then .ok (v.t, BitVec.ofNat 64 (denuskLane (ts == 14) (v.read a)))
    else
      let narrow := ts = 11 || ts = 12
      let (t, r) := v.t.convTo ((fmtOfType td.toNat).getD fp32) rc (v.t.ftz && !narrow) (v.t.floatIn ts (v.read a))
      flagged t r

end Sys2Proof.Machine
end

