-- ==== Sys2Proof/Machine/Access.lean ====
section
/-! DEFINITION. Majors 0x18 to 0x1F and 0x21: loads and stores of the memory spaces (R38, R39, R141 to R145), atomics (R147
to R149) and exchange stores (R156). -/

namespace Sys2Proof.Machine

open Sys2Proof

/-! ### Scratchpad -/

/-- The bytes of a workgroup's scratchpad window (R38). -/
def Workgroup.window (w : Workgroup) : Nat := w.spadq * Config.quire

/-- The bytes of a workgroup's exchange area (R40). -/
def Workgroup.exchange (w : Workgroup) : Nat := w.exch * Config.quire

/-- The lowest offset of a range that lies at or beyond a window's extent (R39). -/
def rangeBeyond (extent off n : Nat) : Option Nat := if n = 0 ∨ off + n ≤ extent then none else some (max off extent)

/-! ### Spaces and checks (R39, R141) -/

/-- The spaces of the SP field (R74). -/
inductive Space where
  | global | scratch | record
  deriving DecidableEq, Repr

/-- The space of an SP code. -/
def Space.ofCode (c : BitVec 2) : Space := match c.toNat with | 0 => .global | 1 => .scratch | _ => .record

/-- The bytes of an access size code (R74). -/
def sizeOf (sz : BitVec 3) : Nat := match sz.toNat % 4 with | 0 => 1 | 1 => 2 | 2 => 4 | _ => 8

/-- The checks of R141 that come before range, read-only and translation checks. -/
def addrTrap (sp : Space) (a : Reg) (n : Nat) : Option Trap :=
  if sp = .global ∧ bf a 56 8 ≠ 0 then some (trap .nonCanonical a)
  else if a.toNat % n ≠ 0 then some (trap .misalignedAddress a)
  else none

/-- The value a load writes: zero-extended, or sign-extended to 64 bits (R143). -/
def extendLoad (sz : BitVec 3) (bs : List Byte) : Reg :=
  let v := leReg bs
  match sz.toNat with
  | 4 => (v.setWidth 8).signExtend 64
  | 5 => (v.setWidth 16).signExtend 64
  | 6 => (v.setWidth 32).signExtend 64
  | _ => v

/-- The party that a thread's access acts for. -/
def View.party (v : View) : Party := { ctx := v.wg.ctx, wg := some v.wg.id }

/-- A load by a thread from a space (R39, R143). -/
def State.loadSpace (s : State) (v : View) (sp : Space) (p : Path) (a : Reg) (n : Nat) : State × Except Trap (List Byte) :=
  match addrTrap sp a n with
  | some x => (s, .error x)
  | none =>
    match sp with
    | .global => s.loadGlobal v.party p a n 0
    | .scratch =>
      if a.toNat + n ≤ v.wg.window then (s, .ok (((s.wg? v.wg.id).getD v.wg).readSpad a.toNat n))
      else (s, .error (trap .scratchpadRange a))
    | .record =>
      if a.toNat + n ≤ v.wg.per * v.wg.recSize then
        (s, .ok (((v.wg.records.take (v.wg.recCount * v.wg.recSize) ++ List.replicate (a.toNat + n) 0).drop a.toNat).take n))
      else (s, .error (trap .windowRange a))

/-- A store by a thread to a space (R39, R144). -/
def State.storeSpace (s : State) (v : View) (sp : Space) (p : Path) (a : Reg) (bs : List Byte) : State × Except Trap Unit :=
  match addrTrap sp a bs.length with
  | some x => (s, .error x)
  | none =>
    match sp with
    | .global => s.storeGlobal v.party p a bs 0
    | .scratch =>
      if a.toNat + bs.length ≤ v.wg.window then (s.writeSpad v.wg.id a.toNat bs, .ok ())
      else (s, .error (trap .scratchpadRange a))
    | .record => (s, .error (trap .readOnlySpace a))

/-! ### The modifier hint (R80, R145, R266, R276) -/

/-- The path of a plain access: SCO `.clu` or wider reads at the home; `.nl1` and NT allocate nothing; `.kl1` marks the line. -/
def pathOf (w : Words) : Path :=
  match w.modifier with
  | none => {}
  | some m => { atHome := 3 ≤ m.sco.toNat, noAlloc := m.cp = 2 || m.nt = 1, keep := m.cp = 1 }

/-! ### Loads performed ahead of program order (R255) -/

/-- The location of an access of a thread: in global memory by its physical address, or in the scratchpad window. -/
def State.location (s : State) (v : View) (sp : Space) (a : Reg) : Option (Bool × Nat) :=
  match sp with
  | .global => (s.mapped v.wg.ctx a.toNat).bind fun pa => if s.place pa = .memory then some (true, pa) else none
  | .scratch => some (false, a.toNat)
  | .record => none

/-- Whether an early read is of a location's bytes, on a path: an acquire load at a scope, or a plain one. -/
def EarlyRead.isOf (e : EarlyRead) (l : Bool × Nat) (n : Nat) (home : Bool) (acq : Option Nat) : Bool :=
  e.global == l.1 && e.addr == l.2 && e.bytes.length == n && e.home == home && e.acq.map Prod.fst == acq

/-- Whether an early read overlaps bytes. -/
def EarlyRead.overlaps (e : EarlyRead) (l : Bool × Nat) (n : Nat) : Bool :=
  e.global == l.1 && decide (e.addr < l.2 + n ∧ l.2 < e.addr + e.bytes.length)

/-- What a load of bytes at a location finds that the thread has performed ahead of its place: the oldest such read. -/
def Thread.earlyRead (t : Thread) (l : Option (Bool × Nat)) (n : Nat) (home : Bool) (acq : Option Nat) : Option EarlyRead :=
  l.bind fun l => t.early.find? fun e => e.isOf l n home acq

/-- An access of a thread to bytes at a location makes the reads of them that it performed ahead of it void (R256). -/
def Thread.voidEarly (t : Thread) (l : Option (Bool × Nat)) (n : Nat) : Thread :=
  match l with
  | none => t
  | some l => { t with early := t.early.filter fun e => !e.overlaps l n }

/-- A load has been answered by an early read: of the reads performed before it, those that a test names are void (R256, R262). -/
def Thread.useEarly (t : Thread) (e : EarlyRead) (void : EarlyRead → Bool) : Thread :=
  let i := t.early.findIdx (· == e)
  { t with early := ((t.early.take i).filter fun x => !void x) ++ t.early.drop (i + 1) }

/-- Whether the scopes of a release of one workgroup and of an acquire of another both reach the other party (R6, R259): below `.pkg`
they reach the workgroups of one cluster launch. -/
def State.scopesReach (s : State) (p q s1 s2 : Nat) : Bool :=
  let launch := ((s.wg? p).map fun x => x.peers.contains q).getD false
  let reaches (k : Nat) : Bool := 3 ≤ k || (k == 2 && launch)
  p == q || (reaches s1 && reaches s2)

/-- Whether an acquire read of bytes at a location by a workgroup at a scope may pair with what it has read from (R259, R261). It does
not when the bytes are of releases of other workgroups whose scopes and its own do not both reach the other; bytes that no thread
has released are taken to pair (DESIGN CHOICE: notes/assumptions/9). -/
def State.pairs (s : State) (w sc : Nat) (l : Option (Bool × Nat)) (n : Nat) : Bool :=
  match l with
  | some (true, pa) =>
    let marks := s.released.filter fun e => decide (pa ≤ e.addr ∧ e.addr < pa + n)
    marks.isEmpty || marks.any fun e => s.scopesReach e.wg w e.scope sc
  | _ => true

/-- Whether a thread of a workgroup may perform a load of a size ahead of its place. -/
def View.mayRunAhead (v : View) (n : Nat) : Bool :=
  v.t.isLive && v.wg.res == .resident && (n == 1 || n == 2 || n == 4 || n == 8)

/-! ### Loads and stores (R142 to R144) -/

/-- The offset of an MP access, extended by wide hints (R74, R81). -/
def mpOffset (o : BitVec 7) (w : Words) (n : Nat) : Reg := wideImm 7 o w.wides * BitVec.ofNat 64 n

/-- Whether a thread's access of a global address must wait for its request to be accepted at the home of its bucket (R281,
R282): an access that traps at issue sends none. -/
def State.mustWait (s : State) (v : View) (path : Option Path) (a : Reg) (n : Nat) : Bool :=
  match addrTrap .global a n, s.awaited v.party path a n with
  | none, some k => s.holdsRequest v.t.request k
  | _, _ => false

/-- A thread performs a plain load ahead of its place in program order (R255): a load that would fault, or whose request is held, is
not performed (DESIGN CHOICE: notes/assumptions/9). -/
def State.readEarly (s : State) (w g i : Nat) (sp : Space) (a : Reg) (n : Nat) (home : Bool) : State :=
  match s.view? w g i with
  | none => s
  | some v =>
    if !v.mayRunAhead n || (sp = .global && s.mustWait v (some { atHome := home }) a n) then s
    else match s.location v sp a, s.loadSpace v sp { atHome := home } a n with
    | some l, (t, .ok bs) =>
      t.modThread ⟨w, g, i⟩ fun x => { x with early := x.early ++ [{ global := l.1, addr := l.2, home := home, bytes := bs }] }
    | _, _ => s

/-- A thread performs an acquire load ahead of plain loads before it in program order, which by itself orders no two loads (R255,
R262): what the load acquires, its thread has acquired at this moment (DESIGN CHOICE: notes/assumptions/9). -/
def State.acquireEarly (s : State) (w g i : Nat) (sp : Space) (a : Reg) (n sc : Nat) : State :=
  let u := s.acquireOf w sc
  match u.view? w g i with
  | none => s
  | some v =>
    if !v.mayRunAhead n || (sp = .global && s.mustWait v (some { atHome := 2 ≤ sc }) a n) then s
    else match u.location v sp a, u.loadSpace v sp { atHome := 2 ≤ sc } a n with
    | some l, (t, .ok bs) =>
      ({ t with moment := t.moment + 1 } : State).modThread ⟨w, g, i⟩ fun x =>
        { x with early := x.early ++ [{ global := l.1, addr := l.2, home := 2 ≤ sc, bytes := bs,
                                        acq := some (sc, t.pairs w sc (some l) n), moment := t.moment + 1 }] }
    | _, _ => s

/-- A load by a thread, which an early read of the same bytes may answer (R255). -/
def State.loadThread (s : State) (v : View) (sp : Space) (p : Path) (a : Reg) (n : Nat) : State × Except Trap (Thread × List Byte) :=
  let l := s.location v sp a
  match addrTrap sp a n, v.t.earlyRead l n p.atHome none with
  | none, some e => (s, .ok (v.t.useEarly e fun x => l.any fun l => x.overlaps l n, e.bytes))
  | _, _ => match s.loadSpace v sp p a n with
    | (s, .error x) => (s, .error x)
    | (s, .ok bs) => (s, .ok (v.t.voidEarly (s.location v sp a) n, bs))

/-- An acquire load by a thread of a group at a scope. It drops what the L1 holds before it reads, so that the words it reads stay (R271,
R274), and no load after it has been performed before it; when its scope and that of the release that it reads from do not both reach
the other party, it orders nothing but its own bytes (R259, R262). One performed ahead of its place has done all this then. -/
def State.acquireThread (s : State) (v : View) (g : Nat) (sp : Space) (a : Reg) (n sc : Nat) : State × Except Trap (Thread × List Byte) :=
  let l := s.location v sp a
  match addrTrap sp a n, v.t.earlyRead l n (2 ≤ sc) (some sc) with
  | none, some e =>
    if (e.acq.map Prod.snd).getD true then
      (s.groupAcquiredBy (v.wg.id, g) sc e.moment, .ok (v.t.useEarly e fun _ => true, e.bytes))
    else (s, .ok (v.t.useEarly e fun x => l.any fun l => x.overlaps l n, e.bytes))
  | _, _ => match (s.acquireOf v.wg.id sc).loadSpace v sp { atHome := 2 ≤ sc } a n with
    | (s, .error x) => (s, .error x)
    | (s, .ok bs) =>
      if s.pairs v.wg.id sc (s.location v sp a) n then (s.groupAcquired (v.wg.id, g) sc, .ok (v.t.acquires, bs))
      else (s, .ok (v.t.voidEarly (s.location v sp a) n, bs))

/-- The number of the group whose threads execute the word in hand. -/
def State.curGrp (s : State) : Nat := (s.cur.map IssueSet.grp).getD 0

/-- What the destination of a load holds that has met an address that nothing backs (R279): the load returns 0, and takes its fault
(DEDUCED: notes/assumptions/112). -/
def State.loadNothing (s : State) (v : View) (d : BitVec 7) (a : Reg) : State :=
  if s.unbackedRead v.wg.ctx a.toNat then
    match dstOf d with
    | .named n => s.modThread (v.id s.curGrp) fun t => t.writeNow (.named n) 0
    | _ => s
  else s

/-- A lane of a load. A load whose request is held issues again. -/
def loadLane (d : BitVec 7) (sp : Space) (sz : BitVec 3) (acq : Option Nat) (addr : View → Reg) : Lane := fun s v =>
  if v.t.maskTrue v.t.words then
    let a := addr v
    let n := sizeOf sz
    let path : Path := match acq with
      | none => pathOf v.t.words
      | some sc => { atHome := 2 ≤ sc }
    if sp = .global && s.mustWait v (some path) a n then (s, .ok v.t.reissue)
    else match (match acq with
        | none => s.loadThread v sp path a n
        | some sc => s.acquireThread v s.curGrp sp a n sc) with
      | (s, .error x) => (if sp = .global && x.cause = .machineCheck then s.loadNothing v d a else s, .error x)
      | (s, .ok (t, bs)) => (s, .ok (t.writeDest d none (extendLoad sz bs)).step)
  else (s, .ok (v.inactiveDest d none).step)

/-- The scope at which a write of a thread is a release, or follows a release fence of its thread, if it is one (R261). -/
def Thread.releases (t : Thread) (rel : Option Nat) : Option Nat :=
  match rel, t.fenced with
  | some a, some b => some (max a b)
  | some a, none => some a
  | none, f => f

/-- A lane of a store; a release takes effect before the write. -/
def storeLane (sp : Space) (sz : BitVec 3) (rel : Option Nat) (addr data : View → Reg) : Lane := fun s v =>
  if v.t.maskTrue v.t.words then
    let released : State := match rel with | none => s | some sc => s.release v.wg.id sc false
    let path : Path := if rel.isSome then {} else pathOf v.t.words
    match released.storeSpace v sp { path with rel := v.t.releases rel } (addr v) (leBytes (sizeOf sz) (data v).toNat) with
    | (s, .error x) => (s, .error x)
    | (s, .ok ()) => (s, .ok (v.t.voidEarly (s.location v sp (addr v)) (sizeOf sz)).step)
  else (s, .ok v.t.step)

/-- The address of an MP access (R142). -/
def mpAddr (a o : BitVec 7) (sz : BitVec 3) (v : View) : Reg := v.read a + mpOffset o v.t.words (sizeOf sz)

/-- The address of an MO access (R142). -/
def moAddr (a : BitVec 7) (o : BitVec 4) (sz : BitVec 3) (v : View) : Reg :=
  v.read a + o.signExtend 64 * BitVec.ofNat 64 (sizeOf sz)

/-- The address of an MI access (R142). -/
def miAddr (a b : BitVec 7) (sz : BitVec 3) (v : View) : Reg := v.read a + v.read b * BitVec.ofNat 64 (sizeOf sz)

/-- `LD` (R143). -/
def execLd (d a : BitVec 7) (sp : BitVec 2) (sz : BitVec 3) (o : BitVec 7) (s : State) : Out :=
  s.perLane (ldForm d a sp sz) (loadLane d (.ofCode sp) sz none (mpAddr a o sz))

/-- `ST` (R144). -/
def execSt (d a : BitVec 7) (sp : BitVec 2) (sz : BitVec 3) (o : BitVec 7) (s : State) : Out :=
  s.perLane (stForm d a sp sz) (storeLane (.ofCode sp) sz none (mpAddr a o sz) (·.read d))

/-- `LD_ACQ` (R143). -/
def execLdAcq (d a : BitVec 7) (sp : BitVec 2) (sz sc : BitVec 3) (o : BitVec 4) (s : State) : Out :=
  s.perLane (ldAcqForm d a sp sz sc) (loadLane d (.ofCode sp) sz (some sc.toNat) (moAddr a o sz))

/-- `ST_REL` (R144). -/
def execStRel (d a : BitVec 7) (sp : BitVec 2) (sz sc : BitVec 3) (o : BitVec 4) (s : State) : Out :=
  s.perLane (stRelForm d a sp sz sc) (storeLane (.ofCode sp) sz (some sc.toNat) (moAddr a o sz) (·.read d))

/-- `LDX` (R143). -/
def execLdx (d a b : BitVec 7) (sp : BitVec 2) (sz : BitVec 3) (s : State) : Out :=
  s.perLane (ldxForm d a b sp sz) (loadLane d (.ofCode sp) sz none (miAddr a b sz))

/-- `STX` (R144). -/
def execStx (d a b : BitVec 7) (sp : BitVec 2) (sz : BitVec 3) (s : State) : Out :=
  s.perLane (stxForm d a b sp sz) (storeLane (.ofCode sp) sz none (miAddr a b sz) (·.read d))

/-! ### Exchange stores (R156) -/

/-- The workgroup of a cluster rank in a workgroup's cluster launch. -/
def State.peerOf (s : State) (w : Workgroup) (rank : Nat) : Option Nat :=
  if w.peers.isEmpty then (if rank = w.rank then some w.id else none)
  else (s.wgs.find? fun x => (w.peers.contains x.id || x.id == w.id) && x.rank == rank).map Workgroup.id

/-- How many workgroups a cluster launch has; 1 outside one. -/
def Workgroup.launchSize (w : Workgroup) : Nat := if w.peers.isEmpty then 1 else w.peers.length

/-- `XST` (R156). -/
def execXst (d a : BitVec 7) (peer : BitVec 2) (sz : BitVec 3) (o : BitVec 7) (s : State) : Out :=
  s.perLane (xstForm d a sz) fun s v =>
    if v.t.maskTrue v.t.words then
      let n := sizeOf sz
      let off := v.read a + o.signExtend 64 * BitVec.ofNat 64 n
      if v.wg.launchSize ≤ peer.toNat then (s, .error (trap .clusterRank (peer.setWidth 64)))
      else if off.toNat % n ≠ 0 then (s, .error (trap .misalignedAddress off))
      else if v.wg.exchange < off.toNat + n then (s, .error (trap .scratchpadRange off))
      else
        let bs := leBytes n (v.read d).toNat
        let s := match s.peerOf v.wg peer.toNat with
          | some p => s.modWg p fun x => { x with shadow := writeBytes x.shadow off.toNat bs }
          | none => s
        (s, .ok v.t.step)
    else (s, .ok v.t.step)

/-! ### Atomics (R147 to R149) -/

/-- The type codes of `add`, `min` and `max` (R147): 0 `.i32`, 1 `.n32`, 2 `.i64`, 3 `.n64`. -/
def wide4 (t : BitVec 2) : Bool := t.toNat ≥ 2

/-- Whether such a type is signed. -/
def signed4 (t : BitVec 2) : Bool := t.toNat % 2 = 0

/-- The lesser (or greater) of two words of a width, read signed or natural. -/
def pick (w : Nat) (max sg : Bool) (x y : Nat) : Nat :=
  let a := BitVec.ofNat w x
  let b := BitVec.ofNat w y
  let le : Bool := if sg then decide (a.toInt ≤ b.toInt) else decide (a.toNat ≤ b.toNat)
  if le != max then x else y

/-- The ordering of an atomic (R80, R148): whether it is an acquire and a release, and its scope. -/
def atomOrder (w : Words) : Bool × Bool × Nat :=
  match w.modifier with
  | none => (false, false, 3)
  | some m => (m.ord = 1 || m.ord = 3, m.ord = 2 || m.ord = 3, if m.sco = 0 then 3 else m.sco.toNat - 1)

/-- A lane of an atomic of `n` bytes, of an operation by its OP (R147): `f old b c` is the new value. With no destination it is an
`ared`. Its release is eager in lazy-release mode too, since its word has no owner (R268); its acquire drops what the L1 holds
before the words of the atomic enter it (R271). One whose request is held issues again. -/
def atomLane (d : Option (BitVec 7)) (a b : BitVec 7) (n op : Nat) (f : Nat → Nat → Nat → Nat) : Lane :=
  fun s v =>
    if v.t.maskTrue v.t.words then
      let addr := v.read a
      match addrTrap .global addr n with
      | some x => (s, .error x)
      | none =>
        if s.mustWait v none addr n then (s, .ok v.t.reissue)
        else
          let (acq, rel, sc) := atomOrder v.t.words
          let s := if rel then s.releaseNow v.wg.id sc else s
          let s := if acq then s.acquireOf v.wg.id sc else s
          let pairs := s.pairs v.wg.id sc (s.location v .global addr) n
          let path : Path := { pathOf v.t.words with rel := v.t.releases (if rel then some sc else none) }
          let bv := (v.read b).toNat % 2 ^ (8 * n)
          let cv := v.fourth.toNat % 2 ^ (8 * n)
          match s.modifyGlobal v.party path { op := op, b := bv, c := cv } addr n (fun old => leBytes n (f (leNat old) bv cv)) with
          | (s, .error x) => (s, .error x)
          | (s, .ok old) =>
            let s := if acq && pairs then s.groupAcquired (v.wg.id, s.curGrp) sc else s
            let t := if acq && pairs then v.t.acquires else v.t.voidEarly (s.location v .global addr) n
            (s, .ok (match d with
              | some d => (t.writeDest d none (leReg old)).step
              | none => t.step))
    else (s, .ok (match d with | some d => (v.inactiveDest d none).step | none => v.t.step))

/-- Addition of words. -/
def atomicAdd (old b _c : Nat) : Nat := old + b

/-- The FP32 addition of R148: RNE, subnormals honoured. -/
def atomicFadd (old b _c : Nat) : Nat := (fp32.write .rne false ((fp32.decode old).add .rne (fp32.decode b)).1).1

/-- minimumNumber and maximumNumber of R127 on FP32 codes. -/
def atomicFpick (max : Bool) (old b _c : Nat) : Nat := (minmax32 max true false old b).1

/-- The bounded counters of R147. -/
def atomicIncb (old b _c : Nat) : Nat := if old < b then old + 1 else old

/-- The bounded counters of R147. -/
def atomicDecb (old b _c : Nat) : Nat := if old > b then old - 1 else old

/-- The access size of a type of `add`, `min` or `max`. -/
def size4 (t : BitVec 2) : Nat := if wide4 t then 8 else 4

/-- The access size of a `.n32` or `.n64` type. -/
def size2 (t : BitVec 1) : Nat := if t = 1 then 8 else 4

/-- `ATOM_ADD` (R147, R148). -/
def execAtomAdd (d a b : BitVec 7) (t : BitVec 2) (s : State) : Out :=
  s.perLane (atomForm d a b false) (atomLane (some d) a b (size4 t) t.toNat atomicAdd)

/-- `ARED_ADD` (R147, R148). -/
def execAredAdd (a b : BitVec 7) (t : BitVec 2) (s : State) : Out :=
  s.perLane (aredForm a b) (atomLane none a b (size4 t) t.toNat atomicAdd)

/-- `ATOM_MIN` (R147, R148). -/
def execAtomMin (d a b : BitVec 7) (t : BitVec 2) (s : State) : Out :=
  s.perLane (atomForm d a b false) (atomLane (some d) a b (size4 t) (4 + t.toNat) (fun o b _ => pick (8 * size4 t) false (signed4 t) o b))

/-- `ARED_MIN` (R147, R148). -/
def execAredMin (a b : BitVec 7) (t : BitVec 2) (s : State) : Out :=
  s.perLane (aredForm a b) (atomLane none a b (size4 t) (4 + t.toNat) (fun o b _ => pick (8 * size4 t) false (signed4 t) o b))

/-- `ATOM_MAX` (R147, R148). -/
def execAtomMax (d a b : BitVec 7) (t : BitVec 2) (s : State) : Out :=
  s.perLane (atomForm d a b false) (atomLane (some d) a b (size4 t) (8 + t.toNat) (fun o b _ => pick (8 * size4 t) true (signed4 t) o b))

/-- `ARED_MAX` (R147, R148). -/
def execAredMax (a b : BitVec 7) (t : BitVec 2) (s : State) : Out :=
  s.perLane (aredForm a b) (atomLane none a b (size4 t) (8 + t.toNat) (fun o b _ => pick (8 * size4 t) true (signed4 t) o b))

/-- `ATOM_AND` (R147, R148). -/
def execAtomAnd (d a b : BitVec 7) (t : BitVec 1) (s : State) : Out :=
  s.perLane (atomForm d a b false) (atomLane (some d) a b (size2 t) (12 + t.toNat) (fun o b _ => o &&& b))

/-- `ARED_AND` (R147, R148). -/
def execAredAnd (a b : BitVec 7) (t : BitVec 1) (s : State) : Out :=
  s.perLane (aredForm a b) (atomLane none a b (size2 t) (12 + t.toNat) (fun o b _ => o &&& b))

/-- `ATOM_OR` (R147, R148). -/
def execAtomOr (d a b : BitVec 7) (t : BitVec 1) (s : State) : Out :=
  s.perLane (atomForm d a b false) (atomLane (some d) a b (size2 t) (14 + t.toNat) (fun o b _ => o ||| b))

/-- `ARED_OR` (R147, R148). -/
def execAredOr (a b : BitVec 7) (t : BitVec 1) (s : State) : Out :=
  s.perLane (aredForm a b) (atomLane none a b (size2 t) (14 + t.toNat) (fun o b _ => o ||| b))

/-- `ATOM_XOR` (R147, R148). -/
def execAtomXor (d a b : BitVec 7) (t : BitVec 1) (s : State) : Out :=
  s.perLane (atomForm d a b false) (atomLane (some d) a b (size2 t) (16 + t.toNat) (fun o b _ => o ^^^ b))

/-- `ARED_XOR` (R147, R148). -/
def execAredXor (a b : BitVec 7) (t : BitVec 1) (s : State) : Out :=
  s.perLane (aredForm a b) (atomLane none a b (size2 t) (16 + t.toNat) (fun o b _ => o ^^^ b))

/-- `ATOM_EXCH` (R147, R148). -/
def execAtomExch (d a b : BitVec 7) (t : BitVec 1) (s : State) : Out :=
  s.perLane (atomForm d a b false) (atomLane (some d) a b (size2 t) (18 + t.toNat) (fun _ b _ => b))

/-- `ARED_EXCH` (R147, R148). -/
def execAredExch (a b : BitVec 7) (t : BitVec 1) (s : State) : Out :=
  s.perLane (aredForm a b) (atomLane none a b (size2 t) (18 + t.toNat) (fun _ b _ => b))

/-- `ATOM_CAS` (R147, R148). -/
def execAtomCas (d a b : BitVec 7) (t : BitVec 1) (s : State) : Out :=
  s.perLane (atomForm d a b true) (atomLane (some d) a b (size2 t) (20 + t.toNat) (fun o b c => if o = b then c else o))

/-- `ATOM_FADD` (R147, R148). -/
def execAtomFadd (d a b : BitVec 7) (s : State) : Out :=
  s.perLane (atomForm d a b false) (atomLane (some d) a b 4 22 atomicFadd)

/-- `ARED_FADD` (R147, R148). -/
def execAredFadd (a b : BitVec 7) (s : State) : Out :=
  s.perLane (aredForm a b) (atomLane none a b 4 22 atomicFadd)

/-- `ATOM_FMIN` (R147, R148). -/
def execAtomFmin (d a b : BitVec 7) (s : State) : Out :=
  s.perLane (atomForm d a b false) (atomLane (some d) a b 4 23 (atomicFpick false))

/-- `ARED_FMIN` (R147, R148). -/
def execAredFmin (a b : BitVec 7) (s : State) : Out :=
  s.perLane (aredForm a b) (atomLane none a b 4 23 (atomicFpick false))

/-- `ATOM_FMAX` (R147, R148). -/
def execAtomFmax (d a b : BitVec 7) (s : State) : Out :=
  s.perLane (atomForm d a b false) (atomLane (some d) a b 4 24 (atomicFpick true))

/-- `ARED_FMAX` (R147, R148). -/
def execAredFmax (a b : BitVec 7) (s : State) : Out :=
  s.perLane (aredForm a b) (atomLane none a b 4 24 (atomicFpick true))

/-- `ATOM_INCB` (R147, R148). -/
def execAtomIncb (d a b : BitVec 7) (s : State) : Out :=
  s.perLane (atomForm d a b false) (atomLane (some d) a b 4 25 atomicIncb)

/-- `ARED_INCB` (R147, R148). -/
def execAredIncb (a b : BitVec 7) (s : State) : Out :=
  s.perLane (aredForm a b) (atomLane none a b 4 25 atomicIncb)

/-- `ATOM_DECB` (R147, R148). -/
def execAtomDecb (d a b : BitVec 7) (s : State) : Out :=
  s.perLane (atomForm d a b false) (atomLane (some d) a b 4 26 atomicDecb)

/-- `ARED_DECB` (R147, R148). -/
def execAredDecb (a b : BitVec 7) (s : State) : Out :=
  s.perLane (aredForm a b) (atomLane none a b 4 26 atomicDecb)

end Sys2Proof.Machine
end

