-- ==== Sys2Proof/Machine/Sync.lean ====
section
/-! DEFINITION. Major 0x20: fences (R146), barrier registers (R150 to R154), group, workgroup and cluster syncs and the
exchange swap (R155, R157), and cache maintenance (R161). -/

namespace Sys2Proof.Machine

open Sys2Proof

/-! ### Fences (R146) -/

/-- A fence of each thread. A release fence makes the thread's later writes writes of a release (R261). -/
def State.fenceOp (s : State) (sc : BitVec 3) (acq rel full : Bool) : Out :=
  s.perLane (syncForm [] [] (decide (sc.toNat ≤ 5)) false) fun s v =>
    let s := if rel then s.release v.wg.id sc.toNat full else s
    let t := if rel then { v.t with fenced := v.t.releases (some sc.toNat) } else v.t
    if acq then (s.acquire v.wg.id sc.toNat, .ok t.acquires.step) else (s, .ok t.step)

/-- `FENCE` (R146). -/
def execFence (sc : BitVec 3) (s : State) : Out := s.fenceOp sc true true true

/-- `FENCE_ACQ` (R146). -/
def execFenceAcq (sc : BitVec 3) (s : State) : Out := s.fenceOp sc true false false

/-- `FENCE_REL` (R146). -/
def execFenceRel (sc : BitVec 3) (s : State) : Out := s.fenceOp sc false true false

/-! ### Barrier registers (R151 to R154) -/

/-- A barrier register of a workgroup. -/
def Workgroup.barrier (w : Workgroup) (b : BitVec 4) : Barrier := w.barriers[b.toFin]

/-- Sets a barrier register. -/
def State.setBarrier (s : State) (w : Nat) (b : BitVec 4) (x : Barrier) : State :=
  s.modWg w fun y => { y with barriers := y.barriers.set b.toNat x b.isLt }

/-- A fault whose address is a barrier number. -/
def barrierTrap (c : Cause) (b : BitVec 4) : Trap := trap c (b.setWidth 64)

/-- `bar.arm` of R151 on a barrier register. -/
def Barrier.arm (x : Barrier) (b : BitVec 4) (e y : Nat) : Except Trap Barrier :=
  if e > 4095 ∨ y > 16777215 then .error (barrierTrap .barrierCount b)
  else if e = 0 then
    if !x.broken && (x.arrive ≠ 0 || x.bytesArr ≠ 0) then .error (barrierTrap .barrierConflict b)
    else .ok { Barrier.reset with phase := x.phase }
  else if !x.armed || x.broken then
    .ok { armed := true, phase := x.phase, broken := false, expect := e, arrive := 0, bytesExp := y, bytesArr := 0 }
  else if x.expect ≠ e then .error (barrierTrap .barrierConflict b)
  else .ok x

/-- `complete_if_done` of R152. -/
def Barrier.completeIfDone (x : Barrier) : Barrier :=
  if x.arrive = x.expect ∧ x.bytesArr = x.bytesExp then { x with phase := !x.phase, arrive := 0, bytesArr := 0 } else x

/-- Whether a delivery overruns a barrier (R152). -/
def Barrier.overruns (x : Barrier) (m y : Nat) : Bool :=
  decide (x.expect < x.arrive + m ∨ 16777215 < x.bytesArr + y ∨ (x.arrive + m = x.expect ∧ x.bytesExp < x.bytesArr + y))

/-- A delivery of arrivals and bytes that a barrier counts (R152). -/
def Barrier.count (x : Barrier) (m y : Nat) : Barrier :=
  { x with arrive := x.arrive + m, bytesArr := x.bytesArr + y }.completeIfDone

/-- Passes the waiters of a barrier whose phase has completed; each wait's completion is an acquire at its scope
(R153), and the threads of a group that pass together fuse (R11). -/
def State.passWaiters (s : State) (w : Nat) (b : BitVec 4) : State :=
  match s.wg? w with
  | none => s
  | some x =>
    let phase := (x.barrier b).phase
    let passes (t : Thread) : Option Nat :=
      match t.wait with
      | .barrier k par sc => if t.isLive && k == b.toNat && phase != par then some sc.toNat else none
      | _ => none
    let passing := (List.range x.groups.length).flatMap fun g =>
      (((x.groups[g]?).map Group.threads).getD []).filterMap fun t => (passes t).map fun sc => (g, sc)
    let s := passing.foldl (init := s) fun s e => (s.acquireOf w e.2).groupAcquired (w, e.1) e.2
    s.modWg w fun x => { x with groups := x.groups.map fun g => g.stepFused (fun _ t => (passes t).isSome) Thread.stepPast }

/-- A thread's arrival at a barrier: a release at its scope, then the delivery of R152. -/
def State.threadArrives (s : State) (w : Nat) (sc : Nat) (b : BitVec 4) (n : Nat) : State × Except Trap Unit :=
  if n < 1 ∨ n > 4095 then (s, .error (barrierTrap .barrierCount b))
  else
    match s.wg? w with
    | none => (s, .ok ())
    | some x =>
      let r := x.barrier b
      if !r.armed then (s, .error (barrierTrap .unarmedBarrier b))
      else if r.broken then (s, .error (barrierTrap .brokenBarrier b))
      else if r.overruns n 0 then (s, .error (barrierTrap .barrierOverrun b))
      else (((s.releaseNow w sc).setBarrier w b (r.count n 0)).passWaiters w b, .ok ())

/-- An engine's delivery to a barrier (R152, R154, R334): discarded when broken; an unarmed barrier or an overrun is a fault of
the whole receiving workgroup, with UNIT 2 (R328). The barriers of a completed workgroup have ceased to exist (R14). -/
def State.engineDelivers (s : State) (w : Nat) (b : BitVec 4) (m y : Nat) : State :=
  match s.wg? w with
  | none => s
  | some x =>
    let r := x.barrier b
    if !x.ongoing then s
    else if !r.armed then s.takeFault (s.engineDelivery w none { barrierTrap .unarmedBarrier b with unit := 2 })
    else if r.broken then s
    else if r.overruns m y then s.takeFault (s.engineDelivery w none { barrierTrap .barrierOverrun b with unit := 2 })
    else (s.setBarrier w b (r.count m y)).passWaiters w b

/-- `BAR_ARM` (R151). -/
def execBarArm (b : BitVec 4) (a c : BitVec 7) (s : State) : Out :=
  s.perLane (syncForm [a, c] [] true false) fun s v =>
    match (v.wg.barrier b).arm b (v.read a).toNat (v.read c).toNat with
    | .error x => (s, .error x)
    | .ok x => (s.setBarrier v.wg.id b x, .ok v.t.step)

/-- `BAR_ARRIVE` (R152, R153). -/
def execBarArrive (sc : BitVec 3) (b : BitVec 4) (a : BitVec 7) (s : State) : Out :=
  s.perLane (syncForm [a] [] (decide (sc.toNat ≤ 5)) false) fun s v =>
    match s.threadArrives v.wg.id sc.toNat b (v.read a).toNat with
    | (s, .error x) => (s, .error x)
    | (s, .ok ()) => (s, .ok v.t.step)

/-- `BAR_EXPECT` (R152): raises the standing byte expectation. -/
def execBarExpect (b : BitVec 4) (a : BitVec 7) (s : State) : Out :=
  s.perLane (syncForm [a] [] true false) fun s v =>
    let x := v.wg.barrier b
    let y := (v.read a).toNat
    if !x.armed then (s, .error (barrierTrap .unarmedBarrier b))
    else if x.broken then (s, .error (barrierTrap .brokenBarrier b))
    else if x.bytesExp + y > 16777215 then (s, .error (barrierTrap .barrierCount b))
    else (s.setBarrier v.wg.id b { x with bytesExp := x.bytesExp + y }, .ok v.t.step)

/-- The wait of R153, for the phase with a parity. -/
def State.waitLane (s : State) (v : View) (sc : BitVec 3) (b : BitVec 4) (par : Bool) : State × Except Trap Thread :=
  match s.wg? v.wg.id with
  | none => (s, .ok v.t)
  | some w =>
    let x := w.barrier b
    if x.phase != par then (s.acquire v.wg.id sc.toNat, .ok v.t.stepPast)
    else if !x.armed then (s, .error (barrierTrap .unarmedBarrier b))
    else if x.broken then (s, .error (barrierTrap .brokenBarrier b))
    else (s, .ok { v.t with wait := .barrier b.toNat par sc })

/-- `BAR_WAIT` (R153). -/
def execBarWait (sc : BitVec 3) (b : BitVec 4) (a : BitVec 7) (s : State) : Out :=
  s.perLane (syncForm [a] [] (decide (sc.toNat ≤ 5)) false) fun s v => s.waitLane v sc b ((v.read a).getLsbD 0)

/-- The threads that arrive at a barrier and pass it fuse with those of their group that their arrival lets pass (R11). -/
def Group.fusePassed (old : Group) (ts : List Nat) (g : Group) : Group :=
  g.fuse ((List.range g.threads.length).filter fun i => match old.threads[i]?, g.threads[i]? with
    | some o, some t => t.isLive && t.pc != o.pc && (ts.contains i || match o.wait with | .barrier .. => true | _ => false)
    | _, _ => false)

/-- `BAR_SYNC` (R153): an arrival, then the wait for the phase as it stood at the arrival. -/
def execBarSync (sc : BitVec 3) (b : BitVec 4) (a : BitVec 7) (s : State) : Out :=
  match s.perLane (syncForm [a] [] (decide (sc.toNat ≤ 5)) false) (fun s v =>
    match s.threadArrives v.wg.id sc.toNat b (v.read a).toNat with
    | (s, .error x) => (s, .error x)
    | (s, .ok ()) => s.waitLane v sc b (v.wg.barrier b).phase) with
  | .next t => .next (match s.cur.bind fun u => (s.grp? u.wg u.grp).map fun g => (u, g) with
    | none => t
    | some (u, g) => t.modGrp u.wg u.grp (Group.fusePassed g u.gtids))
  | o => o

/-- `BAR_TEST` (R153). -/
def execBarTest (sc : BitVec 3) (b : BitVec 4) (a : BitVec 7) (p : BitVec 4) (s : State) : Out :=
  s.perLane (syncForm [a] [p] (sc.toNat ≤ 5 && p.toNat % 2 == 0) false) fun s v =>
    let x := v.wg.barrier b
    let par := (v.read a).getLsbD 0
    let passed := x.phase != par
    let s := if passed then s.acquire v.wg.id sc.toNat else s
    let t := if passed then v.t.acquires else v.t
    (s, .ok ((t.writeLate (.pred p.toNat) (bit passed)).writeLate (.pred (p.toNat + 1))
      (bit (x.broken && !passed))).step)

/-! ### Syncs and the exchange swap (R155, R157) -/

/-- Whether a thread waits at a sync other than a form at a PC, one of whose participants the thread `id` is. -/
def otherSync (form : Nat) (pc : BitVec 56) (id : ThreadId) (e : ThreadId × Thread) : Bool :=
  match e.2.wait with
  | .sync k sc =>
    !(k == form && e.2.pc == pc) &&
    (match syncSet k sc with
     | .group => e.1.wg == id.wg && e.1.grp == id.grp
     | .workgroup => e.1.wg == id.wg
     | .launch => true)
  | _ => false

/-- Deliveries to threads of several groups: one per group and PC. -/
def deliveriesTo (c : Cause) (ts : List (ThreadId × Thread)) : List Delivery :=
  let keys := (ts.map fun e => (e.1.wg, e.1.grp, e.2.pc)).eraseDups
  keys.map fun k =>
    { hits := (ts.filter fun e => (e.1.wg, e.1.grp, e.2.pc) = k).map fun e => (e.1, trap c (e.2.pc.setWidth 64)) }

/-- The exchange of the exchange area and the shadow bank of a workgroup (R157). -/
def Workgroup.swapBanks (w : Workgroup) : Workgroup :=
  let lo := w.window - w.exchange
  { w with
    spad := (w.spad.filter fun e => e.1 < lo) ++ (w.shadow.map fun e => (e.1 + lo, e.2)),
    shadow := (w.spad.filter fun e => lo ≤ e.1).map fun e => (e.1 - lo, e.2),
    tables := w.tables.map fun t => t.touched lo w.exchange }

/-- `Workgroup.swapBanks` in the machine: a write of the whole exchange area, of which engine commands under way may still read what
the bytes held (R157, R189, R226). -/
def State.swapBanks (s : State) (w : Nat) : State :=
  match s.wg? w with
  | none => s
  | some x =>
    let lo := x.window - x.exchange
    let listed := (x.spad.map Prod.fst).filter (lo ≤ ·) ++ x.shadow.map fun e => e.1 + lo
    (listed.foldl (init := s) fun s a => s.noteOld (some w) a (x.readSpad a 1)).modWg w Workgroup.swapBanks

/-- What a sync does when its last participant has arrived: a release and an acquire of each workgroup; the swap, in every
workgroup of the launch (R157); and every participant proceeds, those of a group that stand together as weaves (R11). -/
def State.finishSync (s : State) (form : Nat) (sc : BitVec 3) (ts : List (ThreadId × Thread)) : State :=
  let scope := if form = 2 then 2 else sc.toNat
  let ws := (ts.map fun e => e.1.wg).eraseDups
  let s := ws.foldl (init := s) fun s w => s.releaseNow w scope
  let s := ws.foldl (init := s) fun s w => s.acquireOf w scope
  let all := (ws.flatMap fun w => (s.launchOf w).map Workgroup.id).eraseDups
  let s := if form = 2 then all.foldl (init := s) fun s w => (s.landAll w).swapBanks w else s
  (ts.map fun e => (e.1.wg, e.1.grp)).eraseDups.foldl (init := s) fun s k => (s.groupAcquired k scope).modGrp k.1 k.2 fun g =>
    g.stepFused (fun i _ => ts.any fun e => e.1 == ⟨k.1, k.2, i⟩) fun t => t.acquires.step

/-- One lane's arrival at a sync. A thread that reaches a workgroup or launch sync while a thread of another group waits at a
`gsync` of its own is a divergence of both (DESIGN CHOICE: notes/assumptions/104). -/
def State.meetSync (f : Form) (form : Nat) (sc : BitVec 3) (w g : Nat) (acc : State × List (Nat × Trap)) (i : Nat) :
    State × List (Nat × Trap) :=
  match acc.1.view? w g i with
  | none => acc
  | some v =>
    if v.t.wait ≠ .running then acc
    else match f.check v with
    | .error x => (acc.1, acc.2 ++ [(i, x)])
    | .ok () =>
      let id : ThreadId := ⟨w, g, i⟩
      let pc := v.t.pc
      let others := (liveThreads (acc.1.launchOf w)).filter (otherSync form pc id)
      let mine := (acc.1.participants w g (syncSet form sc)).filter fun e => match e.2.wait with
        | .sync k _ => !(k == form && e.2.pc == pc)
        | _ => false
      let bad := others ++ mine.filter fun e => !(others.any fun o => o.1 == e.1)
      if !bad.isEmpty then (acc.1.takeFaults (deliveriesTo .uniformDivergence (bad ++ [(id, v.t)])), acc.2)
      else
        let s := acc.1.modThread id fun t => { t with wait := .sync form sc }
        let ps := s.participants w g (syncSet form sc)
        if ps.all fun e => decide (e.2.wait = .sync form sc) && e.2.pc == pc then (s.finishSync form sc ps, acc.2)
        else (s, acc.2)

/-- A sync. -/
def State.syncOp (s : State) (f : Form) (form : Nat) (sc : BitVec 3) : Out :=
  match s.cur with
  | none => .refused .noThread
  | some u =>
    let r := u.gtids.foldl (State.meetSync f form sc u.wg u.grp) (s, [])
    .next (r.1.takeHits u.wg u.grp r.2)

/-- `GSYNC` (R155). -/
def execGsync (sc : BitVec 3) (s : State) : Out := s.syncOp (syncForm [] [] (decide (sc.toNat ≤ 5)) false) 0 sc

/-- `WSYNC` (R155). -/
def execWsync (sc : BitVec 3) (s : State) : Out :=
  s.syncOp (syncForm [] [] (decide (1 ≤ sc.toNat && sc.toNat ≤ 5)) false) 1 sc

/-- `BAR_SWAP` (R157). -/
def execBarSwap (s : State) : Out := s.syncOp (syncForm [] [] true false) 2 2

/-! ### Cache maintenance (R161) -/

/-- The runs of physical addresses that a range of virtual addresses covers, page by page of 4 KiB; pages that do not
translate contribute nothing. -/
def State.rangePages (s : State) (c : Nat) (a : Reg) (n : Nat) : List (Nat × Nat) :=
  let first := a.toNat / 4096
  let last := (a.toNat + n - 1) / 4096
  (List.range (last - first + 1)).filterMap fun i =>
    let page := 4096 * (first + i)
    let lo := max a.toNat page
    let hi := min (a.toNat + n) (page + 4096)
    if 2 ^ 56 ≤ page then none
    else (s.mapped c page).map fun pa => (pa + (lo - page), hi - lo)

/-- Whether a run of physical bytes lies in the range that a maintenance form names: none for length 0, every address
for a length above 0x4000_0000. -/
def State.inRange (s : State) (c : Nat) (a : Reg) (n : Nat) (pa len : Nat) : Bool :=
  if n = 0 then false
  else if n > 0x40000000 then true
  else (s.rangePages c a n).any fun r => decide (pa < r.1 + r.2 ∧ r.1 < pa + len)

/-- `PREF` (R161, R276): under `.kl1` without NT the sector is filled into L1; an address that fails a check is dropped. One whose
request is held issues again (R281). -/
def execPref (a : BitVec 7) (s : State) : Out :=
  s.perLane (syncForm [a] [] true true) fun s v =>
    let addr := v.read a
    let keep := match v.t.words.modifier with | some m => m.cp == 1 && m.nt == 0 | none => false
    if bf addr 56 8 ≠ 0 then (s, .ok v.t.step)
    else match s.translate v.wg.ctx addr.toNat .read with
      | (s, .error _) => (s, .ok v.t.step)
      | (s, .ok pa) =>
        if keep && s.place pa = .memory then
          if s.holdsRequest v.t.request (s.bucketKey v.wg.ctx pa) then (s, .ok v.t.reissue)
          else ((s.loadLocal v.wg.id { keep := true } (pa / 48 * 48) 48).1, .ok v.t.step)
        else (s, .ok v.t.step)

/-- `CINV` (R161): discards the words of a range that the workgroup does not own; no later load of the thread from the range has
been performed before it. -/
def execCinv (a b : BitVec 7) (s : State) : Out :=
  s.perLane (syncForm [a, b] [] true true) fun s v =>
    let n := (v.read b).toNat
    let addr := v.read a
    (s.modWg v.wg.id fun x =>
      { x with l1 := x.l1.filter fun y => y.owned || !s.inRange v.wg.ctx addr n (4 * y.addr) 4 },
     .ok { v.t with early := v.t.early.filter fun e => !e.global || !s.inRange v.wg.ctx addr n e.addr e.bytes.length }.step)

/-- `CWB` (R161): the write-throughs of a range are acknowledged. -/
def execCwb (sc : BitVec 3) (a b : BitVec 7) (s : State) : Out :=
  s.perLane (syncForm [a, b] [] (decide (3 ≤ sc.toNat && sc.toNat ≤ 5)) true) fun s v =>
    let n := (v.read b).toNat
    let addr := v.read a
    (s.drain v.wg.id (fun t => s.inRange v.wg.ctx addr n t.addr t.bytes.length), .ok v.t.step)

/-- `ICINV` (R161): the model's fetch reads the home slice, so nothing is held back (DESIGN CHOICE: notes/assumptions/9). -/
def execIcinv (sc : BitVec 3) (a b : BitVec 7) (s : State) : Out :=
  s.perLane (syncForm [a, b] [] (sc == 1 || sc == 3) false) fun s v => (s, .ok v.t.step)

end Sys2Proof.Machine
end

