-- ==== Sys2Proof/Machine/Compress.lean ====
section
/-! DEFINITION. Major 0x22: the compressing stores and expanding loads (R158 to R160). The members of a mask rendezvous as
for a lane collective; the last arrival accesses memory for all of them. -/

namespace Sys2Proof.Machine

open Sys2Proof

/-- A member of a formed rendezvous of R158, as a thread of its group: its base and its data. -/
structure Element where
  gtid : Nat
  base : Reg
  data : Reg
  deriving DecidableEq, Repr

/-- The active members, in ascending position. -/
def activeMembers (gr : Group) (is : List Nat) : List Element :=
  is.filterMap fun i => match (gr.threads[i]?).map Thread.wait with
    | some (.compress _ b d true _) => some { gtid := i, base := b, data := d }
    | _ => none

/-- A fault that every member takes. -/
def State.membersFault (s : State) (w g : Nat) (is : List Nat) (x : Trap) : State :=
  s.takeFault (.ofGroup w g (is.map fun i => (i, x)))

/-- The address of the element at a place of the run (DEDUCED: notes/assumptions/41). -/
def elementAddr (base : Reg) (n j : Nat) : Reg := base + BitVec.ofNat 64 (j * n)

/-- The stores of R159 to elements from a place on: the place reached, and the trap that ended them, if any. -/
def State.storeElements (w g n : Nat) (base : Reg) : List Element → Nat → State → State × Nat × Option Trap
  | [], j, s => (s, j, none)
  | e :: t, j, s =>
    match s.view? w g e.gtid with
    | none => (s, j, none)
    | some v =>
      let a := elementAddr base n j
      match s.storeSpace v .global { pathOf v.t.words with rel := v.t.releases none } a (leBytes n e.data.toNat) with
      | (s, .error x) => (s, j, some x)
      | (s, .ok ()) =>
        State.storeElements w g n base t (j + 1) (s.modThread ⟨w, g, e.gtid⟩ fun x => x.voidEarly (s.location v .global a) n)

/-- Sets PCNT of the members. -/
def State.setPcnt (s : State) (w g : Nat) (is : List Nat) (j : Nat) : State :=
  is.foldl (init := s) fun s i => s.modThread ⟨w, g, i⟩ fun t => { t with pcnt := j }

/-- Completes a compressing store (R159): a translation fault leaves PCNT at the element reached, from which the store
continues when it issues again. -/
def State.finishStc (n : Nat) (s : State) (w g : Nat) (is : List Nat) : State :=
  match s.grp? w g with
  | none => s
  | some gr =>
    let es := activeMembers gr is
    let pass (s : State) : State := is.foldl (init := s.setPcnt w g is 0) fun s i => s.modThread ⟨w, g, i⟩ Thread.step
    match es with
    | [] => pass s
    | e :: _ =>
      match addrTrap .global e.base n with
      | some x => s.membersFault w g is x
      | none =>
        let from_ := ((gr.threads[e.gtid]?).map Thread.pcnt).getD 0
        match State.storeElements w g n e.base (es.drop from_) from_ s with
        | (s, j, some x) => (s.setPcnt w g is j).membersFault w g is x
        | (s, _, none) => pass s

/-- The loads of R160 to a destination, for the active members in turn. -/
def State.loadElements (d : BitVec 7) (w g n : Nat) (base : Reg) : List Element → Nat → State → State × Except Trap (List (Nat × Reg))
  | [], _, s => (s, .ok [])
  | e :: t, j, s =>
    match s.view? w g e.gtid with
    | none => (s, .ok [])
    | some v =>
      match s.loadThread v .global (pathOf v.t.words) (elementAddr base n j) n with
      | (s, .error x) => (if x.cause = .machineCheck then s.loadNothing v d (elementAddr base n j) else s, .error x)
      | (s, .ok (u, bs)) =>
        match State.loadElements d w g n base t (j + 1) (s.modThread ⟨w, g, e.gtid⟩ fun x => { x with early := u.early }) with
        | (s, .error x) => (s, .error x)
        | (s, .ok r) => (s, .ok ((e.gtid, leReg bs) :: r))

/-- Completes an expanding load (R160): each active member receives its element; an inactive one follows R77 and R25. When a load
of it meets a bucket whose handover is awaited, the members issue again (R281). -/
def State.finishLde (d : BitVec 7) (n : Nat) (s : State) (w g : Nat) (is : List Nat) : State :=
  match s.grp? w g with
  | none => s
  | some gr =>
    let es := activeMembers gr is
    let base := ((es.head?).map Element.base).getD 0
    match (if es.isEmpty then none else addrTrap .global base n) with
    | some x => s.membersFault w g is x
    | none =>
      let r := State.loadElements d w g n base es 0 s
      if r.1.handovers ≠ s.handovers then is.foldl (init := s) fun s i => s.modThread ⟨w, g, i⟩ Thread.unissue
      else match r with
      | (s, .error x) => s.membersFault w g is x
      | (s, .ok vals) =>
        is.foldl (init := s) fun s i => s.modThread ⟨w, g, i⟩ fun t =>
          match vals.lookup i, t.wait with
          | some v, _ => t.receive d v
          | none, .compress _ _ fill _ _ =>
            let zero := (t.words.pre.map fun p => p.pol == 1).getD false
            if dstOf d = .push || zero then t.receive d fill else t.step
          | none, _ => t.step

/-- Whether the prefix mask makes a thread active. -/
def View.active (v : View) : Bool := v.t.maskTrue v.t.words

/-- What an inactive member of an expanding load is to receive: zero, or the merge source (R77). -/
def View.fillValue (v : View) : Reg :=
  match v.t.words.pre with
  | some p => if p.pol = 0 && p.cuse = 2 then v.read p.c else 0
  | none => 0

/-- A compressing store. -/
def State.stcOp (s : State) (d a b : BitVec 7) (n : Nat) : Out :=
  s.rendezvous (stcForm d a b) b (fun v m r => .compress m (v.read a) (v.read d) v.active r) (State.finishStc n)

/-- `STC_32` (R159). -/
def execStc32 (d a b : BitVec 7) (s : State) : Out := s.stcOp d a b 4

/-- `STC_64` (R159). -/
def execStc64 (d a b : BitVec 7) (s : State) : Out := s.stcOp d a b 8

/-- An expanding load. -/
def State.ldeOp (s : State) (d a b : BitVec 7) (n : Nat) : Out :=
  s.rendezvous (ldeForm d a b) b (fun v m r => .compress m (v.read a) v.fillValue v.active r) (State.finishLde d n)

/-- `LDE_32` (R160). -/
def execLde32 (d a b : BitVec 7) (s : State) : Out := s.ldeOp d a b 4

/-- `LDE_64` (R160). -/
def execLde64 (d a b : BitVec 7) (s : State) : Out := s.ldeOp d a b 8

end Sys2Proof.Machine
end

