-- ==== Sys2Proof/Machine/Walk.lean ====
section
/-! DEFINITION. Major 0x23: ragged walks (R162 to R166). -/

namespace Sys2Proof.Machine

open Sys2Proof

/-! ### The request and the grant (R164) -/

/-- The granule of an ALIGN code. -/
def granule (code : Nat) : Nat := match code with | 0 => 1 | 1 => 4 | 2 => 8 | 3 => 16 | _ => 32

/-- The largest ALIGN code whose granule does not exceed a number of threads. -/
def largestAlign (t : Nat) : Nat := if t ≥ 32 then 4 else if t ≥ 16 then 3 else if t ≥ 8 then 2 else if t ≥ 4 then 1 else 0

/-- The fields of a request word: PH, PV, PACK, ALIGN, WIDTH. -/
structure WalkRequest where
  ph : Nat
  pv : Nat
  pack : Bool
  align : Nat
  width : Nat
  deriving DecidableEq, Repr

/-- The fields of a request word, unless R164 makes it a walk-configuration fault. -/
def walkRequest (r : Reg) : Option WalkRequest :=
  let q : WalkRequest :=
    { ph := (bf r 16 4).toNat, pv := (bf r 12 4).toNat, pack := r.getLsbD 11, align := (bf r 8 3).toNat,
      width := (bf r 0 8).toNat }
  if bf r 20 44 ≠ 0 ∨ q.width = 0 ∨ 4 < q.align ∨ ¬(q.ph ≤ 11 ∨ q.ph = 13) ∨ 11 < q.pv ∨ q.pv = q.ph then none
  else some q

/-- The grant for a group of `t` threads. -/
def WalkRequest.grant (q : WalkRequest) (t : Nat) : WalkRequest :=
  let a := min q.align (largestAlign t)
  { q with align := a, width := min q.width t / granule a * granule a }

/-- The grant word. -/
def WalkRequest.word (q : WalkRequest) : Reg :=
  BitVec.ofNat 64 (q.ph * 65536 + q.pv * 4096 + (if q.pack then 2048 else 0) + q.align * 256 + q.width)

/-- The walk-configuration fault (R164). -/
def walkConfigTrap : Trap := trap .walkConfiguration 0

/-! ### Steps (R165) -/

/-- A load that a group makes once for all its threads. -/
def State.groupLoad (s : State) (c w : Nat) (a : Reg) (n : Nat) : State × Except Trap Reg :=
  match addrTrap .global a n with
  | some x => (s, .error x)
  | none =>
    match s.loadGlobal ⟨c, some w⟩ {} a n 0 with
    | (s, .error x) => (s, .error x)
    | (s, .ok b) => (s, .ok (leReg b))

/-- The least multiple of `g` not below `x`. -/
def roundUp (x g : Nat) : Nat := (x + g - 1) / g * g

/-- The element offset at which a walk's current row starts. -/
def Walk.rowBase (k : Walk) : Nat := if k.stride = 0 then k.base else k.row * k.stride

/-- Passes to the next row. -/
def Walk.nextRow (k : Walk) (len : Nat) : Walk := { k with row := k.row + 1, col := 0, base := k.base + len, len := none }

/-- The step of R165: the walk with its cursor moved and its assignments made, and the GTIDs at which segments start. The
number bounds the turns of the loop (DEDUCED: notes/assumptions/42). -/
def State.walkStep (c w : Nat) : Nat → Nat → List Nat → Walk → State → State × Except Trap (Walk × List Nat)
  | 0, _, heads, k, s => (s, .ok (k, heads))
  | fuel + 1, pos, heads, k, s =>
    if pos < k.width ∧ k.row < k.rows then
      let read : State × Except Trap Nat :=
        match k.len with
        | some l => (s, .ok l)
        | none =>
          match s.groupLoad c w (k.lentab + BitVec.ofNat 64 (4 * k.row)) 4 with
          | (s, .error x) => (s, .error x)
          | (s, .ok v) => (s, .ok v.toNat)
      match read with
      | (s, .error x) => (s, .error x)
      | (s, .ok l) =>
        let k := { k with len := some l }
        if l ≤ k.col then State.walkStep c w fuel pos heads (k.nextRow l) s
        else
          let take := min (l - k.col) (k.width - pos)
          let assigned := (List.range k.assigned.length).map fun i =>
            if pos ≤ i ∧ i < pos + take then some (k.row, k.col + (i - pos), k.rowBase + k.col + (i - pos))
            else (k.assigned[i]?).getD none
          let k := { k with assigned := assigned, col := k.col + take }
          let k := if k.col = l then k.nextRow l else k
          let heads := heads ++ [pos]
          if k.pack then State.walkStep c w fuel (roundUp (pos + take) (granule k.align)) heads k s
          else (s, .ok (k, heads))
    else (s, .ok (k, heads))

/-- The elements of a step. -/
def Walk.count (k : Walk) : Nat := (k.assigned.filter Option.isSome).length

/-- Computes a step of a group's walk, with the assignments cleared first, and sets the predicates PV and PH of the live
threads. -/
def State.takeStep (s : State) (c w g : Nat) (k : Walk) : State × Except Trap Walk :=
  let k := { k with assigned := k.assigned.map fun _ => none }
  match State.walkStep c w (k.rows - k.row + k.width + 1) 0 [] k s with
  | (s, .error x) => (s, .error x)
  | (s, .ok (k, heads)) =>
    let s := (List.range k.assigned.length).foldl (init := s) fun s i => s.modThread ⟨w, g, i⟩ fun t =>
      if t.isLive then
        let t := t.writeNow (.pred k.pv) (bit ((k.assigned[i]?).getD none).isSome)
        if k.ph ≤ 11 then t.writeNow (.pred k.ph) (bit (heads.contains i)) else t
      else t
    (s.modGrp w g fun x => { x with walk := some k }, .ok k)

/-- Reads the four 64-bit words of a walk descriptor (R163). -/
def State.walkDescriptor (s : State) (c w : Nat) (a : Reg) : State × Except Trap (List Reg) :=
  (List.range 4).foldl (init := (s, Except.ok [])) fun acc i =>
    match acc with
    | (s, .error x) => (s, .error x)
    | (s, .ok l) =>
      match s.groupLoad c w (a + BitVec.ofNat 64 (8 * i)) 8 with
      | (s, .error x) => (s, .error x)
      | (s, .ok v) => (s, .ok (l ++ [v]))

/-- A walk as configured: the descriptor's fields and the grant, the cursor at the first row. -/
def Walk.start (ws : List Reg) (q : WalkRequest) (threads : Nat) : Walk :=
  let top := ws.getD 3 0
  { stride := (bf top 32 32).toNat, rows := (bf top 0 24).toNat, outbase := ws.getD 2 0, inbase := ws.getD 1 0,
    lentab := ws.getD 0 0, ph := q.ph, pv := q.pv, pack := q.pack, align := q.align, width := q.width,
    row := 0, col := 0, base := 0, len := none, assigned := List.replicate threads none }

/-- The outcome of a walk instruction of a group, which began in a machine: when a load of it has met a bucket whose handover is awaited,
the group issues again (R281). -/
def State.unlessHeld (s : State) (w g : Nat) (t : State) (act : GroupAct) : GroupAct :=
  if t.handovers ≠ s.handovers then .settled (s.modGrp w g fun y => y.mapLive Thread.reissue) else act

/-- `WALKSET` (R164, R165): the request word is checked before the descriptor is read (DESIGN CHOICE: notes/assumptions/105). -/
def execWalkset (d a b : BitVec 7) (s : State) : Out :=
  s.uniform (walkUniformForm d [a, b]) fun s w g _ =>
    match s.wg? w, s.grp? w g with
    | some x, some gr =>
      match walkRequest (gr.read b) with
      | none => .fault s walkConfigTrap
      | some q =>
        match s.walkDescriptor x.ctx w (gr.read a) with
        | (u, .error t) => s.unlessHeld w g u (.fault u t)
        | (u, .ok ws) =>
          let grant := q.grant gr.threads.length
          let k := Walk.start ws grant gr.threads.length
          if bf (ws.getD 3 0) 24 8 ≠ 0 ∨ k.rows = 0 then s.unlessHeld w g u (.fault u walkConfigTrap)
          else match u.takeStep x.ctx w g k with
            | (u, .error t) => s.unlessHeld w g u (.fault u t)
            | (u, .ok _) => s.unlessHeld w g u (.done (u.writeScalarDst w g d grant.word))
    | _, _ => .done s

/-- The walk-state fault (R166). -/
def walkStateTrap : Trap := trap .walkState 0

/-- `WALKNEXT` (R165). -/
def execWalknext (d : BitVec 7) (s : State) : Out :=
  s.uniform (walkUniformForm d []) fun s w g _ =>
    match s.wg? w, s.grp? w g with
    | some x, some gr =>
      match gr.walk with
      | none => .fault s walkStateTrap
      | some k =>
        match s.takeStep x.ctx w g k with
        | (u, .error t) => s.unlessHeld w g u (.fault u t)
        | (u, .ok k) => s.unlessHeld w g u (.done (u.writeScalarDst w g d (BitVec.ofNat 64 k.count)))
    | _, _ => .done s

/-! ### Accesses (R166) -/

/-- The assignment of a thread; the outer level is none before the group's first `walkset`. -/
def View.assignment (v : View) : Option (Option (Nat × Nat × Nat)) :=
  v.grp.walk.map fun k => (k.assigned[v.gtid]?).getD none

/-- A lane of `walkld`; a load whose request is held issues again. Before the group's first `walkset` an inactive lane takes the walk-state fault too
(DESIGN CHOICE: notes/assumptions/105). -/
def walkLoadLane (d a : BitVec 7) (n : Nat) : Lane := fun s v =>
  match v.grp.walk with
  | none => (s, .error walkStateTrap)
  | some k =>
    if v.active then
      match (k.assigned[v.gtid]?).getD none with
      | none => (s, .ok (v.t.writeDest d none 0).step)
      | some (_, _, off) =>
        let addr := k.inbase + v.read a + BitVec.ofNat 64 (off * n)
        if s.mustWait v (some {}) addr n then (s, .ok v.t.reissue)
        else match s.loadThread v .global {} addr n with
        | (s, .error x) => (if x.cause = .machineCheck then s.loadNothing v d addr else s, .error x)
        | (s, .ok (t, bs)) => (s, .ok (t.writeDest d none (leReg bs)).step)
    else (s, .ok (v.inactiveDest d none).step)

/-- A lane of a row or column form; the walk-state fault as at `walkLoadLane` (DESIGN CHOICE: notes/assumptions/105). -/
def walkPlaceLane (d : BitVec 7) (pick : Nat × Nat × Nat → Nat) : Lane := fun s v =>
  match v.assignment with
  | none => (s, .error walkStateTrap)
  | some p =>
    if v.active then
      (s, .ok (v.t.writeDest d none (match p with | none => 0xFFFFFFFF | some q => BitVec.ofNat 64 (pick q))).step)
    else (s, .ok (v.inactiveDest d none).step)

/-- A lane of `walkst`; the walk-state fault as at `walkLoadLane` (DESIGN CHOICE: notes/assumptions/105). -/
def walkStoreLane (d a : BitVec 7) (n : Nat) : Lane := fun s v =>
  match v.grp.walk with
  | none => (s, .error walkStateTrap)
  | some k =>
    match v.active, (k.assigned[v.gtid]?).getD none with
    | true, some (_, _, off) =>
      let addr := k.outbase + v.read a + BitVec.ofNat 64 (off * n)
      match s.storeSpace v .global { rel := v.t.releases none } addr (leBytes n (v.read d).toNat) with
      | (s, .error x) => (s, .error x)
      | (s, .ok ()) => (s, .ok (v.t.voidEarly (s.location v .global addr) n).step)
    | _, _ => (s, .ok v.t.step)

/-- `WALKLD_32` (R166). -/
def execWalkld32 (d a : BitVec 7) (s : State) : Out := s.perLane (walkldForm d [a]) (walkLoadLane d a 4)

/-- `WALKLD_64` (R166). -/
def execWalkld64 (d a : BitVec 7) (s : State) : Out := s.perLane (walkldForm d [a]) (walkLoadLane d a 8)

/-- `WALKLD_ROW` (R166). -/
def execWalkldRow (d : BitVec 7) (s : State) : Out := s.perLane (walkldForm d []) (walkPlaceLane d fun p => p.1)

/-- `WALKLD_COL` (R166). -/
def execWalkldCol (d : BitVec 7) (s : State) : Out := s.perLane (walkldForm d []) (walkPlaceLane d fun p => p.2.1)

/-- `WALKST_32` (R166). -/
def execWalkst32 (d a : BitVec 7) (s : State) : Out := s.perLane (walkstForm d a) (walkStoreLane d a 4)

/-- `WALKST_64` (R166). -/
def execWalkst64 (d a : BitVec 7) (s : State) : Out := s.perLane (walkstForm d a) (walkStoreLane d a 8)

end Sys2Proof.Machine
end

