-- ==== Sys2Proof/Machine/Queues.lean ====
section
/-! DEFINITION. What the engines share: commands and their acceptance, completion counts (R169), the engine flag word (R65),
and scratchpad as an engine reads and writes it. -/

namespace Sys2Proof.Machine

open Sys2Proof

/-- A command of a group, as it is accepted. -/
def State.newCommand (s : State) (w g : Nat) (counted : List (Nat × Nat)) (regs : List Reg) (data : List Byte) (op : Instr) :
    Command :=
  { op := op, wg := w, grp := g, counted := counted, regs := regs, data := data, tables := [], bar := none, slack := 0,
    completedAt := 0, order := s.nextId, progress := 0, stopped := false, dying := false, afloat := [], owed := 0 }

/-- A command acts: what it reads of bytes that others have written since it was accepted is left to R189 and R226. The record of
overwritten bytes ends with the last command. -/
def State.actAs (s : State) (c : Command) (f : State → State) : State :=
  { (f { s with acting := some c.order }) with acting := none }

/-- Whether commands of a group can come to read a byte that was overwritten: one of global memory, or of a window of its cluster
launch. -/
def State.mayRead (s : State) (e : Overwritten) (g : Nat × Nat) : Bool :=
  match e.wg with
  | none => true
  | some w => w == g.1 || ((s.wg? w).map fun x => x.peers.contains g.1).getD false

/-- Once no engine has a command, only those overwritten bytes are kept whose writes are not ordered before what some group does, so
that a command of its may still read them as they were (R189). -/
def State.quiet (s : State) : State :=
  if s.enginesBusy || s.overwritten.isEmpty then s
  else
    let gs := (s.wgs.filter Workgroup.ongoing).flatMap fun x => (List.range x.groups.length).map fun i => (x.id, i)
    { s with overwritten := (s.overwritten.filter fun e => gs.any fun g => s.mayRead e g && !e.orderedFor s g).map fun e =>
        { e with races := [] } }

/-- What the command in action reads from a window (R189, R226). -/
def State.windowRead (s : State) (w off n : Nat) : State × List Byte :=
  s.raced (some w) off (((s.wg? w).map fun x => x.readSpad off n).getD [])

/-- The windows as the command in action reads them: each byte that was overwritten after the command was accepted holds any of
the values it held (R189). -/
def State.mixWindows (s : State) (ws : List Nat) : State :=
  let places := (s.overwritten.filterMap fun e => e.wg.bind fun w => if ws.contains w then some (w, e.addr) else none).eraseDups
  places.foldl (init := s) fun s p =>
    let (s, b) := s.racedByte (some p.1) p.2 (((s.wg? p.1).map fun x => Sparse.get x.spad p.2).getD 0)
    s.modWg p.1 fun x => { x with spad := Sparse.set x.spad p.2 b }

/-- Does something that reads windows and writes none, with the windows as the command in action reads them. -/
def State.withMixed (s : State) (ws : List Nat) (f : State → State) : State :=
  let t := f (s.mixWindows ws)
  { t with wgs := t.wgs.map fun x => match s.wg? x.id with | some y => { x with spad := y.spad } | none => x }

/-- The machine as a command that is being accepted for groups reads some windows (R189, R212): a byte whose overwriting is not ordered
before it may be read as it was. The first answer is the machine itself, from which only free values have been drawn. -/
def State.seenAt (s : State) (gs : List (Nat × Nat)) (ws : List Nat) : State × State :=
  let t := ({ s.acceptRaces s.nextId gs with acting := some s.nextId } : State).mixWindows ws
  ({ s with freeCtr := t.freeCtr }, { t with acting := none })

/-- A workgroup in the machine as a command that is being accepted reads it. -/
def State.seenWg (m : State) (x : Workgroup) : Workgroup := (m.wg? x.id).getD x

/-- Whether a queue of 16 entries is full (R168, R193). -/
def queueFull (q : List Command) : Bool := q.length ≥ 16

/-- Raises or lowers a completion count of the groups that a command counts in. -/
def State.counts (s : State) (gs : List (Nat × Nat)) (f : Group → Group) : State :=
  gs.foldl (init := s) fun s e => s.modGrp e.1 e.2 f

/-- Adds the occupancy of an engine to a counter of the sampler, for the context of the workgroup that its command is of (R312,
R381). -/
def State.countBusy (s : State) (w i n : Nat) : State :=
  match s.wg? w with
  | some x => s.countBy x.ctx i n
  | none => s

/-- Flags raised by an engine for a workgroup (R65). -/
def State.engineRaise (s : State) (w : Nat) (f : FlagSet) : State :=
  s.modWg w fun x => { x with eflags := x.eflags ||| f.setWidth 5 }

/-- The tile a command of the matrix or the lookup engine names (R190). -/
def Command.tile? (c : Command) : Option Nat :=
  match c.op with
  | .mma _ _ t _ _ _ | .mtrans _ _ t _ _ | .mperm _ _ t _ _ | .mrsum _ _ t _ _ | .accld t _ | .accst t _ | .acczero t
  | .tlook _ t _ => some t.toNat
  | _ => none

/-- Whether a command must wait for another that names the same tile of its workgroup and was accepted earlier (R190). -/
def Command.after (c d : Command) : Bool := c.wg == d.wg && c.tile?.isSome && c.tile? == d.tile? && d.order < c.order

/-- Writes that one command makes to a scratchpad window, in the order given; a byte that several of them write is left
with the value of one of them, which a free value picks (R184) (DEDUCED: notes/assumptions/51). -/
def State.engineWrites (w : Nat) : List (Nat × List Byte) → List (Nat × BitVec 1) → State → State
  | [], _, s => s
  | (a, bs) :: t, done, s =>
    if (List.range bs.length).all fun i => Sparse.get done (a + i) = 0 then
      State.engineWrites w t ((List.range bs.length).foldl (init := done) fun d i => Sparse.set d (a + i) 1) (s.writeSpad w a bs)
    else
      let old := ((s.wg? w).map fun x => x.readSpad a bs.length).getD []
      let (s, v) := s.draw
      let mixed := (List.range bs.length).map fun i =>
        if Sparse.get done (a + i) = 0 || (v >>> (i % 64)).getLsbD 0 then bs.getD i 0 else old.getD i 0
      State.engineWrites w t ((List.range bs.length).foldl (init := done) fun d i => Sparse.set d (a + i) 1)
        (s.writeSpad w a mixed)

/-- Writes that no two of a command make to one byte. -/
def State.plainWrites (s : State) (w : Nat) (l : List (Nat × List Byte)) : State :=
  l.foldl (init := s) fun s e => s.writeSpad w e.1 e.2

/-- An accumulator tile after a function of index and old element (row × 192 + column), and the flags it raises. -/
def tileRemap (f : Nat → BitVec 32 → BitVec 32 × FlagSet) : Nat → Nat → Words32 → Words32 × FlagSet
  | 0, _, _ => ([], 0)
  | n + 1, i, l =>
    let (v, rest) : BitVec 32 × Words32 := match l with
      | (k, v) :: t => if k = i then (v, t) else (0, l)
      | [] => (0, [])
    let (x, fl) := f i v
    let (out, gl) := tileRemap f n (i + 1) rest
    (if x = 0 then out else (i, x) :: out, fl ||| gl)

/-- Updates a tile of a workgroup, raising the flags in its engine flag word. -/
def State.updateTile (s : State) (w t : Nat) (f : Nat → Nat → BitVec 32 → BitVec 32 × FlagSet) : State :=
  match s.wg? w with
  | none => s
  | some x =>
    let (out, fl) := tileRemap (fun i v => f (i / 192) (i % 192) v) 24576 0 ((x.tiles[t]?).getD [])
    (s.modWg w fun x => { x with tiles := x.tiles.setIfInBounds t out }).engineRaise w fl

/-- Whether a mask enables the block of 32 that a row or column lies in. -/
def blockOn {n : Nat} (mask : BitVec n) (i : Nat) : Bool := mask.getLsbD (i / 32)

end Sys2Proof.Machine
end

