-- ==== Sys2Proof/Machine/Matrix.lean ====
section
/-! DEFINITION. Majors 0x24, 0x25 and 0x26: the matrix engine, its gangs and the accumulator store (R168 to R192). -/

namespace Sys2Proof.Machine

open Sys2Proof

/-! ### Descriptors and slabs (R170, R171) -/

/-- TYPE of an operand descriptor. -/
def descType (d : Reg) : Nat := (bf d 60 4).toNat

/-- KB of an operand descriptor. -/
def descKb (d : Reg) : Nat := (bf d 51 3).toNat

/-- OFFSET of an operand descriptor. -/
def descOffset (d : Reg) : Nat := (bf d 0 23).toNat

/-- REM of an operand descriptor. -/
def descRem (d : Reg) : Bool := d.getLsbD 57

/-- RANK of an operand descriptor. -/
def descRank (d : Reg) : Nat := (bf d 58 2).toNat

/-- Whether an element type has 16 bits. -/
def is16 (t : Nat) : Bool := t = 9 || t = 10

/-- The block size U of R60 for an element type. -/
def blockSize (t : Nat) : Nat := if is16 t then 8 else 32

/-- The number of elements K of a descriptor's K-step. -/
def descK (d : Reg) : Nat := descKb d * blockSize (descType d)

/-- The most blocks a K-step of a type has. -/
def kbLimit (t : Nat) : Nat := if is16 t || t = 14 then 4 else 2

/-- Header bytes per line: 4 for DB8, 8 for DB4. -/
def headerBytes (t : Nat) : Nat := if t = 13 then 4 else if t = 14 then 8 else 0

/-- The lines of a slab: 128 of A, 192 of B. -/
def slabLines (isA : Bool) : Nat := if isA then 128 else 192

/-- The extent of a slab. -/
def slabExtent (isA : Bool) (t : Nat) : Nat := slabLines isA * (64 + headerBytes t)

/-- How a descriptor is used: as a result descriptor, a plain one, or an index vector. -/
inductive DescUse where
  | result | plain | index
  deriving DecidableEq, Repr

/-- Check 3 of R172 on one descriptor. -/
def descLegal (u : DescUse) (d : Reg) : Bool :=
  let t := descType d
  [0, 4, 9, 10, 11, 12, 13, 14].contains t && (descRem d || descRank d = 0) && bf d 23 28 = 0 &&
  descOffset d % 256 = 0 &&
  (match u with
   | .result => (bf d 54 2).toNat ≤ 1 && 1 ≤ descKb d && descKb d ≤ kbLimit t
   | .plain => bf d 54 3 = 0 && 1 ≤ descKb d && descKb d ≤ kbLimit t
   | .index => bf d 54 3 = 0 && descKb d = 0 && t = 4)

/-- The accumulator type that a pair of types requires (R173): 1 for INT32, 0 for FP32; none where not implemented. -/
def combination (a b : Nat) : Option Nat :=
  let narrow (t : Nat) : Bool := t = 11 || t = 12 || t = 13
  if (a = 0 || a = 4) && (b = 0 || b = 4) then some 1
  else if is16 a && a = b then some 0
  else if narrow a && narrow b then some 0
  else if a = 14 && b = 14 then some 0
  else none

/-- An element of a line of a slab (R171), decoded exactly; an integer is given as a finite value. -/
def lineElement (t : Nat) (line hdr : List Byte) (k : Nat) : FVal :=
  let byte (i : Nat) : Nat := (line.getD i 0).toNat
  let header : Nat := leNat ((hdr.drop (2 * (k / 32))).take 2)
  if t = 14 then denuskDecode true (header % 256) (header / 256) (byte (k / 2) / 16 ^ (k % 2) % 16)
  else if t = 13 then denuskDecode false (header % 256) (header / 256) (byte k)
  else if is16 t then ((fmtOfType t).getD bf16).decode (byte (2 * k) + 256 * byte (2 * k + 1))
  else if t = 0 || t = 4 then
    let n := intOperand t (BitVec.ofNat 64 (byte k))
    .fin (n < 0) n.natAbs 0
  else ((fmtOfType t).getD e4m3).decode (byte k)

/-- Line `i` of a slab. -/
def slabLine (m : List Host.Cell) (isA : Bool) (d : Reg) (i : Nat) : List FVal :=
  let t := descType d
  let line := readBytes m (descOffset d + 64 * i) 64
  let hdr := readBytes m (descOffset d + 64 * slabLines isA + headerBytes t * i) (headerBytes t)
  (List.range (descK d)).map (lineElement t line hdr)

/-- The scratchpad that a descriptor's slab lies in: the workgroup's own, or a peer's (R176). -/
def State.slabSpad (s : State) (x : Workgroup) (d : Reg) : List Host.Cell :=
  if descRem d then (((s.peerOf x (descRank d)).bind s.wg?).map Workgroup.spad).getD [] else x.spad

/-! ### Products (R175, R180 to R183) -/

/-- A product command, as its fields name it. -/
structure Product where
  sa : BitVec 5
  sb : BitVec 5
  acc : BitVec 3
  gang : BitVec 3
  rowm : BitVec 4
  colm : BitVec 6

/-- The fields of a product instruction. -/
def productOf (i : Instr) : Option Product :=
  match i with
  | .mma a b c g r m => some ⟨a, b, c, g, r, m⟩
  | .mtrans a b c g r | .mperm a b c g r | .mrsum a b c g r => some ⟨a, b, c, g, r, 0x3F⟩
  | _ => none

/-- The exact sum of products of integers. -/
def intSum (ps : List (FVal × FVal)) : Int :=
  ps.foldl (init := 0) fun n p => match p.1, p.2 with
    | .fin a x _, .fin b y _ => n + (if a != b then -((x * y : Nat) : Int) else ((x * y : Nat) : Int))
    | _, _ => n

/-- The update of an element by K products (R60 to R62, R175). -/
def updateElement (d : Reg) (old : BitVec 32) (ps : List (FVal × FVal)) : BitVec 32 × FlagSet :=
  let c : BitVec 32 := if d.getLsbD 56 then 0 else old
  if bf d 54 2 = 1 then (c + BitVec.ofInt 32 (intSum ps), 0)
  else
    let (r, f) := accumulateBlocks .rne (blockSize (descType d)) (descKb d) c.toNat ps
    (BitVec.ofNat 32 r, f)

/-- The value one. -/
def oneVal : FVal := .fin false 1 0

/-- The vector that picks element `j` of K. -/
def unitVector (k j : Nat) : List FVal := (List.range k).map fun i => if i = j then oneVal else .fin false 0 0

/-- The pairs a[k], b[k] for an output element, or none where the command leaves it (R175, R181 to R183). -/
def productPairs (i : Instr) (p : Product) (da db : Reg) (idx : List Byte) (a b : Array (List FVal)) (m n : Nat) :
    Option (List (FVal × FVal)) :=
  let k := descK da
  if !blockOn p.rowm m then none
  else match i with
    | .mma .. => if blockOn p.colm n then some ((a.getD m []).zip (b.getD n [])) else none
    | .mtrans .. =>
      let base := (bf db 0 7).toNat
      if base ≤ m ∧ m < base + k then
        let r := m - base
        some ((unitVector k (if db.getLsbD 7 then k - 1 - r else r)).zip (b.getD n []))
      else none
    | .mperm .. =>
      let x := (idx.getD m 0xFF).toNat
      if x < k then some ((unitVector k x).zip (b.getD n [])) else none
    | _ => if n = (bf db 0 8).toNat then some ((a.getD m []).map fun v => (v, oneVal)) else none

/-- Performs a product command (R175). -/
def State.performProduct (s : State) (c : Command) (p : Product) : State :=
  match s.wg? c.wg with
  | none => s
  | some x =>
    let da := c.regs.getD 0 0
    let db := c.regs.getD 1 0
    let isMma : Bool := match c.op with | .mma .. => true | _ => false
    let isSum : Bool := match c.op with | .mrsum .. => true | _ => false
    let empty := p.rowm = 0 || (isMma && p.colm = 0)
    if empty then s
    else
      let rows : Array (List FVal) :=
        if isMma || isSum then
          ((List.range 128).map fun m => if blockOn p.rowm m then slabLine (s.slabSpad x da) true da m else []).toArray
        else #[]
      let cols : Array (List FVal) :=
        if isMma then
          ((List.range 192).map fun n => if blockOn p.colm n then slabLine (s.slabSpad x db) false db n else []).toArray
        else if isSum then #[]
        else ((List.range 192).map fun n => slabLine (s.slabSpad x da) false da n).toArray
      s.updateTile c.wg p.acc.toNat fun m n old =>
        match productPairs c.op p da db c.data rows cols m n with
        | none => (old, 0)
        | some ps => updateElement da old ps

/-! ### The checks of R172 -/

/-- The matrix-descriptor fault, at a scalar register. -/
def matrixDescTrap (r : BitVec 5) : Trap := trap .matrixDescriptor (r.setWidth 64)

/-- Checks 1 and 2 of R172 for a member group. -/
def firstChecks (x : Workgroup) (g : Nat) (p : Product) : Option Trap :=
  if x.tilesHeld ≤ p.acc.toNat then some (trap .unallocatedResource (p.acc.setWidth 64))
  else if p.gang = 0 then none
  else
    let k := p.gang.toNat - 4
    match x.gangs[k]? with
    | some r => if r.valid && r.members.getLsbD g then none else some (trap .gangConfiguration (BitVec.ofNat 64 k))
    | none => some (trap .gangConfiguration (BitVec.ofNat 64 k))

/-- Whether the second operand passes check 3 of R172, SA having passed. -/
def secondLegal (i : Instr) (da db : Reg) : Bool :=
  match i with
  | .mma .. => descLegal .plain db && descKb da = descKb db
  | .mtrans .. => bf db 8 56 = 0 && (bf db 0 7).toNat + descK da ≤ 128
  | .mperm .. => descLegal .index db
  | _ => bf db 8 56 = 0 && (bf db 0 8).toNat ≤ 191

/-- The slabs a product reads: a descriptor and the extent (R171, R182). -/
def productExtents (i : Instr) (da db : Reg) : List (Reg × Nat) :=
  match i with
  | .mma .. => [(da, slabExtent true (descType da)), (db, slabExtent false (descType db))]
  | .mtrans .. => [(da, slabExtent false (descType da))]
  | .mperm .. => [(da, slabExtent false (descType da)), (db, 128)]
  | _ => [(da, slabExtent true (descType da))]

/-- The bytes of the index vector of `mperm`. -/
def State.indexVector (s : State) (x : Workgroup) (i : Instr) (db : Reg) : List Byte :=
  match i with
  | .mperm .. => readBytes (s.slabSpad x db) (descOffset db) 128
  | _ => []

/-- The windows that a command's workgroup can read: its own and its peers' (R176). -/
def State.windowsOf (s : State) (w : Nat) : List Nat :=
  w :: (((s.wg? w).map Workgroup.peers).getD []).filter (· ≠ w)

/-- The windows that a product reads at its acceptance: those that can hold the index vector of `mperm`. -/
def State.indexWindows (s : State) (x : Workgroup) (i : Instr) : List Nat := match i with | .mperm .. => s.windowsOf x.id | _ => []

/-- The lowest offset at which one of several ranges lies outside a window (R172 check 6). -/
def lowestBeyond (window : Nat) (l : List (Nat × Nat)) : Option Nat :=
  (l.filterMap fun e => rangeBeyond window e.1 e.2).min?

/-- Checks 3 to 7 of R172. Of two descriptors that fail check 5 the first is reported, and check 7 reports the window offset of
the index (DESIGN CHOICE: notes/assumptions/106). -/
def State.laterChecks (s : State) (x : Workgroup) (i : Instr) (p : Product) (da db : Reg) : Option Trap :=
  if !descLegal .result da then some (matrixDescTrap p.sa)
  else if !secondLegal i da db then some (matrixDescTrap p.sb)
  else
    let tb := match i with | .mma .. => descType db | _ => descType da
    if combination (descType da) tb ≠ some (bf da 54 2).toNat then
      some (trap .unimplementedCombination (p.sa.setWidth 64))
    else
      let es := productExtents i da db
      match es.find? fun e => descRem e.1 && (x.peers.isEmpty || x.launchSize ≤ descRank e.1) with
      | some e => some (trap .clusterRank (BitVec.ofNat 64 (descRank e.1)))
      | none =>
        match lowestBeyond x.window (es.map fun e => (descOffset e.1, e.2)) with
        | some o => some (trap .scratchpadRange (BitVec.ofNat 64 o))
        | none =>
          let idx := s.indexVector x i db
          match (List.range idx.length).find? fun m =>
              blockOn p.rowm m && (idx.getD m 0) ≠ 0xFF && descK da ≤ (idx.getD m 0).toNat with
          | some m => some (trap .matrixIndex (BitVec.ofNat 64 (descOffset db + m)))
          | none => none

/-! ### Acceptance (R168, R178) -/

/-- Enters a command in a core's matrix queue and raises the counts (R169). -/
def State.acceptMatrix (s : State) (x : Workgroup) (c : Command) : State :=
  let s : State := { s.acceptRaces c.order c.counted with nextId := s.nextId + 1 }
  (s.modCore x.core fun k => { k with matrix := k.matrix ++ [c] }).counts c.counted fun g => { g with matrixCount := g.matrixCount + 1 }

/-- Whether a workgroup's matrix queue is full. -/
def State.matrixFull (s : State) (x : Workgroup) : Bool := ((s.core? x.core).map fun k => queueFull k.matrix).getD false

/-- The groups a gang lists. -/
def Gang.groups (g : Gang) : List Nat := (List.range 16).filter fun i => g.members.getLsbD i

/-- A fault that every live thread of several groups takes, one delivery per group (DEDUCED: notes/assumptions/53). -/
def State.groupsFault (s : State) (w : Nat) (gs : List Nat) (x : Trap) : State :=
  let ds := gs.map fun g => s.groupDelivery w g x
  let s := gs.foldl (init := s) fun s g => s.modGrp w g fun y => { y with latch := none }
  s.takeFaults ds

/-- A product command of one group, or of a gang (R168, R172, R178, R179). -/
def State.productAct (i : Instr) (p : Product) (s : State) (w g : Nat) : GroupAct :=
  match s.wg? w, s.grp? w g with
  | some x, some gr =>
    match firstChecks x g p with
    | some t => .fault s t
    | none =>
      let da := gr.scalar p.sa
      let db := gr.scalar p.sb
      if p.gang = 0 then
        let (s, m) := s.seenAt [(w, g)] (s.indexWindows x i)
        match m.laterChecks (m.seenWg x) i p da db with
        | some t => .fault s t
        | none =>
          if s.matrixFull x then .wait s
          else .done (s.acceptMatrix x (s.newCommand w g [(w, g)] [da, db] (m.indexVector (m.seenWg x) i db) i))
      else
        let k := p.gang.toNat - 4
        let members := ((x.gangs[k]?).map Gang.groups).getD []
        if members.any fun m => ((x.groups[m]?).map fun y => y.liveGtids.isEmpty).getD true then
          .fault s (trap .gangMismatch (BitVec.ofNat 64 k))
        else
          let mine : List Reg := [BitVec.ofNat 64 k, s.ir.setWidth 64, da, db]
          let s := s.modGrp w g fun y => { y with latch := some mine }
          let waits (s : State) : State := s.modGrp w g fun y => y.mapLive fun t => { t with wait := .latch }
          let entered := members.filter fun m =>
            ((s.grp? w m).bind Group.latch).bind List.head? == some (BitVec.ofNat 64 k)
          if entered ≠ members then .settled (waits s)
          else if members.any fun m => (s.grp? w m).bind Group.latch ≠ some mine then
            .settled (s.groupsFault w members (trap .gangMismatch (BitVec.ofNat 64 k)))
          else
            let (s, m) := s.seenAt (members.map fun m => (w, m)) (s.indexWindows x i)
            match m.laterChecks (m.seenWg x) i p da db with
            | some t => .settled (s.groupsFault w members t)
            | none =>
              if s.matrixFull x then .wait s
              else
                let s := s.acceptMatrix x
                  (s.newCommand w g (members.map fun m => (w, m)) [da, db] (m.indexVector (m.seenWg x) i db) i)
                .settled (members.foldl (init := s) fun s m =>
                  (s.modGrp w m fun y => { y with latch := none }).latchPasses w m)
  | _, _ => .done s

/-- A product instruction. -/
def State.productOp (s : State) (i : Instr) : Out :=
  match productOf i with
  | none => .next s
  | some p => s.uniform (engineForm (gangOk p.gang)) fun s w g _ => s.productAct i p w g

/-- `MMA` (R175). -/
def execMma (a b : BitVec 5) (c g : BitVec 3) (r : BitVec 4) (m : BitVec 6) (s : State) : Out := s.productOp (.mma a b c g r m)

/-- `MTRANS` (R181). -/
def execMtrans (a b : BitVec 5) (c g : BitVec 3) (r : BitVec 4) (s : State) : Out := s.productOp (.mtrans a b c g r)

/-- `MPERM` (R182). -/
def execMperm (a b : BitVec 5) (c g : BitVec 3) (r : BitVec 4) (s : State) : Out := s.productOp (.mperm a b c g r)

/-- `MRSUM` (R183). -/
def execMrsum (a b : BitVec 5) (c g : BitVec 3) (r : BitVec 4) (s : State) : Out := s.productOp (.mrsum a b c g r)

/-- The set bits of a mask. -/
def popCount16 (v : BitVec 16) : Nat := ((List.range 16).filter fun i => v.getLsbD i).length

/-- `GANG` (R177). -/
def execGang (i : BitVec 3) (a : BitVec 7) (s : State) : Out :=
  s.uniform (engineForm (i.toNat < 4 && isScalarSrc a)) fun s w g _ =>
    match s.wg? w, s.grp? w g with
    | some x, some gr =>
      let v : BitVec 16 := bf (gr.read a) 0 16
      let j := i.toNat
      let pending := x.groups.any fun y => (y.latch.bind List.head?) == some (BitVec.ofNat 64 j)
      let n := popCount16 v
      let bad := v ≠ 0 && (n < 2 || 6 < n || (v >>> x.groups.length) ≠ 0 || !v.getLsbD g)
      if pending || bad then .fault s (trap .gangConfiguration (i.setWidth 64))
      else .done (s.modWg w fun x => { x with gangs := x.gangs.setIfInBounds j { valid := v ≠ 0, members := v } })
    | _, _ => .done s

/-! ### Accumulator copies (R184 to R186) -/

/-- FMT of an accumulator-copy descriptor. -/
def copyFmt (d : Reg) : Nat := (bf d 60 4).toNat

/-- The bytes that a block of 32 columns of one row takes in scratchpad. -/
def copyBlockBytes (f : Nat) : Nat :=
  match f with
  | 13 => 34 | 14 => 18 | 8 => 128 | 2 => 128 | 9 => 64 | 10 => 64 | _ => 32

/-- The place of the block of columns `j` of row `m`. -/
def copyBlockAt (d : Reg) (m j : Nat) : Nat := (bf d 0 23).toNat + m * (bf d 23 23).toNat + j * copyBlockBytes (copyFmt d)

/-- The enabled rows of a descriptor. -/
def copyRows (d : Reg) : List Nat := (List.range 128).filter fun m => blockOn (bf d 52 4) m

/-- The enabled column blocks of a descriptor. -/
def copyBlocks (d : Reg) : List Nat := (List.range 6).filter fun j => (bf d 46 6).getLsbD j

/-- Whether an accumulator-copy descriptor is legal (R184). -/
def copyLegal (store : Bool) (d : Reg) : Bool :=
  (if store then [0, 2, 4, 8, 9, 10, 11, 12, 13, 14] else [2, 8, 9, 10]).contains (copyFmt d) &&
  (if store then (bf d 57 3).toNat ≤ 4 else bf d 57 3 = 0) && !d.getLsbD 56 && bf d 23 2 = 0 && bf d 0 2 = 0

/-- The lowest offset of a copy that lies outside the window. -/
def copyBeyond (window : Nat) (d : Reg) : Option Nat :=
  let offs := (copyRows d).flatMap fun m => (copyBlocks d).filterMap fun j =>
    rangeBeyond window (copyBlockAt d m j) (copyBlockBytes (copyFmt d))
  offs.foldl (init := none) fun r o => some (match r with | none => o | some q => min q o)

/-- Performs `accld` (R185). -/
def State.performAccld (s : State) (c : Command) (t : Nat) : State :=
  match s.wg? c.wg with
  | none => s
  | some x =>
    let d := c.regs.getD 0 0
    let f := copyFmt d
    s.updateTile c.wg t fun m n old =>
      if blockOn (bf d 52 4) m && blockOn (bf d 46 6) n then
        let e := copyBlockBytes f / 32
        let code := leNat (readBytes x.spad (copyBlockAt d m (n / 32) + n % 32 * e) e)
        if f = 8 || f = 2 then (BitVec.ofNat 32 code, 0)
        else
          let (r, fl) := fp32.write .rne false (((fmtOfType f).getD bf16).decode code)
          (BitVec.ofNat 32 r, fl)
      else (old, 0)

/-- The bytes of an element that `accst` writes in a format other than a Denusk one, and its flags (R186). -/
def storeElement (f : Nat) (mode : Rnd) (v : BitVec 32) : List Byte × FlagSet :=
  if f = 8 || f = 2 then (leBytes 4 v.toNat, 0)
  else if f = 0 || f = 4 then (leBytes 1 (saturate f v.toInt).1, 0)
  else
    let fm := (fmtOfType f).getD bf16
    let (r, fl) := fm.write mode false (fp32.decode v.toNat)
    (leBytes (fm.width / 8) r, fl)

/-- The bytes of a Denusk block in memory (R52), from its header and element codes. -/
def denuskBytes (db4 : Bool) (header : Nat) (codes : List Nat) : List Byte :=
  leBytes 2 header ++
  (if db4 then (List.range 16).map fun i => BitVec.ofNat 8 (codes.getD (2 * i) 0 + 16 * codes.getD (2 * i + 1) 0)
   else codes.map (BitVec.ofNat 8))

/-- The bytes that `accst` writes for a block of 32 columns of one row, and their flags. -/
def storeBlock (f : Nat) (mode : Rnd) (tile : Words32) (m j : Nat) : List Byte × FlagSet :=
  let vals := (List.range 32).map fun i => Sparse.get tile (192 * m + 32 * j + i)
  if f = 13 || f = 14 then
    let (h, es) := denuskEncode (f = 14) (vals.map fun v => (fp32.decode v.toNat, .mode mode))
    (denuskBytes (f = 14) h (es.map Prod.fst), es.foldl (init := 0) fun a e => a ||| e.2)
  else
    let es := vals.map (storeElement f mode)
    (es.flatMap Prod.fst, es.foldl (init := 0) fun a e => a ||| e.2)

/-- Performs `accst` (R186). -/
def State.performAccst (s : State) (c : Command) (t : Nat) : State :=
  match s.wg? c.wg with
  | none => s
  | some x =>
    let d := c.regs.getD 0 0
    let f := copyFmt d
    let tile := (x.tiles[t]?).getD []
    let blocks := (copyRows d).flatMap fun m => (copyBlocks d).map fun j => (copyBlockAt d m j, storeBlock f (Rnd.ofCode (bf d 57 3).toNat) tile m j)
    let writes := blocks.map fun b => (b.1, b.2.1)
    let fl := blocks.foldl (init := (0 : FlagSet)) fun a b => a ||| b.2.2
    let span := 6 * copyBlockBytes f
    let s := if (bf d 23 23).toNat < span then State.engineWrites c.wg writes [] s else s.plainWrites c.wg writes
    s.engineRaise c.wg fl

/-- An accumulator copy or clear. -/
def State.accOp (s : State) (i : Instr) (t : BitVec 3) (desc : Option (BitVec 5 × Bool)) : Out :=
  s.uniform (engineForm true) fun s w g _ =>
    match s.wg? w, s.grp? w g with
    | some x, some gr =>
      if x.tilesHeld ≤ t.toNat then .fault s (trap .unallocatedResource (t.setWidth 64))
      else
        let bad : Option Trap := match desc with
          | none => none
          | some (r, store) =>
            let d := gr.scalar r
            if !copyLegal store d then some (matrixDescTrap r)
            else (copyBeyond x.window d).map fun o => trap .scratchpadRange (BitVec.ofNat 64 o)
        match bad with
        | some x => .fault s x
        | none =>
          if s.matrixFull x then .wait s
          else .done (s.acceptMatrix x (s.newCommand w g [(w, g)] (desc.toList.map fun e => gr.scalar e.1) [] i))
    | _, _ => .done s

/-- `ACCLD` (R185). -/
def execAccld (t : BitVec 3) (r : BitVec 5) (s : State) : Out := s.accOp (.accld t r) t (some (r, false))

/-- `ACCST` (R186). -/
def execAccst (t : BitVec 3) (r : BitVec 5) (s : State) : Out := s.accOp (.accst t r) t (some (r, true))

/-- `ACCZERO` (R185). -/
def execAcczero (t : BitVec 3) (s : State) : Out := s.accOp (.acczero t) t none

/-! ### Waiting (R187, R188) -/

/-- `MWAIT` (R187). -/
def execMwait (n : BitVec 3) (s : State) : Out :=
  s.uniform (engineForm true) fun s w g _ =>
    match s.grp? w g with
    | none => .done s
    | some gr => if gr.matrixCount ≤ n.toNat then .done (s.groupAcquires w g) else .wait s

/-- `MFLAGS` (R188). -/
def execMflags (d : BitVec 5) (a : BitVec 7) (s : State) : Out :=
  s.uniform (engineForm (isScalarSrc a)) fun s w g _ =>
    match s.wg? w, s.grp? w g with
    | some x, some gr =>
      if gr.matrixCount ≠ 0 ∨ gr.lookupCount ≠ 0 then .wait s
      else match gr.pendFault with
        | some off => .fault (s.modGrp w g fun y => { y with pendFault := none }) (rangeTrap off)
        | none =>
          .done (((s.groupAcquires w g).modWg w fun y => { y with eflags := y.eflags &&& ~~~(bf (gr.read a) 0 5) }).writeScalar w g d.toNat
            (x.eflags.setWidth 64))
    | _, _ => .done s

/-! ### Completion (R169) -/

/-- The core clocks that a matrix command occupies its engine (R192). -/
def Command.matrixClocks (c : Command) : Nat :=
  let d := c.regs.getD 0 0
  match c.op with
  | .acczero _ => 8
  | .accld .. | .accst .. =>
    (if copyFmt d = 13 || copyFmt d = 14 then 4 else 2) *
      ((List.range 4).filter fun i => (bf d 52 4 : BitVec 4).getLsbD i).length * (copyBlocks d).length
  | i => match productOf i with
    | some p => if p.rowm = 0 || p.colm = 0 then 1 else (if is16 (descType d) || descType d = 14 then 4 else 8) * descKb d
    | none => 0

/-- Performs a matrix command (R189; DESIGN CHOICE: notes/assumptions/18). -/
def State.performMatrix (s : State) (c : Command) : State :=
  s.actAs c fun s => match c.op with
  | .accld t _ => s.withMixed [c.wg] fun s => s.performAccld c t.toNat
  | .accst t _ => s.performAccst c t.toNat
  | .acczero t => s.modWg c.wg fun x => { x with tiles := x.tiles.setIfInBounds t.toNat [] }
  | i => match productOf i with
    | some p =>
      let ws := s.windowsOf c.wg
      (ws.foldl (init := s) State.landAll).withMixed ws fun s => s.performProduct c p
    | none => s

/-- Whether the first command of a core's matrix queue may complete (R190). -/
def Core.matrixReady (k : Core) : Option Command :=
  match k.matrix with
  | [] => none
  | c :: _ => if k.lookup.any fun d => c.after d then none else some c

/-- The oldest command of a core's matrix queue is performed and completes. -/
def State.completeMatrix (s : State) (core : Nat) : State :=
  match (s.core? core).bind Core.matrixReady with
  | none => s
  | some c =>
    let s := (s.performMatrix c).countBusy c.wg (624 + core) c.matrixClocks
    let s := s.modCore core fun k => { k with matrix := k.matrix.tail }
    let s := s.counts c.counted fun g => { g with matrixCount := g.matrixCount - 1 }
    s.wakeEngines.quiet.tryComplete c.wg

/-- `MATRIX_COMMAND_COMPLETE` (R169): the oldest command of a core's matrix queue is performed and completes. The input's
unit is the core. -/
def execMatrixCommandComplete (s : State) : Out := s.event fun s inp => s.completeMatrix inp.unit

end Sys2Proof.Machine
end

