-- ==== Sys2Proof/Machine/Lookup.lean ====
section
/-! DEFINITION. Major 0x27: the lookup engine and the table registers (R193 to R213). -/

namespace Sys2Proof.Machine

open Sys2Proof

/-! ### Tables (R33, R198, R209) -/

/-- The group size G of a GSEL code. -/
def groupSize (gsel : BitVec 2) : Nat := gsel.toNat + 2

/-- The entry format of an EFMT code (R194). -/
def entryFmt (efmt : BitVec 2) : Fmt := match efmt.toNat with | 0 => fp32 | 1 => bf16 | _ => fp16

/-- The format of an SFMT code (R33). -/
def sourceFmt (sfmt : BitVec 2) : Fmt := match sfmt.toNat with | 0 => bf16 | 1 => e4m3 | _ => e5m2

/-- The bytes of an activation of an SFMT code. -/
def sourceBytes (sfmt : BitVec 2) : Nat := if sfmt = 0 then 2 else 1

/-- The STATE code of a table (R33). -/
def TableState.code : TableState → Nat
  | .invalid => 0 | .valid => 1 | .stale => 2 | .evicted => 3

/-- The state image (R33). -/
def Table.image (t : Table) : Reg :=
  BitVec.ofNat 2 t.state.code ++ t.gsel ++ t.efmt ++ t.sfmt ++ BitVec.ofNat 11 t.ngroups ++ (0 : BitVec 8) ++
    BitVec.ofNat 14 t.srclen ++ BitVec.ofNat 23 t.srcbase

/-- One entry (R198): the sum of the activations that a subset selects, rounded once to the entry format and held as
FP32. -/
def tableEntry (efmt : BitVec 2) (xs : List FVal) (e : Nat) : Nat × FlagSet :=
  let picked := (List.range xs.length).filterMap fun i => if e / 2 ^ i % 2 = 1 then xs[i]? else none
  let (v, f) := blockSum (picked.map fun x => (x, oneVal))
  let fm := entryFmt efmt
  let (code, g) := fm.write .rne false v
  ((fp32.write .rne false (fm.decode code)).1, f ||| g)

/-- The entries of a table from the bytes of its source, and their flags (R198). -/
def buildEntries (gsel efmt sfmt : BitVec 2) (ngroups : Nat) (src : List Byte) : List (Nat × BitVec 32) × FlagSet :=
  let n := groupSize gsel
  let e := sourceBytes sfmt
  let x (k : Nat) : FVal := (sourceFmt sfmt).decode (leNat ((src.drop (k * e)).take e))
  let all := (List.range ngroups).flatMap fun g =>
    let xs := (List.range n).map fun i => x (g * n + i)
    (List.range (2 ^ n)).map fun i => (g * 2 ^ n + i, tableEntry efmt xs i)
  (all.filterMap fun r => if r.2.1 = 0 then none else some (r.1, BitVec.ofNat 32 r.2.1),
   all.foldl (init := (0 : FlagSet)) fun f r => f ||| r.2.2)

/-- A table register of a workgroup. -/
def Workgroup.table (w : Workgroup) (t : BitVec 3) : Table := w.tables[t.toFin]

/-- Sets a table register. -/
def State.setTable (s : State) (w : Nat) (t : BitVec 3) (x : Table) : State :=
  s.modWg w fun y => { y with tables := y.tables.set t.toNat x t.isLt }

/-- Rebuilds an evicted table from its recorded source as it stands (R201). -/
def Workgroup.rebuilt (w : Workgroup) (t : Table) : Table :=
  if t.state = .evicted then
    { t with state := .valid, entries := (buildEntries t.gsel t.efmt t.sfmt t.ngroups (w.readSpad t.srcbase t.srclen)).1 }
  else t

/-- The tables of a mask, ascending. -/
def maskTables (mask : BitVec 8) : List (BitVec 3) :=
  ((List.range 8).filter fun i => mask.getLsbD i).map (BitVec.ofNat 3)

/-- The core clocks of a build or a rebuild of a number of groups (R214). -/
def buildClocks (ngroups : Nat) : Nat := 4 + (ngroups + 15) / 16

/-- Rebuilds the evicted tables of a mask from their sources as a workgroup holds them; the engine's occupancy is counted (R214,
R323, R381). -/
def State.rebuild (s : State) (src : Workgroup) (w : Nat) (mask : BitVec 8) : State :=
  let clocks := ((maskTables mask).filterMap fun t =>
    if (src.table t).state = .evicted then some (buildClocks (src.table t).ngroups) else none).sum
  (s.modWg w fun x => { x with tables := Vector.ofFn fun (i : Fin 8) =>
    if (mask.getLsbD i.val) then src.rebuilt x.tables[i] else x.tables[i] }).countBusy w (672 + src.core) clocks

/-- The lowest table of a mask that a workgroup does not hold (R32). -/
def Workgroup.missingTable (w : Workgroup) (mask : BitVec 8) : Option (BitVec 3) :=
  (maskTables mask).find? fun t => w.tablesHeld ≤ t.toNat

/-- The unallocated-resource fault of a table (R32). -/
def tableTrap (t : BitVec 3) : Trap := trap .unallocatedResource (t.setWidth 64)

/-- The lookup-descriptor fault at a scalar register or an offset. -/
def lookupDescTrap (a : Nat) : Trap := trap .lookupDescriptor (BitVec.ofNat 64 a)

/-- The scratchpad-range fault at an offset. -/
def spadTrap (o : Nat) : Trap := trap .scratchpadRange (BitVec.ofNat 64 o)

/-! ### Acceptance (R193) -/

/-- Enters a command in a core's lookup queue and raises the count. -/
def State.acceptLookup (s : State) (x : Workgroup) (c : Command) : State :=
  let s : State := { s.acceptRaces c.order c.counted with nextId := s.nextId + 1 }
  (s.modCore x.core fun k => { k with lookup := k.lookup ++ [c] }).counts c.counted fun g => { g with lookupCount := g.lookupCount + 1 }

/-- Whether a workgroup's lookup queue is full. -/
def State.lookupFull (s : State) (x : Workgroup) : Bool := ((s.core? x.core).map fun k => queueFull k.lookup).getD false

/-- The snapshot slots that the commands in a core's lookup queue hold (R323) (DEDUCED: notes/assumptions/52). -/
def Core.slotsHeld (k : Core) : Nat := (k.lookup.map Command.slack).sum

/-- The snapshot slots that a command on the tables of a mask needs: one for each evicted table (R323). -/
def Workgroup.slotsFor (w : Workgroup) (mask : BitVec 8) : Nat :=
  ((maskTables mask).filter fun t => (w.table t).state = .evicted).length

/-- Whether a command that needs a number of the engine's 32 snapshot slots must wait: for room in its workgroup's lookup queue
(R193), or for slots (R323). -/
def State.lookupBusy (s : State) (x : Workgroup) (n : Nat) : Bool :=
  s.lookupFull x || (n ≠ 0 && ((s.core? x.core).map fun k => decide (32 < k.slotsHeld + n)).getD false)

/-- A lookup instruction: what it does once the group's threads have met. -/
def State.lookupOp (s : State) (f : Form) (act : State → Workgroup → Group → Nat → GroupAct) : Out :=
  s.uniform f fun s w g _ =>
    match s.wg? w, s.grp? w g with
    | some x, some gr => act s x gr g
    | _, _ => .done s

/-! ### `tcfg` (R196) -/

/-- `TCFG` (R196). -/
def execTcfg (c : BitVec 5) (s : State) : Out :=
  s.lookupOp (engineForm true) fun s x gr g =>
    let v := gr.scalar c
    if bf v 4 60 ≠ 0 ∨ bf v 2 2 = 3 ∨ bf v 0 2 = 3 then .fault s (lookupDescTrap c.toNat)
    else .done (s.modGrp x.id g fun y => { y with gsel := bf v 0 2, efmt := bf v 2 2 })

/-! ### `tbuild` (R197, R198) -/

/-- SFMT of a build descriptor's TYPE. -/
def buildSfmt (d : Reg) : Option (BitVec 2) :=
  match (bf d 60 4).toNat with | 10 => some 0 | 11 => some 1 | 12 => some 2 | _ => none

/-- `TBUILD` (R197, R198): the table and its state change at acceptance. A command that finds the queue full has passed its checks
before it waits, and passes them again when it issues again (DESIGN CHOICE: notes/assumptions/113). -/
def execTbuild (t : BitVec 3) (d : BitVec 5) (s : State) : Out :=
  s.lookupOp (engineForm true) fun s x gr g =>
    let v := gr.scalar d
    if x.tablesHeld ≤ t.toNat then .fault s (tableTrap t)
    else match buildSfmt v with
      | none => .fault s (lookupDescTrap d.toNat)
      | some sf =>
        let ng := (bf v 50 10).toNat + 1
        let off := (bf v 0 23).toNat
        let len := groupSize gr.gsel * ng * sourceBytes sf
        if bf v 23 27 ≠ 0 ∨ off % 64 ≠ 0 then .fault s (lookupDescTrap d.toNat)
        else match rangeBeyond x.window off len with
          | some o => .fault s (spadTrap o)
          | none =>
            if s.lookupBusy x 1 then .wait s
            else
              let (s, m) := s.seenAt [(x.id, g)] [x.id]
              let (es, fl) := buildEntries gr.gsel gr.efmt sf ng ((m.seenWg x).readSpad off len)
              let s := s.setTable x.id t { state := .valid, gsel := gr.gsel, efmt := gr.efmt, sfmt := sf, ngroups := ng,
                                           srclen := len, srcbase := off, entries := es }
              .done (s.acceptLookup x { s.newCommand x.id g [(x.id, g)] [v, fl.setWidth 64] [] (.tbuild t d) with slack := 1 })

/-! ### `tlook` (R202 to R206) -/

/-- The fields of a code descriptor and a scale descriptor (R202). -/
structure LookDesc where
  planes : Nat
  poll : Bool
  zero : Bool
  zp : Bool
  groups : Nat
  gbase : Nat
  colm : BitVec 6
  lstr : Nat
  offset : Nat
  rowbase : Nat
  soff : Nat
  deriving DecidableEq, Repr

/-- Reads the descriptors. -/
def lookDesc (c sc : Reg) : LookDesc :=
  { planes := (bf c 61 3).toNat + 1, poll := c.getLsbD 60, zero := c.getLsbD 59, zp := c.getLsbD 58,
    groups := (bf c 48 10).toNat + 1, gbase := (bf c 38 10).toNat, colm := bf c 32 6, lstr := (bf c 23 9).toNat,
    offset := (bf c 0 23).toNat, rowbase := (bf sc 57 7).toNat, soff := (bf sc 0 23).toNat }

/-- The number of blocks of 16 groups. -/
def LookDesc.blocks (d : LookDesc) : Nat := (d.groups + 15) / 16

/-- The bytes of a code line that are read. -/
def LookDesc.lineBytes (d : LookDesc) : Nat := (d.groups + 1) / 2

/-- The place of the code line of a plane and column (R203). -/
def LookDesc.line (d : LookDesc) (p n : Nat) : Nat := d.offset + (p * 192 + n) * 64 * d.lstr

/-- The place of the scale pair of a block and column. -/
def LookDesc.pair (d : LookDesc) (j n : Nat) : Nat := d.soff + (j * 192 + n) * 8

/-- The enabled columns. -/
def LookDesc.cols (d : LookDesc) : List Nat := (List.range 192).filter fun n => blockOn d.colm n

/-- The lowest offset that the command reads beyond a window. -/
def LookDesc.beyond (d : LookDesc) (window : Nat) : Option Nat :=
  let offs := (d.cols.flatMap fun n => (List.range d.planes).filterMap fun p => rangeBeyond window (d.line p n) d.lineBytes) ++
    d.cols.flatMap fun n => (List.range d.blocks).filterMap fun j => rangeBeyond window (d.pair j n) 8
  offs.foldl (init := none) fun r o => some (match r with | none => o | some q => min q o)

/-- Check 2 of R204: the scalar register that fails, the code descriptor's before the scale descriptor's
(DESIGN CHOICE: notes/assumptions/106). -/
def LookDesc.illegal (d : LookDesc) (sc : Reg) (reg tables : Nat) : Option Nat :=
  if d.offset % 64 ≠ 0 ∨ 64 * d.lstr < d.lineBytes then some reg
  else if bf sc 23 34 ≠ 0 ∨ d.soff % 8 ≠ 0 ∨ 128 < d.rowbase + tables then some (reg + 1)
  else none

/-- How a `tlook` is accepted: it runs, it does nothing (no table, no column), or it only records a poll condition. -/
inductive LookFate where
  | run
  | idle
  | record (cause : Nat) (table : BitVec 3)
  deriving DecidableEq, Repr

/-- The checks of R204 (DEDUCED: notes/assumptions/44). In check 1 the tile is looked at before the tables
(DESIGN CHOICE: notes/assumptions/106). -/
def lookChecks (x : Workgroup) (d : LookDesc) (sc : Reg) (reg : Nat) (acc : BitVec 3) (mask : BitVec 8) :
    Except Trap LookFate :=
  let ts := maskTables mask
  if x.tilesHeld ≤ acc.toNat then .error (trap .unallocatedResource (acc.setWidth 64))
  else match x.missingTable mask with
    | some t => .error (tableTrap t)
    | none =>
      match d.illegal sc reg ts.length with
      | some r => .error (lookupDescTrap r)
      | none =>
        if mask = 0 ∨ d.colm = 0 then .ok .idle
        else match ts.find? fun t => (x.table t).state = .invalid || (x.table t).state = .stale with
          | some t => if d.poll then .ok (.record 1 t) else .error (trap .staleTable (t.setWidth 64))
          | none =>
            if !(ts.all fun t => (x.table t).gsel == (x.table (ts.headD 0)).gsel) then .error (lookupDescTrap reg)
            else match ts.find? fun t => (x.table t).ngroups < d.gbase + d.groups with
              | some t => if d.poll then .ok (.record 2 t) else .error (trap .tableRange (t.setWidth 64))
              | none =>
                match d.beyond x.window with
                | some o => .error (spadTrap o)
                | none => .ok .run

/-- `TLOOK` (R202 to R205): the command carries the tables as it found them at acceptance. -/
def execTlook (d : BitVec 5) (a : BitVec 3) (mask : BitVec 8) (s : State) : Out :=
  s.lookupOp (engineForm (d ≠ 31)) fun s x gr g =>
    let c := gr.scalar d
    let sc := gr.scalar (d + 1)
    let look := lookDesc c sc
    match lookChecks x look sc d.toNat a mask with
    | .error t => .fault s t
    | .ok fate =>
      let slots := if fate = .run then x.slotsFor mask else 0
      if s.lookupBusy x slots then .wait s
      else
        let (s, m) := if slots = 0 then (s, s) else s.seenAt [(x.id, g)] [x.id]
        let s := if fate = .run then s.rebuild (m.seenWg x) x.id mask else s
        let tables := ((s.wg? x.id).map fun y => (maskTables mask).map y.table).getD []
        let word : Reg := match fate with
          | .run => 0
          | .idle => 1
          | .record k t => BitVec.ofNat 64 (2 + 8 * k + 64 * t.toNat)
        .done (s.acceptLookup x { s.newCommand x.id g [(x.id, g)] [c, sc, word] [] (.tlook d a mask) with
          tables := tables, slack := slots })

/-- The nibble that selects an entry (R203). -/
def LookDesc.code (d : LookDesc) (m : List Host.Cell) (p n g : Nat) : Nat :=
  (Sparse.get m (d.line p n + g / 2)).toNat / 16 ^ (g % 2) % 16

/-- The lowest offset of an out-of-range code (R206). -/
def LookDesc.badCode (d : LookDesc) (m : List Host.Cell) (size : Nat) : Option Nat :=
  let offs := (List.range d.planes).flatMap fun p => d.cols.flatMap fun n => (List.range d.groups).filterMap fun g =>
    if d.code m p n g < 2 ^ size then none else some (d.line p n + g / 2)
  offs.foldl (init := none) fun r o => some (match r with | none => o | some q => min q o)

/-- One level of the pairwise tree. -/
def treeLevel : List Nat → List Nat × FlagSet
  | a :: b :: t =>
    let (v, f) := (fp32.decode a).add .rne (fp32.decode b)
    let (c, g) := fp32.write .rne false v
    let (r, h) := treeLevel t
    (c :: r, f ||| g ||| h)
  | l => (l, 0)

/-- The pairwise tree over 16 leaves, in levels. -/
def treeSum : Nat → List Nat → Nat × FlagSet
  | 0, l => (l.headD 0, 0)
  | k + 1, l =>
    let (r, f) := treeLevel l
    let (v, g) := treeSum k r
    (v, f ||| g)

/-- A finite value times a power of two; other values as they are. -/
def FVal.shift (v : FVal) (p : Nat) : FVal := match v with | .fin n m e => .fin n m (e + p) | _ => v

/-- The update of an element by one block (R205). -/
def LookDesc.blockUpdate (d : LookDesc) (m : List Host.Cell) (entry : Nat → Nat → Nat) (size : Nat) (n : Nat)
    (acc : Nat × FlagSet) (blk : Nat) : Nat × FlagSet :=
  let leaves (p : Nat) : List Nat := (List.range 16).map fun l =>
    let g := 16 * blk + l
    if d.groups ≤ g then 0
    else if p = d.planes then entry (d.gbase + g) (2 ^ size - 1)
    else entry (d.gbase + g) (d.code m p n g)
  let trees := (List.range d.planes).map fun p => treeSum 4 (leaves p)
  let word (o : Nat) : FVal := fp32.decode (leNat (readBytes m o 4))
  let sigma := word (d.pair blk n)
  let terms := (List.range d.planes).map fun p => (sigma.shift p, fp32.decode ((trees[p]?).map Prod.fst |>.getD 0))
  let (more, zf) : List (FVal × FVal) × FlagSet :=
    if d.zp then
      let (sz, f) := sigma.mul (word (d.pair blk n + 4))
      let (pb, g) := treeSum 4 (leaves d.planes)
      ([(sz.neg, fp32.decode pb)], f ||| g)
    else ([], 0)
  let tf := trees.foldl (init := (0 : FlagSet)) fun f r => f ||| r.2
  let (c, f) := accumulate .rne false (fp32.decode acc.1) (blockSum (terms ++ more))
  (c, acc.2 ||| tf ||| zf ||| f)

/-- The poll register after a failing POLL command (R207). -/
def pollRecord (poll : Reg) (cause : Nat) (table : Nat) (where_ : Nat) : Reg :=
  let count := min ((bf poll 48 8).toNat + 1) 255
  if bf poll 62 2 = 0 then BitVec.ofNat 64 (cause * 2 ^ 62 + table * 2 ^ 59 + count * 2 ^ 48 + where_)
  else (poll &&& ~~~((0xFF : Reg) <<< 48)) ||| BitVec.ofNat 64 (count * 2 ^ 48)

/-- Performs `tlook` (R205, R206). -/
def State.performTlook (s : State) (c : Command) (a : BitVec 3) (mask : BitVec 8) : State :=
  match s.wg? c.wg with
  | none => s
  | some x =>
    let d := lookDesc (c.regs.getD 0 0) (c.regs.getD 1 0)
    let word := c.regs.getD 2 0
    let size := groupSize ((c.tables.head?.map Table.gsel).getD 2)
    if word = 1 then s
    else if word.getLsbD 1 then
      s.modGrp c.wg c.grp fun g => { g with poll := pollRecord g.poll (bf word 3 3).toNat (bf word 6 3).toNat 0 }
    else match d.badCode x.spad size with
      | some o =>
        s.modGrp c.wg c.grp fun g =>
          if d.poll then { g with poll := pollRecord g.poll 3 ((maskTables mask).headD 0).toNat o }
          else { g with pendFault := some (g.pendFault.getD (BitVec.ofNat 23 o)) }
      | none =>
        let entries : Array (Array Nat) := (c.tables.map fun t =>
          ((List.range (t.ngroups * 2 ^ size)).map fun i => (Sparse.get t.entries i).toNat).toArray).toArray
        s.updateTile c.wg a.toNat fun r n old =>
          if d.rowbase ≤ r ∧ r < d.rowbase + c.tables.length ∧ blockOn d.colm n then
            let t := entries.getD (r - d.rowbase) #[]
            let (v, f) := (List.range d.blocks).foldl
              (d.blockUpdate x.spad (fun g e => t.getD (g * 2 ^ size + e) 0) size n) (if d.zero then 0 else old.toNat, 0)
            (BitVec.ofNat 32 v, f)
          else (old, 0)

/-! ### `tinv`, `tstat`, `twait` (R207, R208) -/

/-- `TINV` (R208) (DEDUCED: notes/assumptions/43). -/
def execTinv (mask : BitVec 8) (s : State) : Out :=
  s.lookupOp (engineForm true) fun s x _ _ =>
    match x.missingTable mask with
    | some t => .fault s (tableTrap t)
    | none => .done (s.modWg x.id fun y => { y with tables := Vector.ofFn fun (i : Fin 8) =>
        if (mask.getLsbD i.val) then
          { y.tables[i] with state := .invalid, ngroups := 0, srclen := 0, srcbase := 0, entries := [] }
        else y.tables[i] })

/-- `TSTAT` (R208). -/
def execTstat (t : BitVec 3) (d : BitVec 5) (s : State) : Out :=
  s.lookupOp (engineForm true) fun s x _ g =>
    if x.tablesHeld ≤ t.toNat then .fault s (tableTrap t)
    else .done (s.writeScalar x.id g d.toNat (x.table t).image)

/-- `TWAIT` (R207). -/
def execTwait (s : State) : Out :=
  s.lookupOp (engineForm true) fun s x gr g =>
    if gr.lookupCount ≠ 0 then .wait s
    else match gr.pendFault with
      | some off => .fault (s.modGrp x.id g fun y => { y with pendFault := none }) (rangeTrap off)
      | none => .done (s.groupAcquires x.id g)

/-- `TWAIT_POLL` (R207). -/
def execTwaitPoll (d : BitVec 5) (s : State) : Out :=
  s.lookupOp (engineForm true) fun s x gr g =>
    if gr.lookupCount ≠ 0 then .wait s
    else .done (((s.groupAcquires x.id g).modGrp x.id g fun y => { y with poll := 0 }).writeScalar x.id g d.toNat gr.poll)

/-! ### `tspill` and `tfill` (R209, R210) -/

/-- Whether an image offset is legal (R209). -/
def imageOffsetOk (v : Reg) : Bool := bf v 23 41 = 0 && bf v 0 6 = 0

/-- The bytes of a table's image. -/
def Table.imageBytes (t : Table) : Nat := 64 + 4 * (t.ngroups * 2 ^ groupSize t.gsel)

/-- A table image (R209). -/
def Table.toBytes (t : Table) : List Byte :=
  leBytes 8 t.image.toNat ++ List.replicate 56 0 ++
    (List.range (if t.state = .invalid then 0 else t.ngroups * 2 ^ groupSize t.gsel)).flatMap fun i => leBytes 4 (Sparse.get t.entries i).toNat

/-- `TSPILL` (R210). -/
def execTspill (t : BitVec 3) (d : BitVec 5) (s : State) : Out :=
  s.lookupOp (engineForm true) fun s x gr g =>
    let v := gr.scalar d
    if x.tablesHeld ≤ t.toNat then .fault s (tableTrap t)
    else if !imageOffsetOk v then .fault s (lookupDescTrap d.toNat)
    else if (x.table t).state = .stale then .fault s (trap .staleTable (t.setWidth 64))
    else
      let size := if (x.table t).state = .invalid then 64 else (x.table t).imageBytes
      match rangeBeyond x.window v.toNat size with
      | some o => .fault s (spadTrap o)
      | none =>
        let slots := x.slotsFor (1 <<< t.toNat)
        if s.lookupBusy x slots then .wait s
        else
          let (s, m) := if slots = 0 then (s, s) else s.seenAt [(x.id, g)] [x.id]
          let s := s.rebuild (m.seenWg x) x.id (1 <<< t.toNat)
          let table := ((s.wg? x.id).map fun y => y.table t).getD Table.reset
          .done (s.acceptLookup x { s.newCommand x.id g [(x.id, g)] [v] [] (.tspill t d) with tables := [table], slack := slots })

/-- The table that a header describes, without its entries; none when the header fails a condition of R210. Bytes 8 to 63 of a
header count among the bits that must be zero, and an image of STATE 0 leaves every field of the table 0
(DESIGN CHOICE: notes/assumptions/107). -/
def tableOfHeader (window : Nat) (hdr : List Byte) : Option Table :=
  let i : Reg := leReg (hdr.take 8)
  let st := (bf i 62 2).toNat
  let gsel := bf i 60 2
  let efmt := bf i 58 2
  let sfmt := bf i 56 2
  let ng := (bf i 45 11).toNat
  let len := (bf i 23 14).toNat
  let base := (bf i 0 23).toNat
  if 1 < st ∨ bf i 37 8 ≠ 0 ∨ (hdr.drop 8).any (· ≠ 0) ∨ gsel = 3 ∨ efmt = 3 ∨ sfmt = 3 then none
  else if st = 0 then some Table.reset
  else if ng = 0 ∨ 1024 < ng ∨ len ≠ groupSize gsel * ng * sourceBytes sfmt ∨ window < base + len then none
  else some { state := .valid, gsel := gsel, efmt := efmt, sfmt := sfmt, ngroups := ng, srclen := len, srcbase := base, entries := [] }

/-- `TFILL` (R210): the header, then the entries, are read at acceptance. The header must lie in the window before it is checked, and the
whole image after it (DESIGN CHOICE: notes/assumptions/107). -/
def execTfill (t : BitVec 3) (d : BitVec 5) (s : State) : Out :=
  s.lookupOp (engineForm true) fun s x gr g =>
    let v := gr.scalar d
    if x.tablesHeld ≤ t.toNat then .fault s (tableTrap t)
    else if !imageOffsetOk v then .fault s (lookupDescTrap d.toNat)
    else match rangeBeyond x.window v.toNat 64 with
      | some o => .fault s (spadTrap o)
      | none =>
        let (s, m) := s.seenAt [(x.id, g)] [x.id]
        let y := m.seenWg x
        match tableOfHeader x.window (y.readSpad v.toNat 64) with
        | none => .fault s (lookupDescTrap v.toNat)
        | some new =>
          let n := if new.state = .valid then new.ngroups * 2 ^ groupSize new.gsel else 0
          match rangeBeyond x.window v.toNat (64 + 4 * n) with
          | some o => .fault s (spadTrap o)
          | none =>
            if s.lookupFull x then .wait s
            else
              let es := (List.range n).filterMap fun i =>
                let e := leNat (y.readSpad (v.toNat + 64 + 4 * i) 4)
                if e = 0 then none else some (i, BitVec.ofNat 32 e)
              .done ((s.setTable x.id t { new with entries := es }).acceptLookup x
                { s.newCommand x.id g [(x.id, g)] [v] [] (.tfill t d) with tables := [new] })

/-! ### Completion (R193) -/

/-- The core clocks that a lookup command occupies its engine (R214), apart from the rebuilds before it. -/
def Command.lookupClocks (c : Command) : Nat :=
  let image : Nat := 4 + (((c.tables.head?.map fun t => if t.state = .invalid then 64 else t.imageBytes).getD 64) + 255) / 256
  match c.op with
  | .tbuild _ _ => buildClocks ((bf (c.regs.getD 0 0) 50 10).toNat + 1)
  | .tlook _ _ _ => let d := lookDesc (c.regs.getD 0 0) (c.regs.getD 1 0); 4 + d.blocks * (d.planes + 1)
  | .tspill _ _ | .tfill _ _ => image
  | _ => 0

/-- Performs a lookup command; the codes and scales are read from scratchpad as it is performed (R212). -/
def State.performLookup (s : State) (c : Command) : State :=
  s.actAs c fun s => match c.op with
  | .tbuild _ _ => s.engineRaise c.wg ((c.regs.getD 1 0).setWidth 6)
  | .tlook _ a mask => s.withMixed [c.wg] fun s => s.performTlook c a mask
  | .tspill _ _ => s.writeSpad c.wg (c.regs.getD 0 0).toNat ((c.tables.head?.map Table.toBytes).getD [])
  | _ => s

/-- Whether the first command of a core's lookup queue may complete (R190). -/
def Core.lookupReady (k : Core) : Option Command :=
  match k.lookup with
  | [] => none
  | c :: _ => if k.matrix.any fun d => c.after d then none else some c

/-- The oldest command of a core's lookup queue is performed and completes. -/
def State.completeLookup (s : State) (core : Nat) : State :=
  match (s.core? core).bind Core.lookupReady with
  | none => s
  | some c =>
    let s := (s.performLookup c).countBusy c.wg (672 + core) c.lookupClocks
    let s := s.modCore core fun k => { k with lookup := k.lookup.tail }
    let s := s.counts c.counted fun g => { g with lookupCount := g.lookupCount - 1 }
    s.wakeEngines.quiet.tryComplete c.wg

/-- `LOOKUP_COMMAND_COMPLETE` (R193): the oldest command of a core's lookup queue is performed and completes. The input's
unit is the core. -/
def execLookupCommandComplete (s : State) : Out := s.event fun s inp => s.completeLookup inp.unit

end Sys2Proof.Machine
end

