-- ==== Sys2Proof/Machine/Records.lean ====
section
/-! DEFINITION. Major 0x29: the record buffer and emits (R244 to R249). -/

namespace Sys2Proof.Machine

open Sys2Proof

/-- `REC` (R244). -/
def execRecInit (a : BitVec 7) (n : BitVec 4) (s : State) : Out :=
  s.perLane (recordForm [a] []) fun s v => (s, .ok ({ v.t with recbuf := v.t.recbuf.set n.toNat (v.read a) n.isLt }).step)

/-- The bytes of a record buffer. -/
def Thread.recordBuffer (t : Thread) : List Byte := wordBytes t.recbuf.toList

/-- The unbound-port fault. -/
def unboundTrap (p : BitVec 3) : Trap := trap .unboundPort (p.setWidth 64)

/-- The out-port that a workgroup's node declares for emits (R245, R293). -/
def State.emitPort (s : State) (x : Workgroup) (p : BitVec 3) : Option Port :=
  match (s.node? x.graph x.node).bind fun (nd : Node) => nd.desc.ports[p.toNat]? with
  | some e => if e.valid && !e.compl then some e else none
  | none => none

/-- The depth of a record emitted by a workgroup over a port, if the target's recursion bound admits it (R246). -/
def State.portDepth (s : State) (x : Workgroup) (e : Port) : Option Nat :=
  let d := emitDepth x.node e.node x.depth e.remote
  let bound := if e.remote then e.rdepth else ((s.node? x.graph e.node).map fun (n : Node) => n.desc.depth).getD 0
  if bound < d then none else some d

/-- The bytes of a record as it leaves over a port: a record of the target's size; over a remote edge the receiver knows
its node's size, and the whole buffer is sent (DEDUCED: notes/assumptions/50). -/
def State.portBytes (s : State) (x : Workgroup) (e : Port) (bytes : List Byte) : List Byte :=
  if e.remote then bytes
  else (bytes ++ List.replicate 128 (0 : Byte)).take (recordBytes (((s.node? x.graph e.node).map fun (n : Node) => n.desc.rsize).getD 0))

/-- Emits a record of a workgroup over a port, or leaves it waiting (R245): the answer tells whether it waits. A remote
edge without credit keeps nothing; its emitter tries again when a credit returns. -/
def State.emitOver (s : State) (x : Workgroup) (p : BitVec 3) (e : Port) (depth : Nat) (bytes : List Byte) (who : Emitter) :
    State × Bool :=
  if e.remote then
    if s.hasCredit x.graph x.node p.toNat then
      ((s.releaseNow x.id 4).sendRemote x.graph x.node p.toNat e (s.portBytes x e bytes) depth, false)
    else (s, true)
  else
    let b := s.portBytes x e bytes
    let (s, waits) := (s.releaseNow x.id 3).arrive (s.joinFuel x.graph) x.graph e.node b depth who
    (s.noteCandidates x.graph, waits)

/-- The checks of R245 and R246: the port and the record's depth. -/
def State.emitChecks (s : State) (v : View) (p : BitVec 3) : Except Trap (Port × Nat) :=
  match s.emitPort v.wg p with
  | none => .error (unboundTrap p)
  | some e =>
    if v.t.ports.getLsbD p.toNat then .error (unboundTrap p)
    else match s.portDepth v.wg e with
      | none => .error (trap .recursionBound (p.setWidth 64))
      | some d => .ok (e, d)

/-- `EMIT` (R245). -/
def execEmit (p : BitVec 3) (s : State) : Out :=
  match s.cur with
  | none => .refused .noThread
  | some u => s.perLane (recordForm [] []) fun s v =>
    match s.emitChecks v p with
    | .error x => (s, .error x)
    | .ok (e, d) =>
      match s.emitOver v.wg p e d v.t.recordBuffer (.thread (v.id u.grp)) with
      | (s, true) => (s, .ok { v.t with wait := .emitting p.toNat })
      | (s, false) => (s, .ok v.t.step)

/-- `EMITQ` (R247). -/
def execEmitq (p : BitVec 3) (q : BitVec 4) (s : State) : Out :=
  match s.cur with
  | none => .refused .noThread
  | some u => s.perLane (recordForm [] [q]) fun s v =>
    match s.emitChecks v p with
    | .error x => (s, .error x)
    | .ok (e, d) =>
      let enters := if e.remote then s.hasCredit v.wg.graph v.wg.node p.toNat else s.wouldEnter v.wg.graph v.wg.node p.toNat e
      let s := if enters then (s.emitOver v.wg p e d v.t.recordBuffer (.thread (v.id u.grp))).1 else s
      (s, .ok (v.t.writeLate (.pred q.toNat) (bit enters)).step)

/-- `EPORT` (R248). -/
def execEport (p : BitVec 3) (s : State) : Out :=
  match s.perLane (recordForm [] []) (fun s v => (s, .ok ({ v.t with ports := v.t.ports ||| (1 <<< p.toNat) }).step)) with
  | .next t => .next (match t.cur.bind fun u => t.wg? u.wg with
    | some x => t.noteCandidates x.graph
    | none => t)
  | o => o

end Sys2Proof.Machine
end

