-- ==== Sys2Proof/Machine/Copy.lean ====
section
/-! DEFINITION. Major 0x28: the copy engine and its commands `cpy`, `topk` and `texp`, and the wait on engine commands (R215 to
R226, R235 to R240, R253). -/

namespace Sys2Proof.Machine

open Sys2Proof

/-! ### What engine commands share (R215, R217, R253) -/

/-- The engine-descriptor fault at a scalar register. -/
def engineDescTrap (r : Nat) : Trap := trap .engineDescriptor (BitVec.ofNat 64 r)

/-- A trap met by an engine's access: UNIT 2, or 3 when the package window reports it (R253, R354). -/
def engineTrap (x : Trap) : Trap := { x with unit := if x.unit = 3 then 3 else 2 }

/-- A read by an engine of bytes of a context's memory (R313) (DEDUCED: notes/assumptions/46). -/
def State.engineRead (s : State) (c : Nat) (va : Reg) (n : Nat) : State × Except Trap (List Byte) :=
  if bf va 56 8 ≠ 0 then (s, .error (engineTrap (trap .nonCanonical va)))
  else match s.readRun c va.toNat n with
    | (s, .error x) => (s, .error (engineTrap x))
    | (s, .ok b) => (s, .ok b)

/-- A write by an engine of bytes of a context's memory (R313). -/
def State.engineWrite (s : State) (c : Nat) (va : Reg) (bs : List Byte) : State × Except Trap Unit :=
  if bf va 56 8 ≠ 0 then (s, .error (engineTrap (trap .nonCanonical va)))
  else match s.writeRun c va.toNat bs with
    | (s, .error x) => (s, .error (engineTrap x))
    | (s, .ok ()) => (s, .ok ())

/-- The barrier of an engine word: none under NB (R217), whatever BR is then (DESIGN CHOICE: notes/assumptions/114). -/
def barrierOf (r : BitVec 4) (nb : BitVec 1) : Option Nat := if nb = 1 then none else some r.toNat

/-- A delivery to a command's barrier in a workgroup (R217). -/
def State.deliverTo (s : State) (w : Nat) (bar : Option Nat) (m y : Nat) : State :=
  match bar with
  | none => s
  | some b => s.engineDelivers w (BitVec.ofNat 4 b) m y

/-- Enters a command in a core's copy-engine queue and raises the counts (R215, R225). The writes that its workgroup has made
before are performed first, so that the command reads them (R6, R226, R265). -/
def State.acceptCopy (s : State) (x : Workgroup) (c : Command) : State :=
  let s : State := { (s.drainAll x.id).acceptRaces c.order c.counted with nextId := s.nextId + 1 }
  (s.modCore x.core fun k => { k with copy := k.copy ++ [{ c with completedAt := k.copyCompleted }] }.start).counts c.counted
    fun g => { g with engineCount := g.engineCount + 1 }

/-- Whether a workgroup's copy-engine queue is full (R223). -/
def State.copyFull (s : State) (x : Workgroup) : Bool := ((s.core? x.core).map fun k => decide (k.copy.length ≥ 64)).getD false

/-- The command that a core's copy engine is running. -/
def Core.running? (k : Core) : Option Command := match k.copyRunning with
  | none => none
  | some o => k.copy.find? fun c => c.order == o

/-- Changes a command of a core's copy-engine queue. -/
def State.modCopy (s : State) (core order : Nat) (f : Command → Command) : State :=
  s.modCore core fun k => { k with copy := k.copy.map fun c => if c.order = order then f c else c }

/-! ### Bytes read and not written yet (R226) -/

/-- The bytes that a command has still to write, if it has moved what takes the machine `s` to the machine `t`: every byte of global
memory and of its workgroup's window that it has overwritten there, with the value it holds there. -/
def State.afloatIn (s t : State) (w : Nat) : List Afloat :=
  let written := ((t.overwritten.take (t.overwritten.length - s.overwritten.length)).map fun e => (e.wg, e.addr)).eraseDups
  let spad : List Host.Cell := ((t.wg? w).map Workgroup.spad).getD []
  (written.filter fun e => e.1.isNone || e.1 == some w).map fun e =>
    { wg := e.1, addr := e.2, byte := Sparse.get (if e.1.isNone then t.mem else spad) e.2 }

/-- The machine in which a command has read what takes `s` to `t`, and has written none of it: translations, requests, what has left
the package, and what has been sent to other windows stand as in `t`. -/
def State.readOnly (s t : State) : State :=
  { s with tlb := t.tlb, freeCtr := t.freeCtr, outbox := t.outbox, hostMem := t.hostMem, hostFails := t.hostFails,
           performed := t.performed, handovers := t.handovers, counters0 := t.counters0,
           wgs := s.wgs.map fun x => match t.wg? x.id with | some y => { x with inbound := y.inbound } | none => x }

/-- Writes a byte that a command has read. -/
def State.landByte (s : State) (b : Afloat) : State :=
  match b.wg with
  | some w => s.writeSpad w b.addr [b.byte]
  | none => s.writeHome none b.addr [b.byte]

/-- Writes some of the bytes that a command has read, each or not by a free value: what is left. -/
def State.landAfloat (s : State) (l : List Afloat) : State × List Afloat :=
  let (s, v) := s.draw
  let is := (List.range l.length).map fun i => (l[i]?, v.getLsbD (i % 64))
  (is.foldl (init := s) fun s e => match e with | (some b, true) => s.landByte b | _ => s,
   is.filterMap fun e => if e.2 then none else e.1)

/-! ### The descriptor of `cpy` (R219, R220) -/

/-- The fields of the eight descriptor words. -/
structure CopyDesc where
  stype : Nat
  gfmt : Nat
  arr : Nat
  dir : Bool
  npl : Nat
  splitg : Nat
  slack : Nat
  mcast : BitVec 4
  sdim : Nat
  soff : Nat
  base : Reg
  ext : List Nat
  st : List Reg
  rs : List Nat
  lstr : Nat
  gsel : Nat
  deriving DecidableEq, Repr

/-- Reads the descriptor words. -/
def copyDesc (ws : List Reg) : CopyDesc :=
  let w (i : Nat) : Reg := ws.getD i 0
  let w0 := w 0
  { stype := (bf w0 60 4).toNat, gfmt := (bf w0 58 2).toNat, arr := (bf w0 56 2).toNat, dir := w0.getLsbD 55,
    npl := (bf w0 51 3).toNat, splitg := (bf w0 48 3).toNat, slack := (bf w0 40 8).toNat, mcast := bf w0 36 4,
    sdim := (bf w0 34 2).toNat, soff := (bf w0 0 23).toNat, base := w 1,
    ext := (List.range 4).map fun i => ((w 2 >>> (16 * i)).setWidth 16).toNat, st := [w 3, w 4, w 5],
    rs := [(bf (w 6) 0 23).toNat, (bf (w 6) 23 23).toNat, (bf (w 7) 0 23).toNat],
    lstr := (bf (w 7) 25 9).toNat, gsel := (bf (w 7) 23 2).toNat }

/-- The bytes of an element of a type code. -/
def elementBytes (t : Nat) : Nat :=
  if [0, 4, 11, 12].contains t then 1 else if [1, 5, 9, 10].contains t then 2 else if [2, 6, 8].contains t then 4 else 8

/-- An extent of the box. -/
def CopyDesc.e (d : CopyDesc) (i : Nat) : Nat := d.ext.getD i 0

/-- Whether a register is a multiple of a number. -/
def multipleOf (r : Reg) (n : Nat) : Bool := r.toNat % n = 0

/-- The groups of codes of a column, and the bytes of a code line. -/
def CopyDesc.lineBytes (d : CopyDesc) : Nat := ((d.e 0 + d.gsel + 1) / (d.gsel + 2) + 1) / 2

/-- Whether a combination is a row of R221. -/
def CopyDesc.combination (d : CopyDesc) : Bool :=
  (d.arr = 0 && d.gfmt = 0 && d.stype ≤ 12) ||
  ((d.arr = 1 || d.arr = 2) && d.gfmt = 0 && [0, 4, 9, 10, 11, 12].contains d.stype) ||
  ((d.arr = 1 || d.arr = 2) && d.gfmt = 1 && (d.stype = 13 || d.stype = 14)) ||
  (d.arr = 3 && d.gfmt = 2 && d.stype = 4 && !d.dir)

/-- The alignment that BASE and the strides need. -/
def CopyDesc.grain (d : CopyDesc) : Nat := if d.gfmt = 1 then 2 else if d.arr = 0 then elementBytes d.stype else 1

/-- The first descriptor word that breaks R219 to R221, by its place (DEDUCED: notes/assumptions/45). -/
def CopyDesc.illegal (d : CopyDesc) (ws : List Reg) : Option Nat :=
  let w (i : Nat) : Reg := ws.getD i 0
  let slab := d.arr = 1 || d.arr = 2
  if (w 0).getLsbD 54 || bf (w 0) 23 11 ≠ 0 || !d.combination || (d.gfmt ≠ 2 && d.npl ≠ 0) || (d.gfmt ≠ 0 && d.sdim = 0) ||
     (d.dir && d.mcast ≠ 0) || d.soff % (if d.arr = 0 then elementBytes d.stype else 64) ≠ 0 then some 0
  else if !multipleOf d.base d.grain then some 1
  else if (d.arr ≠ 0 && (1 < d.e 2 || 1 < d.e 3)) || d.e 1 > (if d.arr = 1 then 128 else if slab || d.arr = 3 then 192 else 65535) then
    some 2
  else match (List.range 3).find? fun i => !multipleOf (d.st.getD i 0) d.grain with
    | some i => some (3 + i)
    | none =>
      if bf (w 6) 46 18 ≠ 0 || (d.arr ≠ 0 && bf (w 6) 0 46 ≠ 0) then some 6
      else if bf (w 7) 34 30 ≠ 0 || (d.arr ≠ 3 && bf (w 7) 23 11 ≠ 0) || (d.arr ≠ 0 && bf (w 7) 0 23 ≠ 0) ||
          (d.arr = 3 && (d.lstr = 0 || d.gsel = 3 || 64 * d.lstr < d.lineBytes)) then some 7
      else none

/-! ### The box (R222, R223) -/

/-- A piece of a copy that is moved at once: a run of bytes (the high nibble of the last one cleared when a DB4 line has
an odd count); of the bytes of a Denusk block, which a compress writes from its header, elements and count, some from a place on; of
the bytes of a column's codes, plane by plane, some from a place on. -/
inductive CopyUnit where
  | run (va : Reg) (off len : Nat) (odd : Bool)
  | block (va : Reg) (hdr els n : Nat) (db4 : Bool) (first len : Nat)
  | codes (va : Reg) (col first len : Nat)
  deriving DecidableEq, Repr

/-- The indices of a dimension that a slice word leaves. -/
def CopyDesc.indices (d : CopyDesc) (slice : Reg) (i : Nat) : List Nat :=
  if i = d.sdim then
    let start := (bf slice 0 16).toNat
    let stop := min (start + (bf slice 16 16).toNat) (d.e i)
    (List.range (stop - start)).map (start + ·)
  else List.range (d.e i)

/-- The pieces of one row of the box. -/
def CopyDesc.rowUnits (d : CopyDesc) (i0 : List Nat) (va : Reg) (i1 i2 i3 : Nat) : List CopyUnit :=
  match i0 with
  | [] => []
  | lo :: _ =>
    let hi := lo + i0.length
    let e := elementBytes d.stype
    let isA := d.arr = 1
    let x := slabExtent isA d.stype
    if d.arr = 0 then
      [.run (va + BitVec.ofNat 64 (lo * e)) (d.soff + lo * e + i1 * d.rs.getD 0 0 + i2 * d.rs.getD 1 0 + i3 * d.rs.getD 2 0)
        ((hi - lo) * e) false]
    else if d.arr = 3 then [.codes va i1 0 ((d.npl + 1) * d.lineBytes)]
    else if d.gfmt = 0 then
      let km := 64 / e
      (List.range ((hi - 1) / km - lo / km + 1)).map fun j =>
        let q := lo / km + j
        let a := max lo (q * km)
        let b := min hi ((q + 1) * km)
        .run (va + BitVec.ofNat 64 (a * e)) (d.soff + q * x + 64 * i1 + (a - q * km) * e) ((b - a) * e) false
    else
      let db4 := d.stype = 14
      let km := if db4 then 128 else 64
      let bb := if db4 then 18 else 34
      (List.range ((hi + 31) / 32)).flatMap fun j =>
        let q := 32 * j / km
        let k := 32 * j % km
        let n := min 32 (hi - 32 * j)
        let bytes := if db4 then (n + 1) / 2 else n
        let slab := d.soff + q * x
        let els := slab + 64 * i1 + (if db4 then k / 2 else k)
        let hdr := slab + 64 * slabLines isA + headerBytes d.stype * i1 + 2 * (k / 32)
        let at_ := va + BitVec.ofNat 64 (j * bb)
        if d.dir then [.block at_ hdr els n db4 0 bb]
        else [.run at_ hdr 2 false, .run (at_ + 2) els bytes (db4 && n % 2 = 1)]

/-- The pieces of a group's part of the box. -/
def CopyDesc.partUnits (d : CopyDesc) (slice : Reg) : List CopyUnit :=
  let i0 := d.indices slice 0
  let st (i : Nat) : Reg := d.st.getD i 0
  (d.indices slice 3).flatMap fun i3 => (d.indices slice 2).flatMap fun i2 => (d.indices slice 1).flatMap fun i1 =>
    d.rowUnits i0 (d.base + BitVec.ofNat 64 i1 * st 0 + BitVec.ofNat 64 i2 * st 1 + BitVec.ofNat 64 i3 * st 2) i1 i2 i3

/-- The bytes that a piece writes. -/
def CopyUnit.bytes : CopyUnit → Nat
  | .run _ _ len _ => len
  | .block _ _ _ _ _ _ len => len
  | .codes _ _ _ len => len

/-- `len` bytes of a piece from a place of it on. -/
def CopyUnit.part (first len : Nat) : CopyUnit → CopyUnit
  | .run va off all odd => .run (va + BitVec.ofNat 64 first) (off + first) len (odd && first + len = all)
  | .block va hdr els n db4 a _ => .block va hdr els n db4 (a + first) len
  | .codes va col a _ => .codes va col (a + first) len

/-- Cuts a piece, before which `n` bytes are written, where a granule of `grain` bytes ends in it. -/
def CopyUnit.cut (grain n : Nat) (u : CopyUnit) : List CopyUnit :=
  if u.bytes = 0 then [u]
  else (List.range ((n + u.bytes - 1) / grain - n / grain + 1)).map fun i =>
    let lo := max n ((n / grain + i) * grain)
    let hi := min (n + u.bytes) ((n / grain + i + 1) * grain)
    u.part (lo - n) (hi - lo)

/-- Cuts every piece of a list at the ends of granules. -/
def cutAll (grain : Nat) : Nat → List CopyUnit → List CopyUnit
  | _, [] => []
  | n, u :: t => u.cut grain n ++ cutAll grain (n + u.bytes) t

/-- The pieces of a command, part by part, none across the end of a split granule. -/
def CopyDesc.units (d : CopyDesc) (slices : List Reg) : List CopyUnit :=
  let us := slices.flatMap d.partUnits
  if d.splitg = 0 then us else cutAll (2 ^ (d.splitg + 12)) 0 us

/-- Groups a list, of which `n` bytes are written before, into granules (R225): each ends with the item that reaches the next
multiple of `grain` bytes. -/
def cutBy {α : Type} (size : α → Nat) (grain : Nat) : Nat → List α → List α → List (List α)
  | _, cur, [] => if cur.isEmpty then [] else [cur.reverse]
  | n, cur, u :: t =>
    let m := n + size u
    if m / grain = n / grain then cutBy size grain m (u :: cur) t else (u :: cur).reverse :: cutBy size grain m [] t

/-- What is left of the granules once `n` items are done. -/
def dropDone {α : Type} : Nat → List (List α) → List (List α)
  | _, [] => []
  | n, g :: t => if g.length ≤ n then dropDone (n - g.length) t else g.drop n :: t

/-- The granules of a `cpy` of which `done` pieces are moved: one when it has no split granule. -/
def CopyDesc.granules (d : CopyDesc) (us : List CopyUnit) (done : Nat) : List (List CopyUnit) :=
  dropDone done (if d.splitg = 0 then [us] else cutBy CopyUnit.bytes (2 ^ (d.splitg + 12)) 0 [] us)

/-- Whether `n` items end a granule. -/
def atGranule {α : Type} : Nat → List (List α) → Bool
  | n, [] => n = 0
  | n, g :: t => n = 0 || (decide (g.length ≤ n) && atGranule (n - g.length) t)

/-- The scratchpad ranges of a piece. -/
def CopyDesc.ranges (d : CopyDesc) (u : CopyUnit) : List (Nat × Nat) :=
  match u with
  | .run _ off len _ => [(off, len)]
  | .block _ hdr els n db4 _ _ => [(hdr, 2), (els, if db4 then (n + 1) / 2 else n)]
  | .codes _ col _ _ => (List.range (d.npl + 1)).map fun p => (d.soff + (p * 192 + col) * 64 * d.lstr, d.lineBytes)

/-- Clears the high nibble of the last byte. -/
def clearTop : List Byte → List Byte
  | [] => []
  | [b] => [b &&& 0x0F]
  | b :: t => b :: clearTop t

/-- The weight of element `i` of a packed row of codes of `b` bits. -/
def packedCode (row : List Byte) (b i : Nat) : Nat :=
  (List.range b).foldl (init := 0) fun v j =>
    let k := b * i + j
    if (row.getD (k / 8) 0).getLsbD (k % 8) then v + 2 ^ j else v

/-- The code line of a plane, from the packed row of its column (R222). -/
def CopyDesc.codeLine (d : CopyDesc) (row : List Byte) (p : Nat) : List Byte :=
  let g := d.gsel + 2
  let weights : Array Nat := ((List.range (d.e 0)).map (packedCode row (d.npl + 1))).toArray
  let nib (j : Nat) : Nat := (List.range g).foldl (init := 0) fun v i =>
    if g * j + i < d.e 0 ∧ weights.getD (g * j + i) 0 / 2 ^ p % 2 = 1 then v + 2 ^ i else v
  (List.range d.lineBytes).map fun j => BitVec.ofNat 8 (nib (2 * j) + 16 * nib (2 * j + 1))

/-- Writes bytes into the windows of the receivers. A thread of another workgroup than the command's need not see them before it
acquires at `.clu` (R6, R264; DESIGN CHOICE: notes/assumptions/18). -/
def State.landIn (s : State) (own : Nat) (ws : List Nat) (off : Nat) (bs : List Byte) : State :=
  ws.foldl (init := s) fun s w =>
    if w = own then s.writeSpad w off bs
    else s.modWg w fun x => { x with inbound := x.inbound ++ [{ off := off, bytes := bs }] }

/-- Moves one piece: the bytes written, or the trap that stops it. -/
def State.copyPiece (s : State) (d : CopyDesc) (x : Workgroup) (ws : List Nat) (u : CopyUnit) : State × Except Trap Nat :=
  match u with
  | .run va off len odd =>
    if d.dir then
      let (s, bs) := s.windowRead x.id off len
      match s.engineWrite x.ctx va bs with
      | (s, .error t) => (s, .error t)
      | (s, .ok ()) => (s, .ok len)
    else
      match s.engineRead x.ctx va len with
      | (s, .error t) => (s, .error t)
      | (s, .ok bs) => (s.landIn x.id ws off (if odd then clearTop bs else bs), .ok len)
  | .block va hdr els n db4 first len =>
    let size := if db4 then 16 else 32
    let (s, head) := s.windowRead x.id hdr 2
    let (s, body) := s.windowRead x.id els (if db4 then (n + 1) / 2 else n)
    let body := if db4 && n % 2 = 1 then clearTop body else body
    let bs := ((head ++ (body ++ List.replicate size (0 : Byte)).take size).drop first).take len
    match s.engineWrite x.ctx (va + BitVec.ofNat 64 first) bs with
    | (s, .error t) => (s, .error t)
    | (s, .ok ()) => (s, .ok bs.length)
  | .codes va col first len =>
    match s.engineRead x.ctx va (((d.npl + 1) * d.e 0 + 7) / 8) with
    | (s, .error t) => (s, .error t)
    | (s, .ok row) =>
      ((List.range (d.npl + 1)).foldl (init := s) fun s p =>
        let lo := max first (p * d.lineBytes)
        let hi := min (first + len) ((p + 1) * d.lineBytes)
        if lo < hi then
          s.landIn x.id ws (d.soff + (p * 192 + col) * 64 * d.lstr + (lo - p * d.lineBytes))
            (((d.codeLine row p).drop (lo - p * d.lineBytes)).take (hi - lo))
        else s,
       .ok len)

/-- Moves pieces in turn: how many were moved, the bytes written, and the trap that ended them, if any. -/
def State.copyPieces (d : CopyDesc) (x : Workgroup) (ws : List Nat) : List CopyUnit → State → State × Nat × Nat × Option Trap
  | [], s => (s, 0, 0, none)
  | u :: t, s =>
    match s.copyPiece d x ws u with
    | (s, .error e) => (s, 0, 0, some e)
    | (s, .ok n) =>
      let (s, k, y, e) := State.copyPieces d x ws t s
      (s, k + 1, y + n, e)

/-- The machine of which a granule was begun and given up: what has been drawn, host accesses that timed out, and requests that have left
for other packages and peers, which may be performed there (R351), count. -/
def State.giveUp (s t : State) : State := { s with freeCtr := t.freeCtr, hostFails := t.hostFails, outbox := t.outbox }

/-- Moves granules in turn; one that holds a faulting access is not begun (R253): how many pieces were moved, the bytes
written, and the trap that ended them, if any (DEDUCED: notes/assumptions/20). -/
def State.copyGranules (d : CopyDesc) (x : Workgroup) (ws : List Nat) :
    List (List CopyUnit) → State → State × Nat × Nat × Option Trap
  | [], s => (s, 0, 0, none)
  | g :: t, s =>
    match State.copyPieces d x ws g s with
    | (u, _, _, some e) => (s.giveUp u, 0, 0, some e)
    | (s, k, y, none) =>
      let (s, j, z, e) := State.copyGranules d x ws t s
      (s, k + j, y + z, e)

/-! ### Formation and acceptance of `cpy` (R223, R224) -/

/-- The cluster ranks that an MCAST field names. -/
def castRanks (m : BitVec 4) : List Nat := (List.range 4).filter fun i => m.getLsbD i

/-- The workgroups that receive a command's writes or deliveries. -/
def State.receivers (s : State) (x : Workgroup) (d : CopyDesc) : List Nat :=
  if d.mcast = 0 || d.dir then [x.id] else (castRanks d.mcast).filterMap (s.peerOf x)

/-- A rank of MCAST that is no receiver (R224). -/
def badRank (x : Workgroup) (m : BitVec 4) : Option Nat :=
  if x.peers.isEmpty then (castRanks m).find? fun r => r ≠ 0 else (castRanks m).find? fun r => x.launchSize ≤ r

/-- A fault of the formation, taken by every live thread of the workgroup; the fault address may differ by group. -/
def State.formationFault (s : State) (x : Workgroup) (c : Cause) (addr : List Reg → Reg) : State :=
  let hits := (List.range x.groups.length).flatMap fun g =>
    match s.grp? x.id g with
    | none => []
    | some gr => gr.liveGtids.map fun t =>
        ((⟨x.id, g, t⟩ : ThreadId), trap c (addr (gr.formation.getD [])))
  let s := s.modWg x.id fun y => { y with groups := y.groups.map fun g => { g with formation := none } }
  s.takeFault { hits := hits }

/-- What a group brings to a formation: the descriptor words, the slice word, then BR and NB, then the numbers S and S2. -/
def formationWords (gr : Group) (r : BitVec 4) (a b : BitVec 5) (nb : BitVec 1) : List Reg :=
  ((List.range 8).map fun i => gr.scalar (a + BitVec.ofNat 5 i)) ++
    [gr.scalar b, r.setWidth 64, nb.setWidth 64, a.setWidth 64, b.setWidth 64]

/-- A word of a formation. -/
def formWord (f : List Reg) (i : Nat) : Reg := f.getD i 0

/-- The `cpy` of a formed workgroup (R223): the checks in order, then acceptance. -/
def State.formCopy (s : State) (x : Workgroup) (w g : Nat) (op : Instr) (fs : List (Nat × List Reg)) : GroupAct :=
  let mine := ((fs.head?).map Prod.snd).getD []
  let same (f : List Reg) : Bool := f.take 8 == mine.take 8 && formWord f 9 == formWord mine 9 && formWord f 10 == formWord mine 10
  if !(fs.all fun f => same f.2) then .settled (s.formationFault x .copyMismatch fun _ => 0)
  else
    let ws := mine.take 8
    let d := copyDesc ws
    let slices := fs.map fun f => formWord f.2 8
    match d.illegal ws with
    | some i => .settled (s.formationFault x .engineDescriptor fun f => formWord f 11 + BitVec.ofNat 64 i)
    | none =>
      if slices.any fun v => bf v 32 32 ≠ 0 then .settled (s.formationFault x .engineDescriptor fun f => formWord f 12)
      else if bf d.base 56 8 ≠ 0 then .settled (s.formationFault x .nonCanonical fun _ => d.base)
      else match badRank x d.mcast with
        | some r => .settled (s.formationFault x .clusterRank fun _ => BitVec.ofNat 64 r)
        | none =>
          match lowestBeyond x.window ((d.units slices).flatMap d.ranges) with
          | some o => .settled (s.formationFault x .scratchpadRange fun _ => BitVec.ofNat 64 o)
          | none =>
            if s.copyFull x then
              .settled (fs.foldl (init := s) fun s f => s.modGrp w f.1 fun y => y.mapLive fun t => { t with wait := .formation })
            else
              let counted := fs.map fun f => (w, f.1)
              let bar := if formWord mine 10 = 1 then none else some (formWord mine 9).toNat
              let c := { s.newCommand w g counted (ws ++ slices) [] op with bar := bar, slack := d.slack }
              let s := s.acceptCopy x c
              .settled (fs.foldl (init := s) fun s f =>
                (s.modGrp w f.1 fun y => { y with formation := none, cpyIssued := y.cpyIssued + 1 }).groupPasses w f.1)

/-- `CPY` (R219 to R224). -/
def execCpy (r : BitVec 4) (a b : BitVec 5) (nb : BitVec 1) (s : State) : Out :=
  s.uniform (engineForm (decide (a.toNat ≤ 24))) fun s w g _ =>
    match s.wg? w, s.grp? w g with
    | some x, some gr =>
      let s := s.modGrp w g fun y => { y with formation := some (formationWords gr r a b nb) }
      let live := (List.range x.groups.length).filter fun i => ((x.groups[i]?).map fun y => !y.liveGtids.isEmpty).getD false
      let fs := live.filterMap fun i => ((s.grp? w i).bind Group.formation).map fun f => (i, f)
      if fs.length < live.length then
        .settled (s.modGrp w g fun y => y.mapLive fun t => { t with wait := .formation })
      else s.formCopy x w g (.cpy r a b nb) fs
    | _, _ => .done s

/-! ### `topk` (R235 to R237) -/

/-- The bytes of a key of a type. -/
def keyBytes (t : Nat) : Nat := if t = 1 || t = 5 || t = 9 || t = 10 then 2 else 4

/-- The natural number a key maps to (R236). -/
def keyRank (t : Nat) (key : Nat) : Nat :=
  let w := 8 * keyBytes t
  let top := 2 ^ (w - 1)
  if t = 5 || t = 6 then key
  else if t = 1 || t = 2 then (if key ≥ top then key - top else key + top)
  else if (((fmtOfType t).getD fp32).decode key).isNan then 0
  else if key = top then top
  else if key ≥ top then 2 ^ w - 1 - key
  else key + top

/-- The column of the largest rank among those not chosen yet, the lower column on a tie. -/
def bestColumn (us : List Nat) (chosen : List Nat) : Option Nat :=
  (List.range us.length).foldl (init := none) fun b c =>
    if chosen.contains c then b
    else match b with
      | none => some c
      | some k => if us.getD k 0 < us.getD c 0 then some c else b

/-- The `k` columns of a row in rank order. -/
def rankColumns (us : List Nat) : Nat → List Nat → List Nat
  | 0, chosen => chosen
  | k + 1, chosen => match bestColumn us chosen with
    | none => chosen
    | some c => rankColumns us k (chosen ++ [c])

/-- The fields of a `topk` descriptor. -/
structure TopkDesc where
  ktype : Nat
  k : Nat
  cols : Nat
  rows : Nat
  stride : Nat
  koff : Nat
  ioff : Nat
  moff : Nat
  deriving DecidableEq, Repr

/-- Reads the two words. -/
def topkDesc (a b : Reg) : TopkDesc :=
  { ktype := (bf a 60 4).toNat, k := (bf a 56 3).toNat + 1, cols := (bf a 48 8).toNat + 1, rows := (bf a 36 12).toNat + 1,
    stride := 4 * (bf a 23 13).toNat, koff := (bf a 0 23).toNat, ioff := (bf b 23 23).toNat, moff := (bf b 0 23).toNat }

/-- The ranges of the three areas. -/
def TopkDesc.ranges (d : TopkDesc) : List (Nat × Nat) :=
  ((List.range d.rows).map fun r => (d.koff + r * d.stride, d.cols * keyBytes d.ktype)) ++
    [(d.ioff, 16 * d.rows), (d.moff, 32 * d.rows)]

/-- One row of `topk` in a workgroup (R237). Where a row's mask and its index list overlap, the index list stands
(DESIGN CHOICE: notes/assumptions/115). -/
def TopkDesc.row (d : TopkDesc) (s : State) (w r : Nat) : State :=
  let n := keyBytes d.ktype
  let (s, keys) := s.windowRead w (d.koff + r * d.stride) (d.cols * n)
  let us := (List.range d.cols).map fun c => keyRank d.ktype (leNat ((keys.drop (c * n)).take n))
  let sel := rankColumns us d.k []
  let mask := sel.foldl (init := 0) fun m c => m + 2 ^ c
  let idx := ((sel ++ List.replicate 8 0xFFFF).take 8).flatMap fun c => leBytes 2 c
  (s.writeSpad w (d.moff + 32 * r) (leBytes 32 mask)).writeSpad w (d.ioff + 16 * r) idx

/-- `TOPK` (R235). Of several checks that fail, those of word S go first, then those of word S + 1, then the window
(DESIGN CHOICE: notes/assumptions/116). -/
def execTopk (r : BitVec 4) (a : BitVec 5) (nb : BitVec 1) (s : State) : Out :=
  s.uniform (engineForm (decide (a.toNat ≤ 30))) fun s w g _ =>
    match s.wg? w, s.grp? w g with
    | some x, some gr =>
      let p := gr.scalar a
      let q := gr.scalar (a + 1)
      let d := topkDesc p q
      if !([1, 2, 5, 6, 8, 9, 10] : List Nat).contains d.ktype || p.getLsbD 59 || d.stride < d.cols * keyBytes d.ktype || d.koff % 4 ≠ 0 then
        .fault s (engineDescTrap a.toNat)
      else if bf q 46 18 ≠ 0 || d.ioff % 16 ≠ 0 || d.moff % 32 ≠ 0 then .fault s (engineDescTrap (a.toNat + 1))
      else match lowestBeyond x.window d.ranges with
        | some o => .fault s (spadTrap o)
        | none =>
          if s.copyFull x then .wait s
          else .done (s.acceptCopy x { s.newCommand w g [(w, g)] [p, q] [] (.topk r a nb) with bar := barrierOf r nb })
    | _, _ => .done s

/-! ### `texp` (R238 to R240) -/

/-- The records that a histogram gives (R239), as bytes. -/
def expertRecords (counts : List Nat) : List (List Byte) :=
  (counts.foldl (init := (([] : List (List Byte)), 0, 0)) fun (acc : List (List Byte) × Nat × Nat) (c : Nat) =>
    let (out, base, x) := acc
    let new := (List.range ((c + 127) / 128)).map fun t =>
      let v := min 128 (c - 128 * t)
      leBytes 4 x ++ leBytes 4 (base + 128 * t) ++ leBytes 2 v ++ leBytes 1 (2 ^ ((v + 31) / 32) - 1) ++ leBytes 1 t ++ leBytes 4 c
    (out ++ new, base + c, x + 1)).1

/-- The counts of a histogram. -/
def histogram (data : List Byte) (n : Nat) : List Nat := (List.range n).map fun i => leNat ((data.drop (4 * i)).take 4)

/-- `TEXP` (R238). Of several checks that fail, those of word S go first, then the port, the address, word S + 1 and the histogram's
range (DESIGN CHOICE: notes/assumptions/116). -/
def execTexp (r : BitVec 4) (a : BitVec 5) (nb : BitVec 1) (s : State) : Out :=
  s.uniform (engineForm (decide (a.toNat ≤ 30))) fun s w g _ =>
    match s.wg? w, s.grp? w g with
    | some x, some gr =>
      let p := gr.scalar a
      let q := gr.scalar (a + 1)
      let mode := p.getLsbD 63
      let n := (bf p 52 8).toNat + 1
      let hoff := (bf p 0 23).toNat
      if bf p 23 17 ≠ 0 || hoff % 4 ≠ 0 || (mode && bf p 60 3 ≠ 0) then .fault s (engineDescTrap a.toNat)
      else if !mode && (s.emitPort x (bf p 60 3)).isNone then .fault s (unboundTrap (bf p 60 3))
      else if mode && bf q 56 8 ≠ 0 then .fault s (trap .nonCanonical q)
      else if (mode && q.toNat % 16 ≠ 0) || (!mode && q ≠ 0) then .fault s (engineDescTrap (a.toNat + 1))
      else match rangeBeyond x.window hoff (4 * n) with
        | some o => .fault s (spadTrap o)
        | none =>
          if s.copyFull x then .wait s
          else
            let (s, m) := s.seenAt [(w, g)] [w]
            .done (s.acceptCopy x
              { s.newCommand w g [(w, g)] [p, q] ((m.seenWg x).readSpad hoff (4 * n)) (.texp r a nb) with bar := barrierOf r nb })
    | _, _ => .done s

/-- The records that a `texp` produces, up to its capacity, and whether some were dropped. -/
def Command.texpRecords (c : Command) : List (List Byte) × Bool :=
  let p := c.regs.getD 0 0
  let all := expertRecords (histogram c.data ((bf p 52 8).toNat + 1))
  let cap := (bf p 40 12).toNat + 1
  (all.take cap, decide (cap < all.length))

/-- Whether a record of a `texp` waits for room in a queue. -/
def State.texpWaits (s : State) (core order : Nat) : Bool :=
  s.graphs.any fun g => g.nodes.any fun n => n.waiting.any fun e => e.who == .texp core order

/-- Emits the records of a MODE 0 `texp` that are left, in order, on behalf of its group (R239): how many were emitted, and
whether the next one waits. A record beyond the target's recursion bound is not emitted, and the group takes the fault
(DEDUCED: notes/assumptions/49). -/
def State.texpEmit (core : Nat) (c : Command) (x : Workgroup) : List (List Byte) → State → State × Nat × Bool
  | [], s => (s, 0, false)
  | b :: t, s =>
    let p : BitVec 3 := bf (c.regs.getD 0 0) 60 3
    match s.emitPort x p with
    | none => (s, 0, false)
    | some e =>
      let next (s : State) : State × Nat × Bool :=
        let (s, k, waits) := State.texpEmit core c x t s
        (s, k + 1, waits)
      match s.portDepth x e with
      | none => next (s.takeFault (s.groupDelivery c.wg c.grp (engineTrap (trap .recursionBound (p.setWidth 64)))))
      | some d =>
        match s.emitOver x p e d b (.texp core c.order) with
        | (s, true) => (s, 0, true)
        | (s, false) => next s

/-- Writes the records of a MODE 1 `texp` that are left, then PUB (R240): how many were written, and the trap that ended
them, if any. -/
def State.texpStore (c : Command) (ctx : Nat) : List (List Byte) → Nat → State → State × Nat × Option Trap
  | [], i, s =>
    let base := c.regs.getD 1 0
    let pub := i + 2 ^ 31 + (if c.texpRecords.2 then 2 ^ 30 else 0)
    match s.engineWrite ctx (base + 4) (leBytes 4 pub) with
    | (s, .error e) => (s, i, some e)
    | (s, .ok ()) => (s, i, none)
  | b :: t, i, s =>
    match s.engineWrite ctx (c.regs.getD 1 0 + BitVec.ofNat 64 (16 + 16 * i)) b with
    | (s, .error e) => (s, i, some e)
    | (s, .ok ()) => State.texpStore c ctx t (i + 1) s

/-! ### Waiting (R218) -/

/-- `CWAIT` (R218): the count stands in the word's low 8 bits. -/
def execCwait (s : State) : Out :=
  s.uniform (engineForm true) fun s w g _ =>
    match s.grp? w g with
    | none => .done s
    | some gr => if gr.engineCount ≤ (bf s.ir 0 8 : BitVec 8).toNat then .done (s.groupAcquires w g) else .wait s

/-! ### Progress and completion (R217, R225, R253) -/

/-- The running command of a core, unless a translation fault holds it. -/
def State.activeCopy (s : State) (core : Nat) : Option (Command × Workgroup) :=
  match (s.core? core).bind Core.running? with
  | none => none
  | some c => if c.stopped then none else (s.wg? c.wg).map fun x => (c, x)

/-- The descriptor, the receivers and the granules left of a `cpy`. -/
def State.copyLeft (s : State) (c : Command) (x : Workgroup) : CopyDesc × List Nat × List (List CopyUnit) :=
  let d := copyDesc (c.regs.take 8)
  (d, s.receivers x d, d.granules (d.units (c.regs.drop 8)) c.progress)

/-- The core clocks that a copy-engine command occupies its engine (R316, R324, R325). -/
def Command.copyClocks (c : Command) : Nat :=
  match c.op with
  | .cpy .. => 8 + ((((copyDesc (c.regs.take 8)).units (c.regs.drop 8)).map CopyUnit.bytes).sum + 127) / 128
  | .topk .. =>
    let d := topkDesc (c.regs.getD 0 0) (c.regs.getD 1 0)
    let n := d.cols * keyBytes d.ktype
    let units (at_ : Nat) : Nat := (at_ + n - 1) / 64 - at_ / 64 + 1
    4 + ((List.range d.rows).map fun r => units (d.koff + r * d.stride) + 8 * keyBytes d.ktype + 9).sum
  | .texp .. =>
    let p := c.regs.getD 0 0
    4 + ((bf p 52 8).toNat + 1) + c.texpRecords.1.length + (if p.getLsbD 63 then 1 else 0)
  | _ => 0

/-- A copy-engine command completes: it leaves the queue, the counts fall, the arrival is made at each receiver, and the
engine starts another (R217, R225, R274). -/
def State.finishCopy (s : State) (core : Nat) (c : Command) (receivers : List Nat) (wroteGlobal : Bool) : State :=
  let s := (s.countBusy c.wg (720 + core) c.copyClocks).modCore core fun k =>
    { k with copy := k.copy.filter (fun x => x.order ≠ c.order), copyRunning := none, copyCompleted := k.copyCompleted + 1 }.start
  let s := s.counts c.counted fun g => { g with engineCount := g.engineCount - 1 }
  let s := if wroteGlobal then s.dropShared c.wg else s
  let s := receivers.foldl (init := s) fun s w => s.deliverTo w c.bar 1 0
  s.wakeEngines.quiet.tryComplete c.wg

/-- Delivers the bytes that have landed (R217, R224). -/
def State.landed (s : State) (c : Command) (ws : List Nat) (y : Nat) : State :=
  if y = 0 then s else ws.foldl (init := s) fun s w => s.deliverTo w c.bar 0 y

/-- The bytes that the running command of a core has read and not written are written, and their landing is delivered. -/
def State.settleCopy (s : State) (core : Nat) (c : Command) (x : Workgroup) : State :=
  if c.afloat.isEmpty && c.owed = 0 then s
  else
    let s := (c.afloat.foldl (init := s) State.landByte).modCopy core c.order fun e => { e with afloat := [], owed := 0 }
    s.landed c (s.receivers x (copyDesc (c.regs.take 8))) c.owed

/-- Some of the bytes of the next granule of a core's running `cpy`, or of its next row of `topk`, land before the others: they are
read, and written or not by a free value (R226). -/
def State.copyPartway (s : State) (core : Nat) : State :=
  match s.activeCopy core with
  | none => s
  | some (c, x) =>
    if c.dying then s
    else if !c.afloat.isEmpty then
      s.actAs c fun s =>
        let (s, l) := s.landAfloat c.afloat
        s.modCopy core c.order fun e => { e with afloat := l }
    else
      let s := s.settleCopy core c x
      let begin_ (go : State → State × Nat × Nat) : State := s.actAs c fun s =>
        let (t, k, y) := go s
        let (u, l) := (s.readOnly t).landAfloat (s.afloatIn t x.id)
        u.modCopy core c.order fun e => { e with progress := e.progress + k, afloat := l, owed := y }
      match c.op with
      | .cpy .. =>
        let (d, ws, left) := s.copyLeft c x
        begin_ fun s => let (t, k, y, _) := State.copyGranules d x ws (left.take 1) s; (t, k, y)
      | .topk .. =>
        let d := topkDesc (c.regs.getD 0 0) (c.regs.getD 1 0)
        if c.progress < d.rows then begin_ fun s => (d.row s c.wg c.progress, 1, 0) else s
      | _ => s

/-- `COPY_BYTES_LANDED` (R152, R217): the running `cpy` of a core lands more of its bytes. The input's unit is the core, its
second number how many pieces land at once (0: all that are left). -/
def execCopyBytesLanded (s : State) : Out :=
  s.event fun s inp =>
    match s.activeCopy inp.unit with
    | some (c, x) => if c.dying then s else match c.op with
      | .cpy .. =>
        let (d, ws, left) := s.copyLeft c x
        let left := if inp.sub = 0 then left.flatten else left.flatten.take inp.sub
        (s.settleCopy inp.unit c x).actAs c fun s =>
          let (s, k, y, _) := State.copyPieces d x ws left s
          (s.modCopy inp.unit c.order fun e => { e with progress := e.progress + k }).landed c ws y
      | _ => s
    | none => s

/-- Brings the running command of a core to its end as far as it goes: the machine, the receivers of its deliveries if it
completes, whether it wrote global memory, and the trap that stops it, if any. -/
def State.advanceCopy (s : State) (core : Nat) (c : Command) (x : Workgroup) : State × Option (List Nat × Bool) × Option Trap :=
  let s : State := { s.settleCopy core c x with acting := some c.order }
  let (s, r, e) := go s
  ({ s with acting := none }, r, e)
where
  /-- What is left of the command. -/
  go (s : State) : State × Option (List Nat × Bool) × Option Trap := match c.op with
    | .cpy .. =>
      let (d, ws, left) := s.copyLeft c x
      let (s, k, y, e) := State.copyGranules d x ws left s
      let s := (s.modCopy core c.order fun z => { z with progress := z.progress + k }).landed c ws y
      (s, if e.isNone then some (ws, d.dir) else none, e)
    | .topk .. =>
      let d := topkDesc (c.regs.getD 0 0) (c.regs.getD 1 0)
      (((List.range d.rows).drop c.progress).foldl (init := s) fun s r => d.row s c.wg r, some ([c.wg], false), none)
    | .texp .. =>
      let left := (c.texpRecords.1).drop c.progress
      if (c.regs.getD 0 0).getLsbD 63 then
        let (s, i, e) := State.texpStore c x.ctx left c.progress s
        (s.modCopy core c.order fun z => { z with progress := i }, if e.isNone then some ([c.wg], true) else none, e)
      else if s.texpWaits core c.order then (s, none, none)
      else
        let (s, k, waits) := State.texpEmit core c x left s
        (s.modCopy core c.order fun z => { z with progress := c.progress + k }, if waits then none else some ([c.wg], false), none)
    | _ => (s, none, none)

/-- Whether a killed workgroup's command that stands at the end of a granule has begun the next one: a free value. Elsewhere
it is in the midst of one. -/
def State.begun (s : State) (edge : Bool) : State × Bool :=
  if edge then let (s, v) := s.draw; (s, v.getLsbD 0) else (s, true)

/-- A running command of a killed workgroup goes on to its next split granule and is abandoned: nothing is delivered (R335). -/
def State.endDyingCopy (s : State) (core : Nat) (c : Command) (x : Workgroup) : State :=
  let s := s.actAs c fun s =>
    if !c.afloat.isEmpty then c.afloat.foldl (init := s) State.landByte
    else match c.op with
      | .cpy .. =>
        let (d, ws, left) := s.copyLeft c x
        let (s, go) := s.begun (atGranule c.progress (d.granules (d.units (c.regs.drop 8)) 0))
        if go then (State.copyGranules d x ws (left.take 1) s).1 else s
      | .topk .. =>
        let d := topkDesc (c.regs.getD 0 0) (c.regs.getD 1 0)
        let (s, go) := s.begun true
        if go && c.progress < d.rows then d.row s c.wg c.progress else s
      | _ => s
  let s := s.modCore core fun k =>
    { k with copy := k.copy.filter (fun z => z.order ≠ c.order), copyRunning := none }.start
  s.wakeEngines.quiet.tryComplete c.wg

/-- A copy-engine command that has moved all it has to completes, unless the delivery of its last bytes has ended its workgroup or
stopped it (R154, R335). -/
def State.finishUnlessEnded (s : State) (core : Nat) (c : Command) (receivers : List Nat) (wroteGlobal : Bool) : State :=
  match s.activeCopy core with
  | some (d, _) => if d.order = c.order && !d.dying then s.finishCopy core c receivers wroteGlobal else s
  | none => s

/-- `COPY_COMMAND_COMPLETE` (R217): the running command of a core performs what is left of it and completes. An access of it
that faults keeps the event from coming about; a `texp` goes as far as back-pressure allows; the command of a killed
workgroup ends at its next split granule (R335). The input's unit is the core. -/
def execCopyCommandComplete (s : State) : Out :=
  s.event fun s inp =>
    match s.activeCopy inp.unit with
    | none => s
    | some (c, x) =>
      if c.dying then s.endDyingCopy inp.unit c x
      else match s.advanceCopy inp.unit c x with
      | (_, _, some _) => s
      | (t, none, none) => t
      | (t, some (ws, glob), none) => t.finishUnlessEnded inp.unit c ws glob

/-- A running copy-engine command meets a fault of an access: it stops there, and the fault is delivered to its
workgroup. -/
def State.copyFault (s : State) (core : Nat) : State :=
  match s.activeCopy core with
  | none => s
  | some (c, x) =>
    if c.dying then s
    else match s.advanceCopy core c x with
    | (t, _, some e) =>
      let t := t.modCopy core c.order fun z => { z with stopped := true }
      t.takeFault (t.commandDelivery c.wg c.order e)
    | _ => s

end Sys2Proof.Machine
end

