-- ==== Sys2Proof/Machine/Tambour.lean ====
section
/-! DEFINITION. The tambour: `lay` and `layq` (R227 to R232), copy nodes (R233, R234, R318), and faults of running engine
commands (R253). -/

namespace Sys2Proof.Machine

open Sys2Proof

/-! ### Shapes (R227 to R229) -/

/-- The operands of a `lay`: source and destination base, the halves of the DMW, the shape words. -/
structure LayDesc where
  src : Reg
  dst : Reg
  lo : Reg
  hi : Reg
  sh0 : Reg
  sh1 : Reg
  deriving DecidableEq, Repr

/-- Reads six operand words. -/
def layDesc (ws : List Reg) : LayDesc :=
  { src := ws.getD 0 0, dst := ws.getD 1 0, lo := ws.getD 2 0, hi := ws.getD 3 0, sh0 := ws.getD 4 0, sh1 := ws.getD 5 0 }

/-- A source extent. -/
def LayDesc.e (d : LayDesc) (i : Nat) : Nat :=
  if i < 4 then ((d.sh0 >>> (16 * i)).setWidth 16).toNat else ((d.sh1 >>> (16 * (i - 4))).setWidth 16).toNat

/-- ND. -/
def LayDesc.nd (d : LayDesc) : Nat := (bf d.hi 8 3).toNat

/-- A SPLIT field. -/
def LayDesc.split (d : LayDesc) (i : Nat) : Nat := ((d.lo >>> (24 + 6 * i)).setWidth 6).toNat

/-- A PERM field. -/
def LayDesc.perm (d : LayDesc) (j : Nat) : Nat := ((d.lo >>> (3 * j)).setWidth 3).toNat

/-- The element size. -/
def LayDesc.esz (d : LayDesc) : Nat := 2 ^ (bf d.sh1 32 2).toNat

/-- Whether the source lies in scratchpad. -/
def LayDesc.ssp (d : LayDesc) : Bool := d.sh1.getLsbD 34

/-- Whether the destination lies in scratchpad. -/
def LayDesc.dsp (d : LayDesc) : Bool := d.sh1.getLsbD 35

/-- SPLITG. -/
def LayDesc.splitg (d : LayDesc) : Nat := (bf d.sh1 36 3).toNat

/-- The sizes of the logical dimensions (R229). -/
def LayDesc.sizes (d : LayDesc) : List Nat :=
  (List.range (min d.nd 5 + 1)).flatMap fun i =>
    if d.split i = 0 then [d.e i] else [2 ^ d.split i, d.e i / 2 ^ d.split i]

/-- The number L of logical dimensions. -/
def LayDesc.dims (d : LayDesc) : Nat := d.sizes.length

/-- Whether an extent breaks R229: not 1 beyond ND, or not a multiple of its split. -/
def LayDesc.badExtent (d : LayDesc) (i : Nat) : Bool := if d.nd < i then d.e i ≠ 1 else d.e i % 2 ^ d.split i ≠ 0

/-- The operand word at fault under R229, by its place among the six. -/
def LayDesc.illegal (d : LayDesc) : Option Nat :=
  let l := d.dims
  let used := (List.range l).map d.perm
  if d.nd ≥ 6 || (List.range 5).any (fun j => l ≤ j + 1 && d.hi.getLsbD j) || bf d.hi 11 53 ≠ 0 || bf d.hi 5 3 ≠ 0 then some 3
  else if l > 6 || (List.range 6).any (fun i => d.nd < i && d.split i ≠ 0) || !((List.range l).all used.contains) ||
      (List.range 6).any (fun j => l ≤ j && d.perm j ≠ 0) || bf d.lo 60 4 ≠ 0 || bf d.lo 18 6 ≠ 0 then some 2
  else if (List.range 4).any d.badExtent then some 4
  else if d.badExtent 4 || d.badExtent 5 || bf d.sh1 39 25 ≠ 0 then some 5
  else if !multipleOf d.src d.esz then some 0
  else if !multipleOf d.dst d.esz then some 1
  else none

/-- The elements of a tensor. -/
def LayDesc.elements (d : LayDesc) : Nat := d.sizes.foldl (init := 1) (· * ·)

/-! ### Places (R230, R231) -/

/-- The stride, in elements, of a logical dimension in the destination. -/
def LayDesc.dstStride (d : LayDesc) (j : Nat) : Nat :=
  ((List.range d.dims).takeWhile fun q => d.perm q ≠ j).foldl (init := 1) fun n q => n * d.sizes.getD (d.perm q) 1

/-- The place, in elements, that the source element of a place takes in the destination. -/
def LayDesc.place (d : LayDesc) (i : Nat) : Nat :=
  ((List.range d.dims).foldl (init := (i, 0)) fun (acc : Nat × Nat) j =>
    let n := d.sizes.getD j 1
    (acc.1 / n, acc.2 + acc.1 % n * d.dstStride j)).2

/-- The runs of source blocks with the destination blocks that their elements go to. -/
def blockRuns : List (Nat × Nat) → List (Nat × List Nat)
  | [] => []
  | (s, t) :: l =>
    match blockRuns l with
    | (a, ts) :: r => if a = s then (a, if ts.contains t then ts else t :: ts) :: r else (s, [t]) :: (a, ts) :: r
    | [] => [(s, [t])]

/-- The number of passes P (R231) (DEDUCED: notes/assumptions/25). -/
def LayDesc.passes (d : LayDesc) : Nat :=
  let n := d.elements
  if n = 0 then 0
  else
    let runs : List (Nat × List Nat) := blockRuns ((List.range n).map fun i => (i * d.esz / 512, d.place i * d.esz / 512))
    let firsts : List Nat := runs.map fun r => r.2.headD 0
    if runs.all (fun r => r.2.length = 1) && decide firsts.Nodup then 1 else 2

/-- The number of destination dimensions after merging. -/
def LayDesc.merged (d : LayDesc) : Nat := d.dims - ((List.range 5).filter fun j => j + 1 < d.dims && d.hi.getLsbD j).length

/-- The checks of a `lay` in a workgroup (R215, R227, R229). -/
def LayDesc.check (d : LayDesc) (window : Nat) (regs : List Nat) : Option Trap :=
  match d.illegal with
  | some i => some (engineDescTrap (regs.getD i 0))
  | none =>
    if !d.ssp && bf d.src 56 8 ≠ 0 then some (trap .nonCanonical d.src)
    else if !d.dsp && bf d.dst 56 8 ≠ 0 then some (trap .nonCanonical d.dst)
    else
      let t := d.elements * d.esz
      (lowestBeyond window ((if d.ssp then [(d.src.toNat, t)] else []) ++ (if d.dsp then [(d.dst.toNat, t)] else []))).map spadTrap

/-- The operand words of a group's `lay`. -/
def layWords (gr : Group) (a h : BitVec 5) : List Reg :=
  [gr.scalar a, gr.scalar (a + 1), gr.scalar (a + 2), gr.scalar (a + 3), gr.scalar h, gr.scalar (h + 1)]

/-- The scalar registers that hold the operand words. -/
def layRegs (a h : BitVec 5) : List Nat := [a.toNat, a.toNat + 1, a.toNat + 2, a.toNat + 3, h.toNat, h.toNat + 1]

/-! ### Acceptance (R318) -/

/-- The tambour of a core's cluster. -/
def tambourOf (core : Nat) : Nat := core / 4

/-- Whether a tambour's queue is full. -/
def State.tambourFull (s : State) (c : Nat) : Bool := queueFull (s.tambours.getD c [])

/-- Enters a command at the tail of a tambour's queue. -/
def State.queueTambour (s : State) (c : Nat) (x : Command) : State :=
  { s with nextId := s.nextId + 1, tambours := s.tambours.modify c fun q => q ++ [x] }

/-- `LAY` (R227 to R230). The writes that its workgroup has made before are performed first (R6, R226, R265). -/
def execLay (r : BitVec 4) (a h : BitVec 5) (nb : BitVec 1) (s : State) : Out :=
  s.uniform (engineForm (a.toNat ≤ 28 && h.toNat ≤ 30)) fun s w g _ =>
    match s.wg? w, s.grp? w g with
    | some x, some gr =>
      let ws := layWords gr a h
      match (layDesc ws).check x.window (layRegs a h) with
      | some t => .fault s t
      | none =>
        if s.tambourFull (tambourOf x.core) then .wait s
        else
          let s := s.drainAll x.id
          let c := { s.newCommand w g [(w, g)] ws [] (.lay r a h nb) with bar := barrierOf r nb }
          .done (((s.acceptRaces c.order c.counted).queueTambour (tambourOf x.core) c).counts c.counted fun y =>
            { y with engineCount := y.engineCount + 1 })
    | _, _ => .done s

/-- `LAYQ` (R231). -/
def execLayq (a h d : BitVec 5) (s : State) : Out :=
  s.uniform (engineForm (a.toNat ≤ 28 && h.toNat ≤ 30)) fun s w g _ =>
    match s.wg? w, s.grp? w g with
    | some x, some gr =>
      let l := layDesc (layWords gr a h)
      match l.check x.window (layRegs a h) with
      | some t => .fault s t
      | none => .done (s.writeScalar w g d.toNat (BitVec.ofNat 64 (l.passes + 4 * (l.merged - 1))))
    | _, _ => .done s

/-! ### Performing a `lay` (R230, R232) -/

/-- Who a tambour's command belongs to: a context, and the workgroup if it is a thread's. -/
structure LayParty where
  ctx : Nat
  wg : Option Nat
  deriving DecidableEq, Repr

/-- Reads `n` bytes of a tensor at a place. -/
def State.layRead (s : State) (p : LayParty) (spad : Bool) (a : Reg) (n : Nat) : State × Except Trap (List Byte) :=
  if spad then (match p.wg with
    | some w => let (s, bs) := s.windowRead w a.toNat n; (s, .ok bs)
    | none => (s, .ok []))
  else s.engineRead p.ctx a n

/-- Writes bytes of a tensor at a place. -/
def State.layWrite (s : State) (p : LayParty) (spad : Bool) (a : Reg) (bs : List Byte) : State × Except Trap Unit :=
  if spad then ((match p.wg with | some w => s.writeSpad w a.toNat bs | none => s), .ok ())
  else s.engineWrite p.ctx a bs

/-- Whether the ranges of source and destination overlap. -/
def LayDesc.overlaps (d : LayDesc) : Bool :=
  let t := d.elements * d.esz
  d.ssp == d.dsp && d.src.toNat < d.dst.toNat + t && d.dst.toNat < d.src.toNat + t

/-- Runs of 64 blocks. -/
def runsOf64 : Nat → List (List Nat) → List (List Nat)
  | 0, l => if l.isEmpty then [] else [l.flatten]
  | k + 1, l => if l.isEmpty then [] else (l.take 64).flatten :: runsOf64 k (l.drop 64)

/-- The tiles that the tambour moves one after the other (R319), each the source places of its elements in the order they are written.
With one pass a tile is a source block, in ascending order; with two it is a staging tile: the destination blocks by the source place
of the element at each block's lowest place, 64 to a tile. -/
def LayDesc.tiles (d : LayDesc) : List (List Nat) :=
  let n := d.elements
  let per := 512 / d.esz
  match d.passes with
  | 0 => []
  | 1 => (List.range ((n + per - 1) / per)).map fun k => (List.range (min per (n - k * per))).map (k * per + ·)
  | _ =>
    let inv : Array Nat := (List.range n).foldl (init := Array.replicate n 0) fun a i => a.setIfInBounds (d.place i) i
    let firsts := ((List.range n).map fun i => d.place i).filter fun k => k % per = 0
    runsOf64 firsts.length (firsts.map fun k => ((List.range per).filterMap fun j => inv[k + j]?))

/-- The source blocks that hold elements of a tile, ascending (R319). -/
def LayDesc.sources (d : LayDesc) (tile : List Nat) : List Nat :=
  let per := 512 / d.esz
  (List.range ((d.elements + per - 1) / per)).filter fun k => tile.any fun i => i / per = k

/-- The granules of a `lay` (R225, R320), each the tiles it has: one when it has no split granule. -/
def LayDesc.granules (d : LayDesc) : List (List (List Nat)) :=
  if d.splitg = 0 then [d.tiles]
  else cutBy (fun (b : List Nat) => b.length * d.esz) (2 ^ (d.splitg + 12)) 0 [] d.tiles

/-- The clocks that a `lay`, or a copy node's record, occupies its tambour (R319). -/
def LayDesc.clocks (d : LayDesc) : Nat :=
  let blocks := (d.elements * d.esz + 511) / 512
  match d.passes with
  | 0 => 16
  | 1 => 16 + 32 + blocks
  | _ => 16 + 64 + (d.tiles.map fun l => (d.sources l).length).sum + blocks + 16 * d.tiles.length

/-- Reads whole source blocks. -/
def State.layBlocks (d : LayDesc) (p : LayParty) : List Nat → State → State × Except Trap (List (Nat × List Byte))
  | [], s => (s, .ok [])
  | k :: t, s =>
    match s.layRead p d.ssp (d.src + BitVec.ofNat 64 (512 * k)) (min 512 (d.elements * d.esz - 512 * k)) with
    | (s, .error e) => (s, .error e)
    | (s, .ok bs) =>
      match State.layBlocks d p t s with
      | (s, .error e) => (s, .error e)
      | (s, .ok l) => (s, .ok ((k, bs) :: l))

/-- Reads the elements of a tile: every source block that holds one of them is read whole, in ascending order (R319). -/
def State.layTile (d : LayDesc) (p : LayParty) (tile : List Nat) (s : State) : State × Except Trap (List (Nat × List Byte)) :=
  match State.layBlocks d p (d.sources tile) s with
  | (s, .error e) => (s, .error e)
  | (s, .ok bs) =>
    (s, .ok (tile.map fun i => (i, (((bs.lookup (i * d.esz / 512)).getD []).drop (i * d.esz % 512)).take d.esz)))

/-- Reads the elements of tiles. -/
def State.layAll (d : LayDesc) (p : LayParty) : List (List Nat) → State → State × Except Trap (List (Nat × List Byte))
  | [], s => (s, .ok [])
  | tile :: t, s =>
    match State.layTile d p tile s with
    | (s, .error e) => (s, .error e)
    | (s, .ok vals) =>
      match State.layAll d p t s with
      | (s, .error e) => (s, .error e)
      | (s, .ok l) => (s, .ok (vals ++ l))

/-- Writes elements at their places. -/
def State.layPut (d : LayDesc) (p : LayParty) : List (Nat × List Byte) → State → State × Option Trap
  | [], s => (s, none)
  | (i, bs) :: t, s =>
    match s.layWrite p d.dsp (d.dst + BitVec.ofNat 64 (d.place i * d.esz)) bs with
    | (s, .error e) => (s, some e)
    | (s, .ok ()) => State.layPut d p t s

/-- What the destination takes for each element of a tensor whose source and destination overlap: its source element's value, or the
value of the element, of those copied together, that the command writes over that source element; a free value decides (R232;
DEDUCED: notes/assumptions/20). -/
def State.layMix (d : LayDesc) (vals : List (Nat × List Byte)) : List (Nat × List Byte) → State → State × List (Nat × List Byte)
  | [], s => (s, [])
  | (i, own) :: t, s =>
    let at_ := d.src.toNat + i * d.esz
    let slot := (at_ - d.dst.toNat) / d.esz
    let over_ : Option (Nat × List Byte) :=
      if d.dst.toNat ≤ at_ ∧ (at_ - d.dst.toNat) % d.esz = 0 then vals.find? fun k => d.place k.1 = slot else none
    let (s, v) := s.draw
    let bs := match over_ with
      | some k => if v.getLsbD 0 then k.2 else own
      | none => own
    let (s, l) := State.layMix d vals t s
    (s, (i, bs) :: l)

/-- Copies tiles one after the other, the elements of each read before the first is written (R319)
(DEDUCED: notes/assumptions/25). -/
def State.layTiles (d : LayDesc) (p : LayParty) : List (List Nat) → State → State × Option Trap
  | [], s => (s, none)
  | tile :: t, s =>
    match State.layTile d p tile s with
    | (s, .error e) => (s, some e)
    | (s, .ok vals) =>
      match State.layPut d p vals s with
      | (s, some e) => (s, some e)
      | (s, none) => State.layTiles d p t s

/-- Copies tiles: the trap that ends it, if any. -/
def State.layBatch (d : LayDesc) (p : LayParty) (l : List (List Nat)) (s : State) : State × Option Trap :=
  if d.overlaps then
    match State.layAll d p l s with
    | (s, .error e) => (s, some e)
    | (s, .ok vals) =>
      let (s, vals) := State.layMix d vals vals s
      State.layPut d p vals s
  else State.layTiles d p l s

/-- Copies granules in turn; one that holds a faulting access is not begun (R253): how many tiles were copied, and the
trap that ended them, if any. -/
def State.layGranules (d : LayDesc) (p : LayParty) : List (List (List Nat)) → State → State × Nat × Option Trap
  | [], s => (s, 0, none)
  | g :: t, s =>
    match State.layBatch d p g s with
    | (u, some e) => (s.giveUp u, 0, some e)
    | (s, none) =>
      let (s, j, e) := State.layGranules d p t s
      (s, g.length + j, e)

/-- Performs what is left of a `lay`: how many tiles were copied, and the trap that stops it, if any. -/
def State.layRest (s : State) (d : LayDesc) (p : LayParty) (done : Nat) : State × Nat × Option Trap :=
  let left := dropDone done d.granules
  match State.layBatch d p left.flatten s with
  | (t, none) => (t, left.flatten.length, none)
  | _ => State.layGranules d p left s

/-! ### Copy nodes (R234, R318) -/

/-- The copy-node launch that a tambour's command was placed for. -/
def State.copyLaunchOf (s : State) (id : Nat) : Option (Graph × Nat × CopyLaunch) :=
  s.graphs.findSome? fun g => (List.range g.nodes.length).findSome? fun n =>
    match g.nodes[n]? with
    | none => none
    | some nd => (nd.copyLaunches.find? fun c => c.id == id).map fun c => (g, n, c)

/-- The party of a tambour's command. -/
def State.layParty (s : State) (c : Command) : Option LayParty :=
  match s.wg? c.wg with
  | some x => some ⟨x.ctx, some x.id⟩
  | none => (s.copyLaunchOf c.wg).map fun e => ⟨e.1.ctx, none⟩

/-- The operand words that a copy node forms for a record (R234): the node's body, with the record's nonzero fields in
place of the bases and the shape (DEDUCED: notes/assumptions/48). -/
def copyNodeWords (body : List Reg) (record : List Byte) : List Reg :=
  let field (i : Nat) : Reg := leReg ((record.drop (8 * i)).take 8)
  let pick (f b : Reg) : Reg := if f = 0 then b else f
  [pick (field 0) (body.getD 0 0), pick (field 2) (body.getD 1 0), body.getD 2 0, body.getD 3 0,
   pick (field 1) (body.getD 4 0), body.getD 5 0]

/-- Changes a copy-node launch. -/
def State.modCopyLaunch (s : State) (g n id : Nat) (f : CopyLaunch → CopyLaunch) : State :=
  s.modNode g n fun nd => { nd with copyLaunches := nd.copyLaunches.map fun c => if c.id = id then f c else c }

/-- Whether a record of a copy-node launch waits in a queue. -/
def State.copyWaits (s : State) (id : Nat) : Bool :=
  s.graphs.any fun g => g.nodes.any fun n => n.waiting.any fun e => e.who == .copyNode id

/-- A fault of a launch of a copy node (R334): under park a translation fault, and under halt every fault, holds the launch;
every other kills the node. Parked translation faults on one page share an entry (R331, R346). -/
def State.copyNodeFault (s : State) (g : Graph) (n id : Nat) (t : Trap) : State :=
  let rcb := ((g.nodes[n]?).map fun (x : Node) => x.desc.rcb).getD 0
  let policy := ((g.region? rcb).map Region.policy).getD 0
  let brk := ((s.ctx? g.ctx).map Context.brkEn).getD false
  let want := if policy = 5 && !brk then 4 else policy
  let want := if want = 4 && !t.cause.isTranslation then 1 else if want = 0 then 1 else want
  let s := s.modGraph g.id fun x => { x with faults := x.faults + 1 }
  let fields : LogFields :=
    { ctx := g.ctx, cause := t.cause.code, policy := want, unit := t.unit, acc := t.acc, rcb := rcb, node := n, group := 0,
      faddr := t.addr, pc := 0, graphid := g.graphid, launch := 0, nthr := 0 }
  let endNode (s : State) : State :=
    let (s, ds) := match want with
      | 2 => s.killNodes g.ctx fun _ d => d.rcb == rcb
      | 3 => s.killNodes g.ctx fun h d => (h.chain d.rcb).contains rcb
      | _ => s.killNode g.id n
    s.takeFaults ds
  let hold (s : State) (seq : Nat) : State :=
    { s.modCopyLaunch g.id n id (fun l => { l with heldBy := some seq }) with
      tambours := s.tambours.map fun q => q.map fun c => if c.bar.isNone && c.wg = id then { c with stopped := true } else c }
  let page : Option Reg := if t.cause.isTranslation && want = 4 then some (t.addr >>> 12) else none
  match page.bind fun p => s.sharedEntry g.ctx p with
  | some v =>
    hold ((s.bumpLog v).modService v.ctx v.seq fun u => { u with nodes := u.nodes ++ [(g.id, n)], count := u.count + 1 }) v.seq
  | none =>
    match s.writeLog fields with
    | (s, none) => endNode s
    | (s, some (seq, place)) =>
      if want ≥ 4 then
        let v : Service := { ctx := g.ctx, seq := seq, place := place, groups := [], count := 1, page := page,
                             nodes := [(g.id, n)], skip := [], orders := [] }
        hold { s with services := v :: s.services } seq
      else endNode s

/-- Queues the `lay` of the next record of a copy-node launch, unless a command of the launch is there already or the queue is
full (R318). A record whose words fail the checks of R229 faults the node. -/
def State.copyQueue (s : State) (g : Graph) (n : Nat) (l : CopyLaunch) (r : Rec) : State :=
  let body := ((g.nodes[n]?).map fun (x : Node) => x.desc.body).getD []
  let ws := copyNodeWords body r.bytes
  let d := layDesc ws
  if s.tambourFull l.cluster || s.tambours.any fun q => q.any fun c => c.bar.isNone && c.wg == l.id then s
  else match (if d.ssp || d.dsp then some (engineDescTrap 5) else d.check 0 [0, 1, 2, 3, 4, 5]) with
    | some t => s.copyNodeFault g n l.id (engineTrap t)
    | none => s.queueTambour l.cluster (s.newCommand l.id 0 [] ws [] (.lay 0 0 0 1))

/-- Ends a copy-node launch whose last record has been forwarded: its records are freed. -/
def State.endCopyLaunch (s : State) (g : Graph) (n : Nat) (l : CopyLaunch) : State :=
  let held := ((s.node? g.id n).map fun nd => (nd.held.filter fun (e : Nat × List Rec) => e.1 = l.id).flatMap Prod.snd).getD []
  let s := s.freeRecords g.id n held
  let s := s.modNode g.id n fun nd =>
    { nd with copyLaunches := nd.copyLaunches.filter (fun c => c.id ≠ l.id),
              held := nd.held.filter fun (e : Nat × List Rec) => e.1 ≠ l.id }
  s.noteCandidates g.id

/-- The out-ports of a copy node that its records are forwarded to. -/
def NodeDesc.emitPorts (d : NodeDesc) : List Nat :=
  (List.range 8).filter fun i => ((d.ports[i]?).map fun p => p.valid && !p.compl).getD false

/-- Emits the current record of a copy-node launch to the ports left (R234): the ports still left when one of the emits
must wait. -/
def State.forward (g : Graph) (n : Nat) (l : CopyLaunch) (r : Rec) : List Nat → State → State × List Nat
  | [], s => (s, [])
  | p :: t, s =>
    match (g.nodes[n]?).bind fun (x : Node) => x.desc.ports[p]? with
    | none => State.forward g n l r t s
    | some e =>
      let d := emitDepth n e.node l.depth e.remote
      let target := s.node? g.id e.node
      let bound := if e.remote then e.rdepth else (target.map fun (x : Node) => x.desc.depth).getD 0
      if bound < d then (s.copyNodeFault g n l.id (engineTrap (trap .recursionBound (BitVec.ofNat 64 p))), p :: t)
      else if e.remote then
        if s.hasCredit g.id n p then State.forward g n l r t (s.sendRemote g.id n p e r.bytes d) else (s, p :: t)
      else
        let size := recordBytes ((target.map fun (x : Node) => x.desc.rsize).getD 0)
        let bytes := (r.bytes ++ List.replicate 128 (0 : Byte)).take size
        match s.arrive (s.joinFuel g.id) g.id e.node bytes d (.copyNode l.id) with
        | (s, false) => State.forward g n l r t (s.noteCandidates g.id)
        | (s, true) => (s, t)

/-- Goes on with a copy-node launch (R234): a record whose `lay` has completed is forwarded, and the next record's `lay` is
queued. A launch whose record waits in a queue, or that a fault-log entry holds (R334), stands still. -/
def State.copyNodeGo (s : State) (id : Nat) : State :=
  match s.copyLaunchOf id with
  | none => s
  | some (g, n, l) =>
    if l.heldBy.isSome then s
    else match l.records, l.forwarding with
    | [], _ => s
    | r :: _, none => s.copyQueue g n l r
    | r :: rest, some ps =>
      if s.copyWaits id then s
      else
        let (s, left) := State.forward g n l r ps s
        if !left.isEmpty || s.copyWaits id then
          s.modCopyLaunch g.id n id fun c => { c with forwarding := some left }
        else match s.copyLaunchOf id, rest with
          | none, _ => s
          | some _, [] => s.endCopyLaunch g n l
          | some _, r :: _ =>
            let s := s.modCopyLaunch g.id n id fun c => { c with records := rest, forwarding := none }
            s.copyQueue g n l r

/-- Goes on with every copy-node launch. -/
def State.copyNodesGo (s : State) : State :=
  (s.graphs.flatMap fun g => g.nodes.flatMap fun n => n.copyLaunches.map CopyLaunch.id).foldl (init := s) State.copyNodeGo

/-! ### Completion and faults (R232, R253) -/

/-- The command at the head of a tambour's queue, unless a translation fault holds it. -/
def State.activeLay (s : State) (cluster : Nat) : Option (Command × LayParty) :=
  match (s.tambours.getD cluster []).head? with
  | none => none
  | some c => if c.stopped then none else (s.layParty c).map fun p => (c, p)

/-- Changes the command at the head of a tambour's queue. -/
def State.modLay (s : State) (cluster : Nat) (f : Command → Command) : State :=
  { s with tambours := s.tambours.modify cluster fun q => q.modify 0 f }

/-- The bytes that the command at the head of a tambour's queue has read and not written are written. -/
def State.settleLay (s : State) (cluster : Nat) (c : Command) : State :=
  if c.afloat.isEmpty then s
  else (c.afloat.foldl (init := s) State.landByte).modLay cluster fun e => { e with afloat := [] }

/-- Some of the bytes of the next granule of the command at the head of a tambour's queue land before the others: they are read, and
written or not by a free value (R226). -/
def State.layPartway (s : State) (cluster : Nat) : State :=
  match s.activeLay cluster with
  | none => s
  | some (c, p) =>
    if c.dying then s
    else s.actAs c fun s =>
      if !c.afloat.isEmpty then
        let (s, l) := s.landAfloat c.afloat
        s.modLay cluster fun e => { e with afloat := l }
      else
        let d := layDesc c.regs
        let (t, k, _) := State.layGranules d p ((dropDone c.progress d.granules).take 1) s
        let (u, l) := (s.readOnly t).landAfloat (s.afloatIn t c.wg)
        u.modLay cluster fun e => { e with progress := e.progress + k, afloat := l }

/-- A `lay` of a killed workgroup goes on to its next split granule and is abandoned: no arrival is made (R335). -/
def State.endDyingLay (s : State) (cluster : Nat) (c : Command) (p : LayParty) : State :=
  let d := layDesc c.regs
  let s := s.actAs c fun s =>
    if !c.afloat.isEmpty then c.afloat.foldl (init := s) State.landByte
    else
      let (s, go) := s.begun (atGranule c.progress d.granules)
      if go then (State.layGranules d p ((dropDone c.progress d.granules).take 1) s).1 else s
  let s : State := { s with tambours := s.tambours.modify cluster List.tail }
  (s.wakeEngines.quiet.tryComplete c.wg).copyNodesGo

/-- What is left of the command at the head of a tambour's queue: how many tiles were copied, and the trap that stops it, if any. -/
def State.advanceLay (s : State) (cluster : Nat) (c : Command) (p : LayParty) : State × Nat × Option Trap :=
  let (s, k, e) := { s.settleLay cluster c with acting := some c.order }.layRest (layDesc c.regs) p c.progress
  ({ s with acting := none }, k, e)

/-- A workgroup's `lay` at the head of a tambour's queue, which has copied all it has to, completes: it leaves the queue, the
counts fall, its arrival is made (R217, R232, R274). -/
def State.finishLay (s : State) (cluster : Nat) (c : Command) (w : Nat) : State :=
  let s : State := { s with tambours := s.tambours.modify cluster List.tail }
  let s := (s.countBusy w (768 + cluster) (layDesc c.regs).clocks).counts c.counted fun g => { g with engineCount := g.engineCount - 1 }
  let s := if (layDesc c.regs).dsp then s else s.dropShared w
  (s.deliverTo w c.bar 1 0).wakeEngines.quiet.tryComplete w

/-- `TAMBOUR_COMMAND_COMPLETE` (R232, R234): the command at the head of a cluster's tambour performs what is left of it and
completes. An access of it that faults keeps the event from coming about; the command of a killed workgroup ends at its next
split granule (R335). The input's unit is the cluster. -/
def execTambourCommandComplete (s : State) : Out :=
  s.event fun s inp =>
    match s.activeLay inp.unit with
    | none => s
    | some (c, p) =>
      if c.dying then s.endDyingLay inp.unit c p
      else match s.advanceLay inp.unit c p with
      | (_, _, some _) => s
      | (t, _, none) =>
        match p.wg with
        | some w => (t.finishLay inp.unit c w).copyNodesGo
        | none =>
          let t : State := { t with tambours := t.tambours.modify inp.unit List.tail }
          match t.copyLaunchOf c.wg with
          | none => t.wakeEngines.quiet.copyNodesGo
          | some (g, n, _) =>
            let ports := ((g.nodes[n]?).map fun (x : Node) => x.desc.emitPorts).getD []
            ((t.countBy g.ctx (768 + inp.unit) (layDesc c.regs).clocks).modCopyLaunch g.id n c.wg fun l =>
              { l with forwarding := some ports }).wakeEngines.quiet.copyNodesGo

/-- A running `lay` meets a fault of an access: it stops there, and the fault is delivered to its workgroup or its copy
node (R334). -/
def State.layFault (s : State) (cluster : Nat) : State :=
  match s.activeLay cluster with
  | none => s
  | some (c, p) =>
    if c.dying then s
    else match s.advanceLay cluster c p with
    | (t, k, some e) =>
      let t := t.modLay cluster fun z => { z with progress := z.progress + k, stopped := true }
      match p.wg with
      | some w => t.takeFault (t.commandDelivery w c.order e)
      | none => match t.copyLaunchOf c.wg with
        | some (g, n, _) => t.copyNodeFault g n c.wg e
        | none => t
    | _ => s

/-- `ENGINE_TRANSLATION_FAULT` (R253): the running command of a core's copy engine (the input's second number 0) or of a
cluster's tambour (1) meets a fault, if its next accesses hold one. The input's unit is the core or the cluster. -/
def execEngineTranslationFault (s : State) : Out :=
  s.event fun s inp => if inp.sub = 0 then s.copyFault inp.unit else s.layFault inp.unit

end Sys2Proof.Machine
end

