-- ==== Sys2Proof/Machine/Coll.lean ====
section
/-! DEFINITION. Collectives (R241 to R243, R357 to R361, R365). What the other participants contribute comes from outside:
the event that completes a collective carries it. -/

namespace Sys2Proof.Machine

open Sys2Proof

/-! ### The descriptor (R241) -/

/-- The fields of a descriptor. -/
structure CollDesc where
  op : Nat
  red : Nat
  type : Nat
  comm : Nat
  sbuf : Reg
  rbuf : Reg
  count : Nat
  tbl : Reg
  stat : Reg
  deriving DecidableEq, Repr

/-- Reads the eight words. -/
def collDesc (ws : List Reg) : CollDesc :=
  let w (i : Nat) : Reg := ws.getD i 0
  { op := (bf (w 0) 62 2).toNat, red := (bf (w 0) 60 2).toNat, type := (bf (w 0) 56 4).toNat, comm := (bf (w 0) 44 12).toNat,
    sbuf := w 1, rbuf := w 2, count := (w 3).toNat, tbl := w 4, stat := w 5 }

/-- The bytes of an element. -/
def CollDesc.esz (d : CollDesc) : Nat := elementBytes d.type

/-- Whether a descriptor breaks the limits and alignments of R241. -/
def CollDesc.illegal (d : CollDesc) (ws : List Reg) : Bool :=
  let w (i : Nat) : Reg := ws.getD i 0
  let reduces := d.op = 0 || d.op = 2
  bf (w 0) 0 44 ≠ 0 || w 6 ≠ 0 || w 7 ≠ 0 || d.red = 3 || (!reduces && d.red ≠ 0) ||
  (if reduces then !([2, 3, 6, 7, 8, 9, 10] : List Nat).contains d.type else decide (12 < d.type)) ||
  !multipleOf d.sbuf d.esz || !multipleOf d.rbuf d.esz || decide (2 ^ 40 < d.count) || (d.op ≠ 3 && d.tbl ≠ 0) ||
  !multipleOf d.stat 8

/-- An address of a descriptor that is not canonical. -/
def CollDesc.nonCanonical (d : CollDesc) : Option Reg :=
  [d.sbuf, d.rbuf, d.tbl, d.stat].find? fun a => bf a 56 8 ≠ 0

/-! ### The communicator (R357) -/

/-- Reads a list of 16-bit package numbers. -/
def State.packageList (s : State) (c : Nat) (list : Reg) (n : Nat) : Option (List Nat) :=
  match (s.engineRead c list (2 * n)).2 with
  | .error _ => none
  | .ok b => some ((List.range n).map fun i => leNat ((b.drop (2 * i)).take 2))

/-- Whether a context has a valid binding for a package (R353) (DEDUCED: notes/assumptions/95). -/
def State.bound (s : State) (c pkg : Nat) : Bool := ((s.binding c pkg).map bindingValid).getD false

/-- A communicator of a context: this package's rank and the participants in rank order; none when `coll` would trap. -/
def State.communicator (s : State) (c comm : Nat) : Option (Nat × List Nat) :=
  match s.ctx? c with
  | none => none
  | some x =>
    match (s.engineRead c (x.commBase + BitVec.ofNat 64 (16 * comm)) 16).2 with
    | .error _ => none
    | .ok b =>
      let w0 := leReg (b.take 8)
      let n := (bf w0 51 12).toNat + 1
      let rank := (bf w0 39 12).toNat
      if !w0.getLsbD 63 || bf w0 0 39 ≠ 0 then none
      else match s.packageList c (leReg (b.drop 8)) n with
        | none => none
        | some l => if l[rank]? = some s.pkg && l.all (s.bound c) then some (rank, l) else none

/-- Whether a byte of a run lies in the package window, whatever its page permits. -/
def State.inWindow (s : State) (c : Nat) (a : Reg) (n : Nat) : Bool :=
  (List.range ((a.toNat % 4096 + n + 4095) / 4096)).any fun i =>
    match s.mapped c ((a.toNat / 4096 + i) * 4096) with
    | none => false
    | some pa => match s.place pa with
      | .package _ _ => true
      | _ => false

/-- A 32-bit natural of a run of bytes. -/
def word32Of (b : List Byte) (i : Nat) : Nat := leNat (((b.drop (4 * i)).take 4 ++ List.replicate 4 (0 : Byte)).take 4)

/-- The elements of SBUF and of RBUF that a collective of `n` participants reaches; for OP 3 by its table as it stands
(DEDUCED: notes/assumptions/47). -/
def State.collExtents (s : State) (c : Nat) (d : CollDesc) (n : Nat) : State × Nat × Nat :=
  match d.op with
  | 0 => (s, d.count, d.count)
  | 1 => (s, d.count, n * d.count)
  | 2 => (s, n * d.count, d.count)
  | _ =>
    match s.engineRead c d.tbl (16 * n) with
    | (t, .error _) => (s.giveUp t, 1, 1)
    | (s, .ok tb) =>
      let reach (cnt dsp : Nat) : Nat :=
        (List.range n).foldl (init := 0) fun m p => max m (if word32Of tb (cnt * n + p) = 0 then 0 else word32Of tb (dsp * n + p) + word32Of tb (cnt * n + p))
      (s, reach 0 1, reach 2 3)

/-- Whether SBUF or RBUF lies in the package window, in any of its bytes; a buffer of none is where it begins. -/
def State.collInWindow (s : State) (c : Nat) (d : CollDesc) (n : Nat) : State × Bool :=
  let (s, a, b) := s.collExtents c d n
  (s, s.inWindow c d.sbuf (max 1 (a * d.esz)) || s.inWindow c d.rbuf (max 1 (b * d.esz)))

/-! ### Acceptance (R243, R365) -/

/-- What a gang launch says to a `coll` of an eager member's graph on the gang's communicator: nothing of it, wait, go, or
trap (R365). -/
def State.gangSays (s : State) (x : Workgroup) (comm : Nat) : Option (Option Bool) :=
  (s.gangMembers.find? fun m => m.eager && m.comm == comm && m.graph == some x.graph).map GangMember.decision

/-- The descriptor of a `coll` of a group, read by the engine that is about to accept it. The writes that its workgroup has made before
are performed first, so that the engine reads them (R6, R226, R265). What the engine reads while it looks at the command, a byte whose
overwriting is not ordered before may show as it was (R189). -/
def State.collWords (s : State) (x : Workgroup) (g : Nat) (addr : Reg) : State × Except Trap (List Byte) :=
  State.readRun { (s.drainAll x.id).acceptRaces s.nextId [(x.id, g)] with acting := some s.nextId } x.ctx addr.toNat 64

/-- Enters a collective. -/
def State.acceptColl (s : State) (x : Workgroup) (g : Nat) (op : Instr) (bar : Option Nat) (ws : List Reg)
    (rank : Nat) (members : List Nat) : State :=
  let d := collDesc ws
  let key := (x.ctx, d.comm)
  let number := (s.collNext.lookup key).getD 0
  let c := { s.newCommand x.id g [(x.id, g)] ws [] op with bar := bar }
  let coll : Coll := { id := s.nextId, cmd := c, ctx := x.ctx, comm := d.comm, number := number, rank := rank,
                       members := members, halted := [], since := s.tick }
  let s : State := { s with
    nextId := s.nextId + 1, colls := s.colls ++ [coll],
    collNext := setKey s.collNext key (number + 1) }
  s.counts [(x.id, g)] fun y => { y with engineCount := y.engineCount + 1 }

/-- `COLL` (R241, R357, R365) (DEDUCED: notes/assumptions/47). -/
def execColl (r : BitVec 4) (a : BitVec 5) (nb : BitVec 1) (s : State) : Out :=
  s.uniform (engineForm true) fun s w g _ =>
    match s.wg? w, s.grp? w g with
    | some x, some gr =>
      let addr := gr.scalar a
      let bad := trap .engineDescriptor addr
      if bf addr 56 8 ≠ 0 then .fault s (trap .nonCanonical addr)
      else if !multipleOf addr 64 then .fault s bad
      else match s.collWords x g addr with
        | (s, .error t) => .fault { s with acting := none } t
        | (s, .ok b) =>
          let ws := (List.range 8).map fun i => leReg ((b.drop (8 * i)).take 8)
          let d := collDesc ws
          let quiet : State := { s with acting := none }
          if d.illegal ws then .fault quiet bad
          else match d.nonCanonical with
            | some n => .fault quiet (trap .nonCanonical n)
            | none =>
              match quiet.communicator x.ctx d.comm with
              | none => .fault quiet bad
              | some (rank, members) =>
                let (s, inWindow) := s.collInWindow x.ctx d members.length
                let s : State := { s with acting := none }
                if inWindow then .fault s bad
                else match s.gangSays x d.comm with
                  | some none => .settled (s.modGrp w g fun y => y.mapLive fun t => { t with wait := .formation })
                  | some (some false) => .fault s (trap .gangAbort (BitVec.ofNat 64 d.comm))
                  | _ =>
                    match s.engineWrite x.ctx d.stat (leBytes 8 0) with
                    | (s, .error t) => .fault s t
                    | (s, .ok ()) => .done (s.acceptColl x g (.coll r a nb) (barrierOf r nb) ws rank members)
    | _, _ => .done s

/-! ### Results (R242, R358) -/

/-- One step of a reduction of two element codes. -/
def reduceStep (red type : Nat) (x y : Nat) : Nat :=
  match fmtOfType type with
  | none =>
    let w := (intType type).1
    let a := intOperand type (BitVec.ofNat 64 x)
    let b := intOperand type (BitVec.ofNat 64 y)
    match red with
    | 0 => (x + y) % 2 ^ w
    | 1 => if a ≤ b then x else y
    | _ => if a ≤ b then y else x
  | some f =>
    if red = 0 then (f.write .rne false ((f.decode x).add .rne (f.decode y)).1).1
    else match (fminmax (red = 2) false (f.decode x) (f.decode y)).1 with
      | none => f.nan
      | some true => y
      | some false => x

/-- The canonical NaN in place of a NaN of a float type. -/
def canonical (type : Nat) (x : Nat) : Nat := match fmtOfType type with
  | none => x
  | some f => if (f.decode x).isNan then f.nan else x

/-- A reduction over the ranks in ascending order (R242). -/
def reduceAll (red type : Nat) : List Nat → Nat
  | [] => 0
  | x :: t => canonical type (t.foldl (init := x) (reduceStep red type))

/-- An element of a run of bytes. -/
def elementOf (b : List Byte) (n i : Nat) : List Byte := ((b.drop (n * i)).take n ++ List.replicate n (0 : Byte)).take n

/-- What the participants contribute to a collective other than an all-to-all: the elements of each rank, the own ones from
memory and the others' from outside, in rank order. -/
def contribution (own others : List Byte) (rank size p : Nat) : List Byte :=
  if p = rank then own
  else
    let q := if p < rank then p else p - 1
    ((others.drop (q * size)).take size ++ List.replicate size (0 : Byte)).take size

/-- The arrays and the elements that another participant sends in an all-to-all: its SCNT and RCNT, then its block. -/
structure PeerBlock where
  scnt : List Nat
  rcnt : List Nat
  block : List Byte

/-- Reads the blocks of the participants other than `rank` from what came from outside. -/
def peerBlocks (n rank esz : Nat) : List Nat → List Byte → List (Nat × PeerBlock)
  | [], _ => []
  | p :: t, b =>
    let scnt := (List.range n).map (word32Of b)
    let rcnt := (List.range n).map fun i => word32Of b (n + i)
    let k := scnt.getD rank 0
    let rest := b.drop (8 * n)
    (p, { scnt := scnt, rcnt := rcnt, block := rest.take (k * esz) }) :: peerBlocks n rank esz t (rest.drop (k * esz))

/-- What a collective does at this package: the writes in RBUF, as places in elements, by granule (R359); whether counts
disagreed (R358); and what it sends to each of the other participants, in rank order. -/
structure CollWork where
  granules : List (List (Nat × List Byte))
  mismatch : Bool
  sent : List (Nat × List Byte)

/-- Cuts a list into runs. -/
def runsOf {α : Type} (n : Nat) : Nat → List α → List (List α)
  | 0, l => if l.isEmpty then [] else [l]
  | k + 1, l => if l.isEmpty then [] else l.take n :: runsOf n k (l.drop n)

/-- Reads the blocks of SBUF that go to each rank: (first element, elements) pairs, by rank. -/
def State.collBlocks (c : Coll) (d : CollDesc) : List (Nat × Nat) → State → State × Except Trap (List (List Byte))
  | [], s => (s, .ok [])
  | (a, k) :: t, s =>
    match s.engineRead c.ctx (d.sbuf + BitVec.ofNat 64 (a * d.esz)) (k * d.esz) with
    | (s, .error e) => (s, .error e)
    | (s, .ok b) =>
      match State.collBlocks c d t s with
      | (s, .error e) => (s, .error e)
      | (s, .ok l) => (s, .ok (b :: l))

/-- The work of an all-to-all at this package (R242, R358): the granules are the own block and the phases. -/
def allToAll (c : Coll) (e : Nat) (tb : List Byte) (blocks : List (List Byte)) (others : List Byte) : CollWork :=
  let n := c.members.length
  let ranks := List.range n
  let scnt := ranks.map (word32Of tb)
  let rcnt := ranks.map fun p => word32Of tb (2 * n + p)
  let rdsp (p : Nat) : Nat := word32Of tb (3 * n + p)
  let peers := peerBlocks n c.rank e (ranks.filter (· ≠ c.rank)) others
  let none_ : PeerBlock := { scnt := [], rcnt := [], block := [] }
  let arrays (p : Nat) : PeerBlock :=
    if p = c.rank then { scnt := scnt, rcnt := rcnt, block := blocks.getD p [] } else (peers.lookup p).getD none_
  let from_ (p : Nat) : List (Nat × List Byte) :=
    (List.range (min (rcnt.getD p 0) ((arrays p).scnt.getD c.rank 0))).map fun i => (rdsp p + i, elementOf (arrays p).block e i)
  { granules := ranks.map fun k => from_ ((c.rank + n - k) % n),
    mismatch := ranks.any fun p => ranks.any fun q => (arrays q).rcnt.getD p 0 ≠ (arrays p).scnt.getD q 0,
    sent := (ranks.filter (· ≠ c.rank)).map fun q =>
      (q, scnt.flatMap (leBytes 4) ++ rcnt.flatMap (leBytes 4) ++ blocks.getD q []) }

/-- The work of the other collectives at this package (R242): a granule has 65,536 elements of each participant (R359). -/
def gathered (c : Coll) (d : CollDesc) (blocks : List (List Byte)) (others : List Byte) : CollWork :=
  let n := c.members.length
  let e := d.esz
  let ranks := List.range n
  let from_ (p : Nat) : List Byte := contribution (blocks.getD c.rank []) others c.rank (d.count * e) p
  let value (i : Nat) : List (Nat × List Byte) :=
    if d.op = 1 then ranks.map fun p => (p * d.count + i, elementOf (from_ p) e i)
    else [(i, leBytes e (reduceAll d.red d.type (ranks.map fun p => leNat (elementOf (from_ p) e i))))]
  { granules := (runsOf 65536 d.count (List.range d.count)).map fun r => r.flatMap value,
    mismatch := false,
    sent := (ranks.filter (· ≠ c.rank)).map fun q => (q, blocks.getD q []) }

/-- What a collective does at this package, from its own memory and from what the others sent; a trap when the own memory cannot
be read. -/
def State.collWork (s : State) (c : Coll) (others : List Byte) : State × Except Trap CollWork :=
  let d := collDesc c.cmd.regs
  let n := c.members.length
  let ranks := List.range n
  if d.op = 3 then
    match s.engineRead c.ctx d.tbl (16 * n) with
    | (s, .error t) => (s, .error t)
    | (s, .ok tb) =>
      match State.collBlocks c d (ranks.map fun q => (word32Of tb (n + q), word32Of tb q)) s with
      | (s, .error t) => (s, .error t)
      | (s, .ok bs) => (s, .ok (allToAll c d.esz tb bs others))
  else
    match State.collBlocks c d (ranks.map fun q => (if d.op = 2 then q * d.count else 0, d.count)) s with
    | (s, .error t) => (s, .error t)
    | (s, .ok bs) => (s, .ok (gathered c d bs others))

/-- Sends this package's part of a collective to the others. -/
def State.sendColl (s : State) (c : Coll) (w : CollWork) : State :=
  { s with outbox := (w.sent.map fun e => Message.collData (c.members.getD e.1 0) c.comm c.number e.2) ++ s.outbox }

/-- Writes elements of RBUF. -/
def State.collStore (c : Coll) (d : CollDesc) : List (Nat × List Byte) → State → State × Option Trap
  | [], s => (s, none)
  | (i, b) :: t, s =>
    match s.engineWrite c.ctx (d.rbuf + BitVec.ofNat 64 (i * d.esz)) b with
    | (s, .error x) => (s, some x)
    | (s, .ok ()) => State.collStore c d t s

/-- Writes the status word. -/
def State.collStatus (s : State) (c : Coll) (v : Nat) : State :=
  (s.engineWrite c.ctx (collDesc c.cmd.regs).stat (leBytes 8 v)).1

/-- Whether the issuing workgroup of a collective has a halted group (R360). -/
def State.collHalted (s : State) (c : Coll) : Bool :=
  ((s.wg? c.cmd.wg).map fun w => w.groups.any fun g => match g.stop with | .halted _ => true | _ => false).getD false

/-- The collective that an event names, if it can go on: the oldest of its communicator, no participant halted, not held
by a translation fault. -/
def State.collReady (s : State) (id : Nat) : Option Coll :=
  match s.colls.find? fun c => c.id == id with
  | none => none
  | some c =>
    if !c.halted.isEmpty || s.collHalted c || c.cmd.stopped || c.cmd.dying ||
       s.colls.any fun x => x.ctx == c.ctx && x.comm == c.comm && decide (x.number < c.number) then none
    else some c

/-- A collective completes with a status: its status word, its count, its arrival (R243). -/
def State.finishColl (s : State) (c : Coll) (status : Nat) : State :=
  let s := s.collStatus c status
  let s : State := { s with colls := s.colls.filter fun x => x.id ≠ c.id }
  let s := (s.counts c.cmd.counted fun g => { g with engineCount := g.engineCount - 1 }).acquire c.cmd.wg 2
  let s := s.deliverTo c.cmd.wg c.cmd.bar 1 0
  s.wakeEngines.quiet.tryComplete c.cmd.wg

/-- Changes a collective. -/
def State.modColl (s : State) (id : Nat) (f : Coll → Coll) : State :=
  { s with colls := s.colls.map fun c => if c.id = id then f c else c }

/-- Tells the other participants of a collective something. -/
def State.notify (s : State) (c : Coll) (what : CollNotice) : State :=
  { s with outbox := (((List.range c.members.length).filter (· ≠ c.rank)).map fun i =>
      Message.collNotice (c.members.getD i 0) c.comm c.number what) ++ s.outbox }

/-- An access of a collective faults: it stops, and the fault is delivered to its workgroup. What its reading has drawn
counts. -/
def State.collFault (s t : State) (c : Coll) (e : Trap) : State :=
  let s := (s.giveUp t).modColl c.id fun x => { x with cmd := { x.cmd with stopped := true } }
  s.takeFault (s.commandDelivery c.cmd.wg c.cmd.order e)

/-- A collective whose workgroup has been killed runs on to its next granule and is abandoned (R335, R359): a free value says how many
granules it has done. -/
def State.endDyingColl (s : State) (c : Coll) (others : List Byte) : State :=
  let s := s.actAs c.cmd fun s =>
    match s.collWork c others with
    | (t, .error _) => s.giveUp t
    | (t, .ok w) =>
      let (t, v) := (t.sendColl c w).draw
      let done := (w.granules.take (v.toNat % (w.granules.length + 1))).flatten
      (State.collStore c (collDesc c.cmd.regs) done t).1
  let s : State := { s with colls := s.colls.filter fun x => x.id ≠ c.id }
  (s.notify c .abandoned).wakeEngines.quiet.tryComplete c.cmd.wg

/-- `COLL_COMPLETE` (R242, R243): the input's unit is the collective, its data what the other participants sent. The collective of a
killed workgroup ends at a granule (R359). -/
def execCollComplete (s : State) : Out :=
  s.event fun s inp =>
    match s.colls.find? fun c => c.id == inp.unit && c.cmd.dying with
    | some c => s.endDyingColl c inp.data
    | none =>
      match s.collReady inp.unit with
      | none => s
      | some c =>
        let t : State := { s with acting := some c.cmd.order }
        match t.collWork c inp.data with
        | (t, .error e) => s.collFault t c e
        | (t, .ok w) =>
          match State.collStore c (collDesc c.cmd.regs) w.granules.flatten (t.sendColl c w) with
          | (t, some e) => s.collFault t c e
          | (t, none) => { t with acting := none }.finishColl c (if w.mismatch then 9 else 1)

/-- `PEER_HALTED_NOTICE` (R360): a participant of a collective is halted; for this package's own rank its workgroup must
be, and the others are told. The input's unit is the collective, its second number the rank. -/
def execPeerHaltedNotice (s : State) : Out :=
  s.event fun s inp =>
    match s.colls.find? fun c => c.id == inp.unit with
    | none => s
    | some c =>
      if c.members.length ≤ inp.sub || c.halted.contains inp.sub || (inp.sub = c.rank && !s.collHalted c) then s
      else
        let s := (s.modColl c.id fun x => { x with halted := inp.sub :: x.halted }).collStatus c 2
        if inp.sub = c.rank then s.notify c .halted else s

/-- `PEER_RESUMED_NOTICE` (R360). -/
def execPeerResumedNotice (s : State) : Out :=
  s.event fun s inp =>
    match s.colls.find? fun c => c.id == inp.unit with
    | none => s
    | some c =>
      if !c.halted.contains inp.sub || (inp.sub = c.rank && s.collHalted c) then s
      else
        let left := c.halted.filter (· ≠ inp.sub)
        let s := s.modColl c.id fun x => { x with halted := left, since := s.tick }
        let s := if left.isEmpty then s.collStatus c 0 else s
        if inp.sub = c.rank then s.notify c .resumed else s

/-- Whether a participant other than this package counts as lost (R361): a notice says that it abandoned the collective, its
package is unreachable, or it has sent nothing for one fabric timeout while no participant is halted. -/
def State.participantLost (s : State) (c : Coll) (rank : Nat) (notice : Bool) : Bool :=
  let timeout := ((s.ctx? c.ctx).map Context.fabricTimeout).getD 0
  rank ≠ c.rank && decide (rank < c.members.length) &&
  (notice || !s.reachable (c.members.getD rank 0) || (c.halted.isEmpty && decide (c.since + timeout ≤ s.tick)))

/-- Of the writes of a collective that lost a participant, those that are made: each element keeps its value or takes the
value of the complete collective, which a free value decides (R361). -/
def State.someWrites : List (Nat × List Byte) → State → State × List (Nat × List Byte)
  | [], s => (s, [])
  | w :: t, s =>
    let (s, v) := s.draw
    let (s, r) := State.someWrites t s
    (s, if v.getLsbD 0 then w :: r else r)

/-- `COLL_PEER_LOST` (R361): the survivor completes the collective with PEER_LOST, and with MISMATCH if the
counts had been exchanged by then and disagreed, which a free value decides. The input's unit is the collective, its
second number the rank lost, its flag whether a notice of abandonment came, its data what the participants would have
sent. -/
def execCollPeerLost (s : State) : Out :=
  s.event fun s inp =>
    match s.colls.find? fun c => c.id == inp.unit with
    | none => s
    | some c =>
      if c.cmd.dying || !s.participantLost c inp.sub inp.ok then s
      else
        let (t, ws, found) := match { s with acting := some c.cmd.order }.collWork c inp.data with
          | (t, .ok w) =>
            let (t, ws) := State.someWrites w.granules.flatten t
            let (t, v) := t.draw
            (t, ws, w.mismatch && v.getLsbD 0)
          | (t, .error _) => (s.giveUp t, [], false)
        let t : State := { (State.collStore c (collDesc c.cmd.regs) ws t).1 with acting := none }
        t.finishColl c (if found then 13 else 5)

end Sys2Proof.Machine
end

