-- ==== Sys2Proof/Machine/Sched.lean ====
section
/-! DEFINITION. The graph scheduler: results in flight and fusion waits (R22, R115), admission (R297), gathers (R298 to R300),
placement (R303 to R305), pre-emption and resumption (R306, R340 to R342), stalls (R307), aging (R308), graph end (R310). -/

namespace Sys2Proof.Machine

open Sys2Proof

/-! ### Threads -/

/-- `RESULT_ARRIVAL` (R22, R23): a result on its way to a thread arrives. The input names the thread, and its second number
which of the results on their way arrives, newest first. -/
def execResultArrival (s : State) : Out :=
  s.event fun s inp => s.modThread inp.tid fun t => match t.arriving[inp.sub]? with
    | none => t
    | some a => t.settle a.target

/-- `FUSE_TIMEOUT` (R115): the bounded wait at a `fuse` word ends once the clocks of a thread there have passed: the threads that
stand there proceed together. The input names the thread. -/
def execFuseTimeout (s : State) : Out :=
  s.event fun s inp =>
    match s.thread? inp.tid with
    | none => s
    | some t => match t.wait with
      | .fuse d => if t.isLive && d ≤ s.tick then s.modGrp inp.tid.wg inp.tid.grp fun g => g.fuseAt t.pc else s
      | _ => s

/-- Whether a thread has been ready without issuing for 16,384 core clocks (R308). -/
def State.agedNow (s : State) (t : Thread) : Bool :=
  t.isLive && t.wait = .running && decide (t.readyAt + s.clocksToTicks 16384 ≤ s.tick)

/-- `ISSUE_AGING` (R308): a weave that has been ready for 16,384 core clocks without issuing takes class 16 until it issues.
The input names one of its threads. -/
def execIssueAging (s : State) : Out :=
  s.event fun s inp =>
    match s.thread? inp.tid with
    | none => s
    | some t =>
      if s.agedNow t then
        s.modGrp inp.tid.wg inp.tid.grp fun g =>
          { g with threads := g.threads.map fun u => if u.isLive && u.wait = .running && u.weave = t.weave then { u with aged := true } else u }
      else s

/-! ### Cores and what fits on them (R304, R396) -/

/-- Whether the island mask forbids power to an island (R396). -/
def State.masked (s : State) (i : Nat) : Bool := s.islandMask.getLsbD i

/-- What a core has free: quires, tiles, tables; its thread slots per lane; the runs of quads taken (slot, first quad, length);
the quads without power. -/
structure Room where
  quires : Nat
  tiles : Nat
  tables : Nat
  slots : Nat
  taken : List (Nat × Nat × Nat)
  dark : List Nat
  deriving DecidableEq, Repr

/-- What a launch needs of a core: quires, tiles, tables, and the threads of each of its groups. -/
structure Need where
  quires : Nat
  tiles : Nat
  tables : Nat
  groups : List Nat
  deriving DecidableEq, Repr

/-- The threads of each group of a program node, in group order (R36). -/
def NodeDesc.groupThreads (d : NodeDesc) : List Nat := d.roles.flatMap fun r => List.replicate r.groups r.threads

/-- What a launch of a program node needs (R292, R304). -/
def NodeDesc.need (d : NodeDesc) : Need := { quires := d.quires, tiles := d.tiles, tables := d.tables, groups := d.groupThreads }

/-- Whether a core may take work (R2, R396): it is present, and its front end, its copy engine, its cluster's tambour and its
die's record store may be powered (DEDUCED: notes/assumptions/30). -/
def State.coreUsable (s : State) (c : Nat) : Bool :=
  s.coresPresent.getLsbD c && !s.masked (144 + c) && !s.masked (3 * c + 2) && !s.masked (1008 + c / 4) && !s.masked (1020 + c / 12)

/-- An empty core (R37, R304, R396). -/
def State.emptyRoom (s : State) (c : Nat) : Room :=
  { quires := 32 - 4 * ((List.range 8).filter fun j => s.masked (384 + 8 * c + j)).length,
    tiles := if s.masked (3 * c) then 0 else 8, tables := if s.masked (3 * c + 1) then 0 else 8,
    slots := s.regBanks.toList.getD c 0, taken := [],
    dark := (List.range 32).filter fun q => s.masked (192 + 4 * c + q / 8) }

/-- What a workgroup holds of its core (R304, R341): quires, tiles, tables. A completed workgroup keeps its quires until its
cluster launch has completed (R176), but not while the launch is fully saved. -/
def State.holds (s : State) (w : Workgroup) : Nat × Nat × Nat :=
  let all := w.regq + w.spadq + w.l1q + w.exch
  match w.res with
  | .resident => (all, w.tilesHeld, w.tablesHeld)
  | .preempted false => (w.spadq + w.exch, w.tilesHeld, 0)
  | .preempted true => (0, 0, 0)
  | .complete _ => if s.wgs.any fun y => w.peers.contains y.id && y.res == .preempted true then (0, 0, 0) else (all, 0, 0)

/-- What a core has free. -/
def State.room (s : State) (c : Nat) : Room :=
  (s.wgs.filter fun w => w.core == c).foldl (init := s.emptyRoom c) fun r w =>
    let (q, t, b) := s.holds w
    { r with quires := r.quires - q, tiles := r.tiles - t, tables := r.tables - b,
             taken := (if w.res = .resident then w.groups.map fun g => (g.slot, g.quad, (g.threads.length + 3) / 4) else []) ++ r.taken }

/-- Whether a run of quads of a slot is free. -/
def Room.freeRun (r : Room) (slot first n : Nat) : Bool :=
  r.taken.all (fun t => t.1 ≠ slot || t.2.1 + t.2.2 ≤ first || first + n ≤ t.2.1) &&
  r.dark.all fun q => q < first || first + n ≤ q

/-- The lowest slot with a free run of quads, and its lowest run (R304). -/
def Room.findRun (r : Room) (n : Nat) : Option (Nat × Nat) :=
  (List.range r.slots).findSome? fun sl => ((List.range (33 - n)).find? fun q => r.freeRun sl q n).map fun q => (sl, q)

/-- The packing of R304, in the order given: for each group its index, slot and first quad. -/
def Room.packFrom : List (Nat × Nat) → Room → Option (List (Nat × Nat × Nat))
  | [], _ => some []
  | (g, t) :: rest, r =>
    let n := (t + 3) / 4
    match r.findRun n with
    | none => none
    | some (sl, q) => (Room.packFrom rest { r with taken := (sl, q, n) :: r.taken }).map fun l => (g, sl, q) :: l

/-- The groups by thread count, largest first, and by index (R304). -/
def packOrder (ts : List Nat) : List (Nat × Nat) :=
  let gs : List (Nat × Nat) := (List.range ts.length).map fun i => (i, ts.getD i 0)
  (List.range 129).reverse.flatMap fun n => gs.filter fun g => g.2 = n

/-- Whether a launch fits a room of which another candidate has reserved some (R304): the packing, if it does. -/
def Room.fits (r : Room) (n : Need) (held : Nat × Nat × Nat) : Option (List (Nat × Nat × Nat)) :=
  let ok (want free kept : Nat) : Bool := want = 0 || decide (kept + want ≤ free)
  if ok n.quires r.quires held.1 && ok n.tiles r.tiles held.2.1 && ok n.tables r.tables held.2.2 then r.packFrom (packOrder n.groups)
  else none

/-- A core on which a launch fits: its number, its free quires, the packing. -/
structure Spot where
  core : Nat
  free : Nat
  plan : List (Nat × Nat × Nat)
  deriving DecidableEq, Repr

/-- The spot with the most free quires; ties go to the earlier in the list. -/
def bestSpot : List Spot → Option Spot
  | [] => none
  | x :: t => match bestSpot t with
    | none => some x
    | some y => if x.free < y.free then some y else some x

/-- The spots with the most free quires. -/
def bestSpots : Nat → List Spot → List Spot
  | 0, _ => []
  | k + 1, l => match bestSpot l with
    | none => []
    | some b => b :: bestSpots k (l.filter fun x => x.core ≠ b.core)

/-- The cores a launch of a number of workgroups takes among those that fit, in ascending order (R304); none when they are
too few. The cores are given in ascending order. -/
def chooseSpots (k : Nat) (l : List Spot) : Option (List Spot) :=
  let chosen : List Spot :=
    if k ≤ 1 then bestSpots 1 l
    else
      let clusters := (List.range 12).map fun j => l.filter fun x => x.core / 4 = j
      let sums : List Spot := (List.range 12).filterMap fun j =>
        let xs := clusters.getD j []
        if xs.length < k then none else some { core := j, free := xs.foldl (init := 0) fun n x => n + x.free, plan := [] }
      match bestSpot sums with
      | none => []
      | some c => bestSpots k (clusters.getD c.core [])
  if chosen.isEmpty then none else some (l.filter fun x => chosen.any fun y => y.core == x.core)

/-- The cores of a die. -/
def dieCores (d : Nat) : List Nat := (List.range 12).map fun i => 12 * d + i

/-! ### Candidates (R303) -/

/-- A candidate: a launchable gather of a node, or a pre-empted launch ready to resume. -/
structure Candidate where
  graph : Nat
  node : Nat
  launch : Option Nat
  prio : Nat
  cap : Bool
  since : Nat
  deriving DecidableEq, Repr

/-- Whether a candidate is considered before another (R303) (DESIGN CHOICE: notes/assumptions/54). -/
def Candidate.before (a b : Candidate) : Bool :=
  if a.prio ≠ b.prio then decide (b.prio < a.prio)
  else if a.cap ≠ b.cap then a.cap
  else if a.launch.isSome ≠ b.launch.isSome then a.launch.isSome
  else decide (a.since < b.since)

/-- Puts a candidate among others, after those considered before it or together with it. -/
def Candidate.insert (c : Candidate) : List Candidate → List Candidate
  | [] => [c]
  | x :: t => if c.before x then c :: x :: t else x :: c.insert t

/-- The priority of the region of a node. -/
def Graph.prioOf (g : Graph) (d : NodeDesc) : Nat := ((g.region? d.rcb).map Region.prio).getD 0

/-- The workgroups of a launch of a node that are on the machine. -/
def State.launchWgs (s : State) (g n l : Nat) : List Workgroup := s.wgs.filter fun w => w.graph == g && w.node == n && w.launch == l

/-- The pre-empted launches of a node, with the tick of the save. -/
def State.savedLaunches (s : State) (g n : Nat) : List (Nat × Nat) :=
  ((s.wgs.filter fun w => w.graph == g && w.node == n && (match w.res with | .preempted _ => true | _ => false)).map fun w =>
    (w.launch, w.since)).eraseDups

/-- The candidates of a graph on a die. -/
def State.graphCandidates (s : State) (g : Graph) (die : Nat) : List Candidate :=
  (List.range g.nodes.length).flatMap fun n =>
    match g.nodes[n]? with
    | none => []
    | some nd =>
      if nd.desc.home ≠ die || nd.desc.kind = .join then []
      else
        let base : Candidate :=
          { graph := g.id, node := n, launch := none, prio := g.prioOf nd.desc, cap := s.atCap g.id n, since := nd.candidateSince.getD s.tick }
        (if s.launchable g.id n then [base] else []) ++
        (s.savedLaunches g.id n).map fun l => { base with launch := some l.1, since := l.2 }

/-- The candidates of a die, in the order of R303. -/
def State.candidates (s : State) (die : Nat) : List Candidate :=
  (s.graphs.flatMap fun g => s.graphCandidates g die).foldl (init := []) fun l c => c.insert l

/-- What a candidate's launch adds to its region's use (R296): a resumption adds nothing (DEDUCED: notes/assumptions/58). -/
def Candidate.adds (c : Candidate) (d : NodeDesc) : Usage :=
  match c.launch with
  | some _ => ⟨0, 0, 0, 0⟩
  | none =>
    if d.kind = .copy then ⟨1, 0, 0, 0⟩ else ⟨d.clust, d.clust * d.quires, d.clust * d.tiles, 0⟩

/-- Whether a region chain keeps within its budgets of workgroups, quires and tiles with an addition (R296); the tiles count
only where asked (R19). -/
def State.withinBudget (s : State) (g : Graph) (r : Nat) (d : Usage) (tiles : Bool) : Bool :=
  (g.chain r).all fun i =>
    match g.region? i with
    | none => true
    | some v =>
      let u := (s.regionUse g.ctx i).add d
      budgetOk v.wgs u.wgs && budgetOk v.quires u.quires && (!tiles || budgetOk v.tiles u.tiles)

/-- Whether a candidate fits its budgets. -/
def State.candidateFits (s : State) (c : Candidate) (tiles : Bool) : Bool :=
  match s.graph? c.graph with
  | none => false
  | some g => match g.nodes[c.node]? with
    | none => false
    | some nd => s.withinBudget g nd.desc.rcb (c.adds nd.desc) tiles

/-! ### Gathers (R299, R300) -/

/-- Closes a gather of a node: its records, and the machine with the records held under a number. -/
def State.closeGather (s : State) (g n key : Nat) : State × List Rec :=
  match s.node? g n with
  | none => (s, [])
  | some nd =>
    let rs := nd.queue.take nd.desc.per
    let final := nd.desc.final && nd.desc.gather ≠ 0 && s.dry g n && decide (nd.queue.length ≤ nd.desc.per)
    let s := s.modNode g n fun x =>
      { x with queue := x.queue.drop x.desc.per, launches := x.launches + 1, timerDue := false, candidateSince := none,
               finalClosed := x.finalClosed || final, held := (key, rs) :: x.held }
    (s, rs)

/-- The greatest depth of records (R246). -/
def recordsDepth (rs : List Rec) : Nat := rs.foldl (init := 0) fun d r => max d r.depth

/-- `GATHER_TIMER_EXPIRY` (R298): the oldest counted record of a timer gather has waited its TIMER ticks. The input names
the graph and the node. -/
def execGatherTimerExpiry (s : State) : Out :=
  s.event fun s inp =>
    match s.node? inp.unit inp.sub with
    | none => s
    | some nd =>
      match nd.queue.head? with
      | none => s
      | some r =>
        if nd.desc.gather = 2 && decide (r.entered + nd.desc.timer ≤ s.tick) then
          (s.modNode inp.unit inp.sub fun x => { x with timerDue := true }).noteCandidates inp.unit
        else s

/-! ### Entry (R305) -/

/-- The groups of a program node with their roles: role index and role, in group order. -/
def NodeDesc.groupRoles (d : NodeDesc) : List (Nat × Role) :=
  (List.range d.roles.length).flatMap fun i => match d.roles[i]? with
    | none => []
    | some r => List.replicate r.groups (i, r)

/-- The groups of a new workgroup (R20, R36, R57), from a thread index up. -/
def entryGroups (imode : BitVec 2) (tick : Nat) (seed : Nat → BitVec 32) (plan : List (Nat × Nat × Nat)) :
    List (Nat × Role) → Nat → Nat → List Group
  | [], _, _ => []
  | (i, r) :: t, g, tid =>
    let at_ : Nat × Nat := (plan.lookup g).getD (0, 0)
    Group.entry i r.regs tid at_.2 at_.1
        ((List.range r.threads).map fun j => { Thread.entry r.entry imode (seed (tid + j)) with readyAt := tick }) ::
      entryGroups imode tick seed plan t (g + 1) (tid + r.threads)

/-- A workgroup as it enters (R20, R41, R305): registers, windows, tiles and tables cleared, the launch's records in its
window. -/
def NodeDesc.enter (d : NodeDesc) (id ctx graph node launch rank : Nat) (peers : List Nat) (core tick : Nat) (seed : BitVec 32)
    (plan : List (Nat × Nat × Nat)) (rs : List Rec) : Workgroup :=
  { id := id, ctx := ctx, graph := graph, node := node, launch := launch, depth := recordsDepth rs, rank := rank, peers := peers,
    core := core, birthCore := core, res := .resident, since := tick, regq := d.regq, spadq := d.spadq, l1q := d.l1q, exch := d.exch,
    tilesHeld := d.tiles, tablesHeld := d.tables,
    groups := entryGroups d.imode tick (fun tid => srgSeed seed node launch tid) plan d.groupRoles 0 0,
    barriers := Vector.replicate 16 Barrier.reset, gangs := Vector.replicate 4 { valid := false, members := 0 },
    tiles := Vector.replicate 8 [], tables := Vector.replicate 8 Table.reset, eflags := 0, spad := [], shadow := [],
    records := rs.flatMap fun r => (r.bytes ++ List.replicate 128 (0 : Byte)).take (recordBytes d.rsize),
    recSize := recordBytes d.rsize, per := d.per, recCount := rs.length, l1 := [], writes := [], reqSeq := [], inbound := [],
    saved := [] }

/-- Places a program launch on cores (R299, R304, R305). Its groups acquire what was written before (R260). -/
def State.launchOn (s : State) (g : Graph) (n : Nat) (nd : Node) (spots : List Spot) : State :=
  let (s, rs) := s.closeGather g.id n nd.launches
  let ids := (List.range spots.length).map fun i => s.nextId + i
  let seed := ((g.region? nd.desc.rcb).map Region.seed).getD 0
  let peers := if spots.length = 1 then [] else ids
  let ws : List Workgroup := (List.range spots.length).map fun i =>
    let at_ : Spot := spots.getD i { core := 0, free := 0, plan := [] }
    nd.desc.enter (s.nextId + i) g.ctx g.id n nd.launches i peers at_.core s.tick seed at_.plan rs
  let s : State := { s with nextId := s.nextId + spots.length, wgs := s.wgs ++ ws }
  let s := (ws.flatMap fun w => (List.range w.groups.length).map fun i => (w.id, i)).foldl (init := s) fun s g => s.groupAcquired g 2
  (spots.foldl (init := s) fun s _ => s.count0 (1112 + nd.desc.home)).noteCandidates g.id

/-- Places a copy-node launch on the tambour of its home die that holds the fewest commands (R318, R234). -/
def State.launchCopy (s : State) (g : Graph) (n : Nat) (nd : Node) : State :=
  let id := s.nextId
  let load (c : Nat) : Nat := (s.tambours.getD c []).length
  let cs := ((List.range 3).map fun i => 3 * nd.desc.home + i).filter fun c => !s.masked (1008 + c)
  match cs with
  | [] => s
  | c :: t =>
    let c := t.foldl (init := c) fun b x => if load x < load b then x else b
    let s : State := { s with nextId := s.nextId + 1 }
    let (s, rs) := s.closeGather g.id n id
    let s := s.modNode g.id n fun x =>
      { x with copyLaunches := x.copyLaunches ++ [{
          id := id, records := rs, depth := recordsDepth rs, cluster := c, forwarding := none,
          heldBy := none }] }
    (s.noteCandidates g.id).copyNodeGo id

/-! ### Resumption (R306, R326, R341) -/

/-- A workgroup on its new core: the slots and quads of its groups are those of the plan, and threads that come to lie in other
blocks of lanes are of other weaves (R9, R11). -/
def Workgroup.moveTo (w : Workgroup) (sp : Spot) (tick : Nat) : Workgroup :=
  { w with
    core := sp.core, since := tick,
    res := match w.res with | .preempted _ => .resident | r => r,
    groups := (List.range w.groups.length).filterMap fun i => (w.groups[i]?).map fun g =>
      let g := { g with threads := g.threads.map fun t => { t with readyAt := tick } }
      match sp.plan.lookup i with
      | some p => Group.split { g with slot := p.1, quad := p.2 }
      | none => g }

/-- The waits at barriers that a workgroup's threads issue again at its resumption (R153, R167): the faults of those whose barrier
is no longer armed, or has broken. The arrival that a thread has counted is not repeated. -/
def reissuedWaits (w : Workgroup) : List Delivery :=
  let fault (t : Thread) : Option Trap := match t.wait with
    | .barrier b par _ => match w.barriers[b]? with
      | none => none
      | some x =>
        let address := BitVec.ofNat 64 b
        if !t.isLive || x.phase != par then none
        else if !x.armed then some (trap .unarmedBarrier address)
        else if x.broken then some (trap .brokenBarrier address) else none
    | _ => none
  (List.range w.groups.length).flatMap fun g => match w.groups[g]? with
    | none => []
    | some gr =>
      let hits : List (Nat × Trap) := gr.liveGtids.filterMap fun i => (gr.threads[i]?).bind fun t => (fault t).map fun x => (i, x)
      let pcs := (hits.filterMap fun h => (gr.threads[h.1]?).map Thread.pc).eraseDups
      pcs.map fun pc => Delivery.ofGroup w.id g (hits.filter fun h => (gr.threads[h.1]?).map Thread.pc == some pc)

/-- Resumes a pre-empted launch on cores given in ascending order, its workgroups by rank (R306, R415): the save pool gets its
bytes back, and the commands are queued again as far as there is room. -/
def State.resumeOn (s : State) (ws : List Workgroup) (spots : List Spot) : State :=
  ws.foldl (init := s) fun s w =>
    match spots[w.rank]? with
    | none => s
    | some sp =>
      let s := (s.freeImage w).modWg w.id fun x => x.moveTo sp s.tick
      match s.wg? w.id with
      | none => s
      | some y => (s.requeue y.id).takeFaults (reissuedWaits y)

/-! ### Placement (R304) -/

/-- What another candidate's reservation keeps of a core. -/
def State.keptFrom (s : State) (c : Nat) (g n : Nat) (l : Option Nat) : Nat × Nat × Nat :=
  match (s.core? c).bind Core.reserved with
  | none => (0, 0, 0)
  | some r => if r.graph = g && r.node = n && r.launch == l then (0, 0, 0) else (r.quires, r.tiles, r.tables)

/-- The cores of a list on which a launch fits now. -/
def State.spots (s : State) (cores : List Nat) (n : Need) (c : Candidate) : List Spot :=
  cores.filterMap fun k =>
    if !s.coreUsable k then none
    else
      let r := s.room k
      (r.fits n (s.keptFrom k c.graph c.node c.launch)).map fun p => { core := k, free := r.quires, plan := p }

/-- The cores of a list that hold no reservation and could hold a launch once empty (DEDUCED: notes/assumptions/55). -/
def State.reservable (s : State) (cores : List Nat) (n : Need) : List Spot :=
  cores.filterMap fun k =>
    if !s.coreUsable k || ((s.core? k).bind Core.reserved).isSome then none
    else ((s.emptyRoom k).fits n (0, 0, 0)).map fun p => { core := k, free := (s.room k).quires, plan := p }

/-- Drops a candidate's reservation. -/
def State.dropReservation (s : State) (c : Candidate) : State :=
  { s with cores := s.cores.map fun k => match k.reserved with
      | some r => if r.graph = c.graph && r.node = c.node && r.launch == c.launch then { k with reserved := none } else k
      | none => k }

/-- Whether a candidate holds a reservation. -/
def State.hasReservation (s : State) (c : Candidate) : Bool :=
  s.cores.any fun k => match k.reserved with
    | some r => r.graph == c.graph && r.node == c.node && r.launch == c.launch
    | none => false

/-- How a candidate can be placed: the cores it may take, what it needs of each, how many it takes; and the workgroups of
the launch it resumes. Under PREEMPT 1 a launch resumes on its own cores with what it freed there (R306, R341). -/
structure Placing where
  cores : List Nat
  need : Need
  count : Nat
  resumes : List Workgroup
  deriving DecidableEq, Repr

/-- The placing of a candidate of a program node. -/
def State.placing (s : State) (c : Candidate) (nd : Node) : Placing :=
  let fresh : Placing := { cores := dieCores nd.desc.home, need := nd.desc.need, count := nd.desc.clust, resumes := [] }
  match c.launch with
  | none => fresh
  | some l =>
    let ws := s.launchWgs c.graph c.node l
    if ws.any fun w => w.res == .preempted true then { fresh with resumes := ws, count := ws.length }
    else
      let live := ws.filter fun w => w.ongoing
      { cores := live.map Workgroup.core, count := ws.length, resumes := ws,
        need := { nd.desc.need with quires := nd.desc.regq + nd.desc.l1q, tiles := 0 } }

/-- The spots of a launch that resumes on its own cores: every live workgroup's, by rank. -/
def ownSpots (ws : List Workgroup) (l : List Spot) : Option (List Spot) :=
  if ws.all fun w => !w.ongoing || l.any fun x => x.core == w.core then
    some ((List.range ws.length).map fun r =>
      match ws.find? fun w => w.rank == r with
      | none => { core := 0, free := 0, plan := [] }
      | some w => (l.find? fun x => x.core == w.core).getD { core := w.core, free := 0, plan := [] })
  else none

/-- Where a candidate can be placed now. -/
def State.chosenSpots (s : State) (c : Candidate) (p : Placing) : Option (List Spot) :=
  let l := s.spots p.cores p.need c
  if !p.resumes.isEmpty && !(p.resumes.any fun w => w.res == .preempted true) then ownSpots p.resumes l
  else chooseSpots p.count l

/-- Places a candidate, or lets it reserve cores (R304); none when neither can be done now. -/
def State.place1 (s : State) (c : Candidate) : Option State :=
  if !s.candidateFits c true then none
  else
    match s.graph? c.graph with
    | none => none
    | some g => match g.nodes[c.node]? with
      | none => none
      | some nd =>
        if nd.desc.kind = .copy then
          if s.masked (1020 + nd.desc.home) || (List.range 3).all fun i => s.masked (1008 + 3 * nd.desc.home + i) then none
          else some (s.launchCopy g c.node nd)
        else
          let p := s.placing c nd
          match s.chosenSpots c p with
          | some spots =>
            let s := s.dropReservation c
            some (if p.resumes.isEmpty then s.launchOn g c.node nd spots else s.resumeOn p.resumes spots)
          | none =>
            if s.hasReservation c then none
            else
              let l := s.reservable p.cores p.need
              let want := if p.resumes.isEmpty || (p.resumes.any fun w => w.res == .preempted true) then chooseSpots p.count l
                          else if l.length = p.cores.length then some l else none
              want.map fun spots =>
                let mine := spots.map Spot.core
                { s with cores := (List.range s.cores.length).filterMap fun k => (s.cores[k]?).map fun x =>
                    if mine.contains k then
                      { x with reserved := some { graph := c.graph, node := c.node, launch := c.launch, quires := p.need.quires,
                                                  tiles := p.need.tiles, tables := p.need.tables, since := s.tick } }
                    else x }

/-- Drops the reservations of candidates that are candidates no more. -/
def State.dropStale (s : State) : State :=
  { s with cores := s.cores.map fun k => match k.reserved with
      | none => k
      | some r =>
        let stands := match r.launch with
          | none => s.launchable r.graph r.node
          | some l => (s.savedLaunches r.graph r.node).any fun e => e.1 == l
        if stands then k else { k with reserved := none } }

/-- The region that a candidate's workgroups are charged to: its context and its index. -/
def State.candidateRegion (s : State) (c : Candidate) : Option (Nat × Nat) :=
  (s.graph? c.graph).bind fun g => (g.nodes[c.node]?).map fun n => (g.ctx, n.desc.rcb)

/-- Whether a candidate must let another node of its region go first (R18): one, on whichever die, that is at its cap and can
be placed (DEDUCED: notes/assumptions/24). -/
def State.yields (s : State) (c : Candidate) : Bool :=
  !c.cap && (List.range 4).any fun d => (s.candidates d).any fun b =>
    b.cap && decide (c.prio ≤ b.prio) && s.candidateRegion b == s.candidateRegion c && (s.place1 b).isSome

/-- Whether a candidate can be placed, or can reserve, now. -/
def State.placeable (s : State) (c : Candidate) : Bool := !s.yields c && (s.place1 c).isSome

/-- The candidate whose turn the event of a die is (R303): the first that can be placed or can reserve. -/
def State.placeFirst (s : State) (cs : List Candidate) : State :=
  match cs.find? s.placeable with
  | none => s
  | some c => (s.place1 c).getD s

/-- `LAUNCH_PLACEMENT` (R303, R304): the scheduler of a die places a candidate, or lets one reserve. The input's unit is the
die. -/
def execLaunchPlacement (s : State) : Out :=
  s.event fun s inp =>
    let s := s.dropStale
    s.placeFirst (s.candidates inp.unit)

/-! ### The host's records and admission (R294, R297) -/

/-- Changes a host queue. -/
def State.modQueue (s : State) (q : Nat) (f : HostQueue → HostQueue) : State :=
  { s with queues := s.queues.map fun e => if e.1 = q then (e.1, f e.2) else e }

/-- A packet's processing has finished (R289). -/
def State.packetDone (s : State) (q : Nat) : State :=
  s.modQueue q fun x => { x with buffer := x.buffer.tail, head := (x.head + 1) % 2 ^ 32, blocked := false }

/-- Enqueues the host's records in order until one must wait (R294, R297). -/
def State.hostFeedFrom (g : Nat) : List (List Byte) → State → State
  | [], s =>
    match s.graph? g with
    | none => s
    | some gr => (s.modGraph g fun x => { x with hostLeft := [], feeding := false }).packetDone gr.queue
  | r :: t, s =>
    match s.graph? g with
    | none => s
    | some gr =>
      match s.arrive (s.joinFuel g) g gr.entry r 0 .host with
      | (s, true) => s.modGraph g fun x => { x with hostLeft := t }
      | (s, false) => State.hostFeedFrom g t s

/-- Goes on with the processing of a launch packet whose records are being enqueued. -/
def State.hostFeed (s : State) (g : Nat) : State :=
  match s.graph? g with
  | none => s
  | some gr => if gr.feeding && !gr.hostWaits then (State.hostFeedFrom g gr.hostLeft s).noteCandidates g else s

/-- `RECORD_ADMISSION` (R297): the record that has waited longest for a queue enters it once there is room; after a closed
final gather it is redirected, once (R300). The host's further records follow (R294). The input names the graph and the node
(DEDUCED: notes/assumptions/87). -/
def execRecordAdmission (s : State) : Out :=
  s.event fun s inp =>
    let g := inp.unit
    let n := inp.sub
    let s : State := match s.node? g n with
      | none => s
      | some nd => match nd.waiting with
        | [] => s
        | e :: rest =>
          let t := s.modNode g n fun x => { x with waiting := rest }
          match redirectedRemote n nd e with
          | some p => if s.hasCredit g n 7 then t.sendRemote g n 7 p e.bytes e.depth else s
          | none =>
            if nd.finalClosed then
              let (t, _) := t.arrive (t.joinFuel g) g n e.bytes e.depth (.redirect n)
              t.admitted g n e
            else if s.hasRoom g n then (t.enqueue g n e.bytes e.depth).admitted g n e
            else s
    (((s.noteCandidates g).hostFeed g).copyNodesGo)

/-! ### Pre-emption (R306, R340 to R342) -/

/-- Lets the running copy-engine command of a core go on to its next split granule, when it is a workgroup's (R253); none when
a `texp` cannot run to completion yet. One that is in the midst of a granule ends it. -/
def State.copyToGranule (s : State) (core w : Nat) : Option State :=
  match s.activeCopy core with
  | none => some s
  | some (c, x) =>
    let stop (t : State) (e : Trap) : State :=
      (t.modCopy core c.order fun z => { z with stopped := true }).takeFault (t.commandDelivery w c.order e)
    if c.wg ≠ w then some s
    else if c.dying then some (s.endDyingCopy core c x)
    else match c.op with
      | .cpy .. =>
        let (d, ws, left) := s.copyLeft c x
        let midst := !c.afloat.isEmpty || c.owed ≠ 0
        let s := s.settleCopy core c x
        if midst then some (if left.isEmpty then s.finishUnlessEnded core c ws d.dir else s)
        else
          let (t, m, y, e) := State.copyGranules d x ws (left.take 1) { s with acting := some c.order }
          let t := ({ t with acting := none }.modCopy core c.order fun z => { z with progress := z.progress + m }).landed c ws y
          match e with
          | some e => some (stop t e)
          | none => some (if left.length ≤ 1 then t.finishUnlessEnded core c ws d.dir else t)
      | .topk .. =>
        let d := topkDesc (c.regs.getD 0 0) (c.regs.getD 1 0)
        if !c.afloat.isEmpty then
          let s := s.settleCopy core c x
          some (if d.rows ≤ c.progress then s.finishUnlessEnded core c [w] false else s)
        else
          let s := s.actAs c fun s => if c.progress < d.rows then d.row s w c.progress else s
          some (if d.rows ≤ c.progress + 1 then s.finishCopy core c [w] false
                else s.modCopy core c.order fun z => { z with progress := z.progress + 1 })
      | _ =>
        match s.advanceCopy core c x with
        | (t, _, some e) => some (stop t e)
        | (_, none, none) => none
        | (t, some (ws, glob), none) => some (t.finishUnlessEnded core c ws glob)

/-- Lets the `lay` that a tambour is performing go on to its next split granule, when it is a workgroup's (R253). -/
def State.layToGranule (s : State) (cluster w : Nat) : State :=
  match s.activeLay cluster with
  | none => s
  | some (c, p) =>
    if c.wg ≠ w || p.wg.isNone then s
    else if c.dying then s.endDyingLay cluster c p
    else
      let d := layDesc c.regs
      let left := dropDone c.progress d.granules
      let midst := !c.afloat.isEmpty
      let s := s.settleLay cluster c
      let (t, m, e) := if midst then (s, 0, none) else State.layGranules d p (left.take 1) { s with acting := some c.order }
      let t := { t with acting := none }.modLay cluster fun z => { z with progress := z.progress + m, stopped := e.isSome }
      match e with
      | some e => t.takeFault (t.commandDelivery w c.order e)
      | none =>
        if left.length ≤ (if midst then 0 else 1) then t.finishLay cluster c w else t

/-- Completes the matrix and lookup commands accepted for a workgroup (R191, R213). -/
def State.finishMath (core w : Nat) : Nat → State → State
  | 0, s => s
  | k + 1, s =>
    match s.core? core with
    | none => s
    | some x =>
      if (x.matrix ++ x.lookup).any fun c => c.wg == w then
        State.finishMath core w k (if x.matrixReady.isSome then s.completeMatrix core else s.completeLookup core)
      else s

/-- A thread as its state is saved (R26, R120, R140, R167): its results in flight have been written; a thread that waits has
not issued, but that the arrival of one in a barrier wait is not repeated. -/
def Thread.save (t : Thread) : Thread :=
  if !t.isLive then t
  else
    let t := { t.settleAll with hist := [] }
    let t := { t with request := none, early := [] }
    match t.wait with
    | .barrier _ _ _ => t
    | _ => t.unissue

/-- A workgroup as it is saved (R201, R341) with its engines' commands, those that still wait for room in a queue last, its
write-throughs having been performed (R277)
(DESIGN CHOICE: notes/assumptions/56). -/
def Workgroup.save (w : Workgroup) (full : Bool) (tick : Nat) (saved : List Command) : Workgroup :=
  { w with
    res := if w.ongoing then .preempted full else w.res, since := tick, l1 := [], saved := saved ++ w.saved,
    tables := w.tables.map fun t => if t.state = .valid then { t with state := .evicted, entries := [] } else t,
    groups := w.groups.map fun g => { g with threads := g.threads.map Thread.save, latch := none, formation := none } }

/-- Takes a workgroup's commands from its engines' queues (R253, R326): first those of the copy engine, the running one
leading, their slack less what they have gained; then those of the tambour. What waited for room in the queues goes on (R318). -/
def State.takeCommands (s : State) (w : Workgroup) : State × List Command :=
  match s.core? w.core with
  | none => (s, [])
  | some k =>
    let mine := k.copy.filter fun c => c.wg == w.id
    let mine := (mine.filter fun c => k.copyRunning == some c.order) ++ (mine.filter fun c => k.copyRunning ≠ some c.order)
    let cs := mine.map fun c => { c with slack := c.effectiveSlack k.copyCompleted }
    let running := match k.copyRunning with
      | some o => if mine.any fun c => c.order == o then none else some o
      | none => none
    let s := s.modCore w.core fun x => { x with copy := x.copy.filter (fun c => c.wg ≠ w.id), copyRunning := running }.start
    let lays := (s.tambours.getD (w.core / 4) []).filter fun c => c.wg == w.id
    let s : State := { s with tambours := s.tambours.modify (w.core / 4) fun q => q.filter fun c => c.wg ≠ w.id }
    (s.wakeEngines.copyNodesGo, cs ++ lays)

/-- Writes an image of a number of bytes into a context's save pool (R342). Where in the pool it lies, and what its bytes are, the
spec leaves open: free values decide (DESIGN CHOICE: notes/assumptions/56). -/
def State.writeImage (s : State) (c n : Nat) : State :=
  match s.ctx? c with
  | none => s
  | some x =>
    let (s, v) := s.draw
    let bs : List Byte := (List.range n).map fun i => (Config.freeValue (s.freeCtr + i)).setWidth 8
    let s : State := { s with freeCtr := s.freeCtr + n }
    (s.writeRun c (x.saveBase.toNat + v.toNat % (x.saveSize - n + 1)) bs).1

/-- Saves a workgroup whose in-flight work has been settled (R341, R342). One that a delivery before the save has killed is not
saved (R340). -/
def State.saveWorkgroup (s : State) (full : Bool) (id : Nat) : State :=
  match s.wg? id with
  | none => s
  | some w =>
    if (s.commandsOf id).any Command.dying then s
    else
    let s := s.drainAll id
    let (s, cs) := s.takeCommands w
    let s := s.dropWaiting ((List.range w.groups.length).flatMap fun g =>
      match w.groups[g]? with
      | none => []
      | some gr => gr.liveGtids.map fun t => (⟨id, g, t⟩ : ThreadId))
    let s := s.modWg id fun x => x.save full s.tick cs
    if w.ongoing then
      let n := w.saveBytes full
      (s.modCtx w.ctx fun c => { c with saveUsed := c.saveUsed + n }).writeImage w.ctx n
    else s

/-- Pre-empts the workgroups of a launch together (R340): their commands are settled, then each that still runs is saved; none
when a `texp` must first complete (DEDUCED: notes/assumptions/57). -/
def State.preempt (s : State) (full : Bool) (ws : List Workgroup) : Option State :=
  let settled := ws.foldl (init := some s) fun o w => o.bind fun s =>
    (((State.finishMath w.core w.id 64 s).layToGranule (w.core / 4) w.id)).copyToGranule w.core w.id
  settled.map fun s => (ws.map Workgroup.id).foldl (init := s) fun s id => s.saveWorkgroup full id

/-- The launches with a workgroup on given cores that a candidate of a priority may pre-empt (R306), lowest priority first, then
the most recently launched, which has the highest number. -/
def State.victims (s : State) (cores : List Nat) (prio : Nat) : List (Nat × Workgroup) :=
  let l : List (Nat × Workgroup) := s.wgs.filterMap fun w =>
    let r := s.regionOf w
    if cores.contains w.core && w.res == .resident && r.preempt ≠ 0 && r.prio < prio then some (r.prio, w) else none
  l.foldl (init := []) fun acc e => insertVictim e acc
where
  /-- Puts a workgroup among others in the order of R306. -/
  insertVictim (e : Nat × Workgroup) : List (Nat × Workgroup) → List (Nat × Workgroup)
    | [] => [e]
    | x :: t => if e.1 < x.1 || (e.1 = x.1 && x.2.id < e.2.id) then e :: x :: t else x :: insertVictim e t

/-- Pre-empts the first launch of a list whose image finds room in its context's save pool (R342). -/
def State.preemptFirst (s : State) : List (Nat × Workgroup) → State
  | [] => s
  | (_, w) :: t =>
    let full := (s.regionOf w).preempt = 2
    let ws := s.launchWgs w.graph w.node w.launch
    let bytes := (ws.filter Workgroup.ongoing).foldl (init := 0) fun n y => n + y.saveBytes full
    let fits := match s.ctx? w.ctx with
      | none => false
      | some c => decide (c.saveUsed + bytes ≤ c.saveSize)
    match (if fits then s.preempt full ws else none) with
    | some s => s
    | none => s.preemptFirst t

/-- `PRE_EMPTION` (R306): a candidate that has held a reservation for 65,536 ticks and does not fit its cores yet pre-empts a
launch there. The input's unit is one of the reserved cores. -/
def execPreEmption (s : State) : Out :=
  s.event fun s inp =>
    match (s.core? inp.unit).bind Core.reserved with
    | none => s
    | some r =>
      if s.tick < r.since + Config.reservationTicks then s
      else match s.graph? r.graph with
        | none => s
        | some g => match g.nodes[r.node]? with
          | none => s
          | some nd =>
            let cores := (List.range 48).filter fun k => (s.core? k).bind Core.reserved == some r
            let c : Candidate := { graph := r.graph, node := r.node, launch := r.launch, prio := g.prioOf nd.desc, cap := false, since := 0 }
            let p := s.placing c nd
            if (s.chosenSpots c { p with cores := cores }).isSome then s
            else s.preemptFirst (s.victims cores c.prio)

/-! ### Stalls (R19, R307, R336) -/

/-- Whether a wait counts for the stall timeout (R307). -/
def Wait.stalls : Wait → Bool
  | .lane .. | .compress .. | .denusk .. | .sync .. | .barrier .. | .latch | .formation | .emitting _ => true
  | _ => false

/-- The nodes of a context's graphs whose region has an index. -/
def State.regionNodes (s : State) (c r : Nat) : List (Graph × Nat) :=
  (s.graphs.filter fun g => g.ctx == c).flatMap fun g => ((List.range g.nodes.length).filter fun n =>
    ((g.nodes[n]?).map fun x => x.desc.rcb == r).getD false).map fun n => (g, n)

/-- The workgroups of a region of a context. -/
def State.regionWgs (s : State) (c r : Nat) : List Workgroup :=
  let ns := s.regionNodes c r
  s.wgs.filter fun w => w.ongoing && ns.any fun e => e.1.id == w.graph && e.2 == w.node

/-- Whether a region's candidates are kept from launching by budgets of workgroups or quires (R19). -/
def State.exhausted (s : State) (c r : Nat) : Bool :=
  (s.regionNodes c r).any fun e => (s.graphCandidates e.1 (((e.1.nodes[e.2]?).map fun x => x.desc.home).getD 0)).any fun k =>
    k.node == e.2 && !s.candidateFits k false

/-- Whether both conditions of R19 hold for a region, and no thread of it is parked or halted (R336). -/
def State.stalled (s : State) (c r : Nat) : Bool :=
  let ws := s.regionWgs c r
  s.exhausted c r &&
  ws.all (fun w => w.res ≠ .resident || w.groups.all fun g => g.allLive fun t => t.wait.stalls) &&
  ws.all fun w => w.groups.all fun g => g.stop == .running

/-- The number of the last issue of a region's workgroups. -/
def lastIssueOf (ws : List Workgroup) : Nat :=
  ws.foldl (init := 0) fun n w => w.groups.foldl (init := n) fun n g => g.threads.foldl (init := n) fun n t => max n t.lastIssue

/-- A region's timer after a look at its conditions (DEDUCED: notes/assumptions/59). -/
def State.stallTimer (s : State) (g : Graph) (r : Region) : Option StallTimer :=
  if r.timeout = 0 || !s.stalled g.ctx r.index then none
  else
    let m := lastIssueOf (s.regionWgs g.ctx r.index)
    let fresh : StallTimer := { region := r.index, since := s.tick, mark := m, delivered := false }
    match g.stalls.find? fun t => t.region == r.index with
    | some t => some (if t.mark = m then t else fresh)
    | none => some fresh

/-- Looks at the stall conditions of every region that has a timeout, which is done whenever the tick moves on. -/
def State.noteStalls (s : State) : State :=
  { s with graphs := s.graphs.map fun g => { g with stalls := g.regions.filterMap fun r => s.stallTimer g r } }

/-- Whether a graph's timer of a region has passed its timeout and the fault has yet to be delivered. -/
def State.stallDue (s : State) (g : Graph) (r : Region) : Bool :=
  match s.stallTimer g r with
  | none => false
  | some t => !t.delivered && decide (t.since + r.timeout < s.tick)

/-- The graph-stall fault of a region (R307, R334): the region is killed, or halts under the halt policy. -/
def State.stallFault (s : State) (g : Graph) (r : Region) : State :=
  let brk := ((s.ctx? g.ctx).map Context.brkEn).getD false
  let want := if r.policy = 5 && brk then 5 else if r.policy = 3 then 3 else 2
  let nodes := s.regionNodes g.ctx r.index
  let first := ((nodes.find? fun e => e.1.id == g.id).map Prod.snd).getD 0
  let s := s.modGraph g.id fun x =>
    { x with faults := x.faults + 1,
             stalls := x.stalls.map fun t => if t.region = r.index then { t with delivered := true } else t }
  let fields : LogFields :=
    { ctx := g.ctx, cause := Cause.graphStall.code, policy := want, unit := 0, acc := 0, rcb := r.index, node := first, group := 0,
      faddr := BitVec.ofNat 64 r.index, pc := 0, graphid := g.graphid, launch := 0, nthr := 0 }
  let kill (s : State) : State :=
    let (s, ds) := if want = 3 then s.killNodes g.ctx fun h d => (h.chain d.rcb).contains r.index
                   else s.killNodes g.ctx fun _ d => d.rcb == r.index
    s.takeFaults ds
  match s.writeLog fields with
  | (s, none) => kill s
  | (s, some (seq, place)) =>
    if want = 5 then
      let gs := (s.regionWgs g.ctx r.index).flatMap fun w => (List.range w.groups.length).map fun i => (w.id, i)
      let v : Service := { ctx := g.ctx, seq := seq, place := place, groups := gs, count := 1, page := none, nodes := [], skip := [],
                           orders := [] }
      { s with services := v :: s.services }.stopGroups gs (.halted seq)
    else kill s

/-- `GRAPH_STALL` (R19, R307): a region has met the conditions of R19 for longer than its timeout. The input names the graph
and the region. -/
def execGraphStall (s : State) : Out :=
  s.event fun s inp =>
    let s := s.noteStalls
    match s.graph? inp.unit with
    | none => s
    | some g => match g.region? inp.sub with
      | none => s
      | some r => if s.stallDue g r then s.stallFault g r else s

/-! ### Host queues (R287 to R290) -/

/-- The word 0 of a queue's next packet. -/
def HostQueue.word0 (q : HostQueue) : Option Reg := q.buffer.head?.map fun b => leReg (b.take 8)

/-- The TYPE of a packet (R288). -/
def packetType (w : Reg) : Nat := (bf w 60 4).toNat

/-- Whether a queue is eligible (R289, R290): it has a copied packet, its lock is free, and neither BARRIER nor a wait packet
holds it. A signal packet waits for earlier graphs as BARRIER makes one wait. -/
def State.eligible (s : State) (n : Nat) (q : HostQueue) : Bool :=
  match q.word0 with
  | none => false
  | some w =>
    !q.stopped && !q.blocked && !(s.graphs.any fun g => g.queue == n && g.feeding) &&
    !((w.getLsbD 59 || packetType w = 3) && s.graphs.any fun g => g.queue == n)

/-- The lowest pass value of a list of queues. -/
def lowestPass : List (Nat × HostQueue) → Option Nat
  | [] => none
  | q :: t => some (match lowestPass t with | none => q.2.pass | some p => min q.2.pass p)

/-- Looks at which queues are eligible: one that becomes so catches up with the lowest pass of those that were (R290). -/
def State.noteEligible (s : State) : State :=
  let low := lowestPass (s.queues.filter fun e => e.2.eligible && s.eligible e.1 e.2)
  { s with queues := s.queues.map fun e =>
      let now := s.eligible e.1 e.2
      (e.1, { e.2 with eligible := now,
                       pass := if now && !e.2.eligible then max e.2.pass (low.getD 0) else e.2.pass }) }

/-! ### Graph end (R309, R310) -/

/-- A status or signal store of R310: made when its address is not 0; when it cannot be made, the context's service error
event is raised. One that leads to a device register is that register's write, which comes about next (R279, R385). -/
def State.reportStore (s : State) (c : Nat) (a v : Reg) : State :=
  if a = 0 then s
  else if bf a 0 3 ≠ 0 || 2 ^ 56 ≤ a.toNat then s.serviceError c
  else match s.registerAt c a.toNat .write with
  | some off => { s with agenda := registerTurn off v :: s.agenda }
  | none =>
    if !s.canStore c a then s.serviceError c
    else match s.storeGlobal ⟨c, none⟩ {} a (leBytes 8 v.toNat) 0 with
    | (s, .ok ()) => s
    | (s, .error _) => s.serviceError c

/-- The status word of R310. -/
def statusWord (reject faults overflow stranded : Nat) : Reg :=
  BitVec.ofNat 64 (reject * 2 ^ 56 + min faults 65535 * 2 ^ 32 + min overflow 65535 * 2 ^ 16 + min stranded 65535)

/-- Gives back what a graph holds of the record stores, and ends its instance. -/
def State.freeGraph (s : State) (g : Graph) : State :=
  let s := g.nodes.foldl (init := s) fun (s : State) (n : Node) =>
    { s with poolUsed := bump s.poolUsed n.desc.home
               (· - (n.desc.reserveChunks + (n.chunks.filter fun (k : Chunk) => k.source = ChunkSource.pool).length)),
             spillUsed := bump s.spillUsed n.desc.home (· - (n.chunks.filter fun (k : Chunk) => k.source = ChunkSource.spill).length) }
  { s with graphs := s.graphs.filter fun x => x.id ≠ g.id,
           gangMembers := s.gangMembers.filter fun m => m.graph ≠ some g.id || m.decision.isNone }

/-- Ends a graph (R310): the status word, the signal, and what it holds. -/
def State.endGraph (s : State) (g : Graph) : State :=
  let s := s.reportStore g.ctx g.stataddr (statusWord 0 g.faults g.overflow g.stranded)
  let s := s.reportStore g.ctx g.sigaddr g.sigval
  (s.freeGraph g).noteEligible

/-- `GRAPH_END` (R309, R310): what can never launch is stranded (R301), and a graph whose outstanding work is then 0 ends. The
input's unit is the graph. -/
def execGraphEnd (s : State) : Out :=
  s.event fun s inp =>
    let t := s.strandLeft inp.unit
    match t.graph? inp.unit with
    | none => s
    | some g => if g.feeding then s else if t.outstanding inp.unit = 0 then t.endGraph g else t

end Sys2Proof.Machine
end

