-- ==== Sys2Proof/Machine/Service.lean ====
section
/-! DEFINITION. Fault service (R332), the debugger's halts, breakpoints and accesses to halted threads (R374 to R376), and
the context events it shares with the host (R395). -/

namespace Sys2Proof.Machine

open Sys2Proof

/-! ### Instruction fetch -/

/-- Whether a group's threads may issue: its workgroup is resident and the group neither parked nor halted (R16). -/
def Workgroup.mayIssue (x : Workgroup) (g : Group) : Bool := x.res == .resident && g.stop == .running

/-- The word at an address of a context, as instruction fetch reads it (R66, R345): the access kind is execute. -/
def State.fetch (s : State) (c : Nat) (va : BitVec 56) : State × Except Trap Word :=
  let a : Reg := va.setWidth 64
  let word (b : List Byte) : Word := BitVec.ofNat 32 (leNat b)
  match s.translate c va.toNat .execute with
  | (s, .error e) => (s, .error (translationTrap e a .execute 0))
  | (s, .ok pa) =>
    match s.place pa with
    | .memory => let s := s.recall pa 4; (s, .ok (word (s.readMem pa 4)))
    | .peer port =>
      let (s, v) := (s.post (.peerAccess port (pa % 2 ^ 41) (.read 4))).draw
      (s, .ok (bf v 0 32))
    | .host h => s.hostAccess pa 0 fun s => (s, word (readBytes s.hostMem (s.hostKey c h) 4))
    | .package q off => match s.remote c q off .execute (.read 4) with
      | (s, .error .machineCheck) => (s, .error (machineCheckTrap pa 3))
      | (s, .error e) => (s, .error (translationTrap e a .execute 3))
      | (s, .ok (some p)) => (s, .ok (word (s.readMem p 4)))
      | (s, .ok none) => let (s, v) := s.draw; (s, .ok (bf v 0 32))
    | .unbacked => (s, .error (machineCheckTrap pa 0))

/-- Whether a decoded word begins an instruction group of its own (R67): a stall hint is none. -/
def beginsGroup (i : Instr) : Bool := match i with | .stallHint => false | _ => true

/-! ### The SERVICE register (R332) -/

/-- The entry that a SERVICE write names, if it holds a parked or halted delivery. -/
def State.serviceEntry (s : State) (c seq : Nat) : Option Service :=
  s.services.find? fun v => v.ctx == c && v.seq == seq && v.holds

/-- A SERVICE write of one of the two actions: the entry's deliveries are acted on, or the service error event is raised
when no entry holds one (DEDUCED: notes/assumptions/65). -/
def State.serviceWrite (s : State) (c : Nat) (v : Reg) (act : State → Service → State) : State :=
  let s := s.modCtx c fun x => { x with service := v &&& 0xFFFFFFFF00000003 }
  match s.serviceEntry c (bf v 32 32).toNat with
  | none => s.serviceError c
  | some e => act s e

/-- Work that waited while groups stood stopped goes on: copy-node launches whose commands were held. -/
def State.goOn (s : State) : State := s.wakeEngines.copyNodesGo

/-- `SERVICE_RESUME` (R332): a SERVICE write with ACTION 0 resumes every delivery of the entry; a reserved ACTION raises the
service error event. The input names the context and the value written. -/
def execServiceResume (s : State) : Out :=
  s.event fun s inp =>
    match (bf inp.val 0 2).toNat with
    | 0 => (s.serviceWrite inp.unit inp.val fun s e => s.resumeService e).goOn
    | 1 => s
    | _ => s.serviceError inp.unit

/-- `SERVICE_KILL_GROUP` (R332): a SERVICE write with ACTION 1 kills the groups of every delivery of the entry. The input names
the context and the value written. -/
def execServiceKillGroup (s : State) : Out :=
  s.event fun s inp =>
    match (bf inp.val 0 2).toNat with
    | 1 => (s.serviceWrite inp.unit inp.val fun s e => s.killService e).goOn
    | 0 => s
    | _ => s.serviceError inp.unit

/-! ### Halts and breakpoints (R374, R375) -/

/-- A write of the fields of DBGCTL that stay (R374). -/
def State.dbgctl (s : State) (c : Nat) (v : Reg) : State :=
  s.modCtx c fun x => { x with hregion := bf v 16 24, traceEn := v.getLsbD 2, brkEn := v.getLsbD 1 }

/-- The running groups of a region of a context that have a live thread (DEDUCED: notes/assumptions/64). -/
def State.regionGroups (s : State) (c r : Nat) : List (Nat × Nat) :=
  (s.regionWgs c r).flatMap fun w => ((List.range w.groups.length).filter fun i =>
    ((w.groups[i]?).map fun g => g.stop == .running && !g.liveGtids.isEmpty).getD false).map fun i => (w.id, i)

/-- `HALT_REQUEST` (R374): a DBGCTL write with HALTREQ set halts each group of region HREGION, each as one delivery of its own.
The input names the context and the value written. -/
def execHaltRequest (s : State) : Out :=
  s.event fun s inp =>
    let s := s.dbgctl inp.unit inp.val
    if inp.val.getLsbD 3 then
      (s.regionGroups inp.unit (bf inp.val 16 24).toNat).foldl (init := s) fun s e =>
        s.takeFault (s.groupDelivery e.1 e.2 (trap .haltRequest 0))
    else s

/-- The enabled breakpoint register that holds an address (R375). -/
def Context.breakpointAt (c : Context) (pc : BitVec 56) : Option Nat :=
  if !c.brkEn then none
  else (List.range 4).find? fun n => match c.brkpc[n]? with
    | some r => r.getLsbD 0 && bf r 2 54 = pc.extractLsb' 2 54
    | none => false

/-- The breakpoint trap of threads of one group that are about to issue the group at their PC (R375); the fault address is
0x10_0000 plus the register's number. -/
def State.breakpointHits (s : State) (w g : Nat) (ts : List Nat) : List (Nat × Trap) :=
  match s.wg? w with
  | none => []
  | some x => match s.ctx? x.ctx with
    | none => []
    | some c => ts.filterMap fun t => match s.thread? ⟨w, g, t⟩ with
      | none => none
      | some th =>
        if th.isLive && th.wait = .running && th.words.count = 0 then
          (c.breakpointAt th.pc).map fun n => (t, trap .breakpoint (BitVec.ofNat 64 (0x100000 + n)))
        else none

/-- Whether a thread is about to issue an instruction group (R16, R67): its group may issue, and the word at its PC is fetched and
begins a group. -/
def State.aboutToBegin (s : State) (id : ThreadId) : Bool :=
  match s.wg? id.wg, s.grp? id.wg id.grp, s.thread? id with
  | some x, some g, some t =>
    x.mayIssue g && (match (s.fetch x.ctx t.pc).2 with | .ok ir => beginsGroup (decode ir) | .error _ => false)
  | _, _, _ => false

/-- `HARDWARE_BREAKPOINT` (R375): a thread about to issue the group at an enabled breakpoint takes the breakpoint trap. The
input names the thread. -/
def execHardwareBreakpoint (s : State) : Out :=
  s.event fun s inp =>
    if s.aboutToBegin inp.tid then
      s.takeHits inp.tid.wg inp.tid.grp (s.breakpointHits inp.tid.wg inp.tid.grp [inp.tid.gtid])
    else s

/-! ### DBGSEL and DBGDATA (R376) -/

/-- The thread that DBGSEL names, if its group is halted (DEDUCED: notes/assumptions/63). -/
def State.debugThread (s : State) (c : Nat) : Option ThreadId :=
  match s.ctx? c with
  | none => none
  | some x =>
    let node := (bf x.dbgsel 52 12).toNat
    let launch := (bf x.dbgsel 28 24).toNat
    let grp := (bf x.dbgsel 24 4).toNat
    let gtid := (bf x.dbgsel 17 7).toNat
    (s.wgs.find? fun w => w.ctx == c && w.node == node && w.launch % 2 ^ 24 == launch &&
      (match w.groups[grp]? with
       | some g => (match g.stop with | .halted _ => true | _ => false) && decide (gtid < g.threads.length)
       | none => false)).map fun w => ⟨w.id, grp, gtid⟩

/-- The item that DBGSEL names. -/
def State.debugItem (s : State) (c : Nat) : Nat := ((s.ctx? c).map fun x => (bf x.dbgsel 8 9).toNat).getD 0

/-- The words of a fault image, low word first (R328). -/
def FaultImage.word (f : FaultImage) (i : Nat) : Reg :=
  match i with
  | 0 => f.acc ++ f.unit ++ (0 : BitVec 4) ++ f.aux
  | 1 => f.faddr
  | _ => f.cause ++ f.pc

/-- The predicates of a thread, with the results still to come to them. -/
def Thread.allPreds (t : Thread) : Reg :=
  (List.range 12).foldl (init := 0) fun v n => if (t.value (.pred n)).getLsbD 0 then v ||| (1 <<< n : Reg) else v

/-- An item of a thread or its group (R376); one outside the allotment reads 0. -/
def debugRead (g : Group) (t : Thread) (item : Nat) : Reg :=
  if item < 64 then (if item < g.allot then t.value (.named item) else 0)
  else if item < 80 then (if item - 63 ≤ t.qseq then t.value (.slot (t.qseq - (item - 64))) else 0)
  else if item = 80 then t.allPreds
  else if item = 81 then t.pc.setWidth 64
  else if item = 82 then t.tsw.setWidth 64
  else if item = 83 then t.srg.setWidth 64
  else if item < 87 then t.fault.word (item - 84)
  else if 96 ≤ item ∧ item < 128 then (g.scalars[item - 96]?).getD 0
  else 0

/-- A write of an item of a thread (R376): software never writes the fault state (R328), and a mode of 5 to 7 leaves RM
(R34); the sticky flags take what is written, so that a debugger may clear them (DESIGN CHOICE: notes/assumptions/117). A thread whose
PC is written stands at it as one that has not issued (DEDUCED: notes/assumptions/38). -/
def Thread.debugWrite (t : Thread) (allot item : Nat) (v : Reg) : Thread :=
  if item < 64 then (if item < allot then t.writeNow (.named item) v else t)
  else if item < 80 then (if item - 63 ≤ t.qseq then t.writeNow (.slot (t.qseq - (item - 64))) v else t)
  else if item = 80 then
    { t with preds := v.setWidth 12,
             arriving := t.arriving.filter fun a => match a.target with | .pred _ => false | _ => true,
             hist := t.hist.filter fun h => match h.target with | .pred _ => false | _ => true }
  else if item = 81 then { t.unissue with pc := v.setWidth 56, stalls := [], hist := [] }
  else if item = 82 then { t with tsw := controlTsw ((bf v 0 6).setWidth 32 ||| (t.tsw &&& 0xF00)) v }
  else if item = 83 then { t with srg := if v.setWidth 32 = (0 : BitVec 32) then 1 else v.setWidth 32 }
  else t

/-- `DBGDATA_READ` (R376): the input's unit is the context. -/
def execDbgdataRead (s : State) : Out :=
  s.event fun s inp =>
    match s.debugThread inp.unit with
    | none => { s.serviceError inp.unit with answer := 0 }
    | some id => match s.grp? id.wg id.grp, s.thread? id with
      | some g, some t => { s with answer := debugRead g t (s.debugItem inp.unit) }
      | _, _ => s

/-- `DBGDATA_WRITE` (R376): the input names the context and the value. A PC with bits 1:0 nonzero is discarded with the service
error event. -/
def execDbgdataWrite (s : State) : Out :=
  s.event fun s inp =>
    let item := s.debugItem inp.unit
    match s.debugThread inp.unit with
    | none => s.serviceError inp.unit
    | some id =>
      if item = 81 then
        if bf inp.val 0 2 ≠ 0 then s.serviceError inp.unit
        else
          let s := (s.dropWaiting [id]).modThread id fun t => t.debugWrite 0 item inp.val
          { s with services := s.services.map fun v => { v with skip := v.skip.filter (· ≠ id) } }
      else if 96 ≤ item ∧ item < 128 then s.writeScalar id.wg id.grp (item - 96) inp.val
      else match s.grp? id.wg id.grp with
        | none => s
        | some g => s.modThread id fun t => t.debugWrite g.allot item inp.val

/-- `CEVT_CLEAR` (R395): writing 1 to a bit of a context's CEVT clears it. The input names the context and the value. -/
def execCevtClear (s : State) : Out :=
  s.event fun s inp => s.modCtx inp.unit fun c => { c with cevt := c.cevt &&& ~~~inp.val }

end Sys2Proof.Machine
end

