-- ==== Sys2Proof/Machine/Debug.lean ====
section
/-! DEFINITION. The global tick and what comes about at its values: stops (R372, R373), samples (R379 to R383), clock modes
(R384); and the device events (R395). -/

namespace Sys2Proof.Machine

open Sys2Proof

/-! ### Device events (R395) -/

/-- Raises a device event: a record of 32 bytes in the host's ring and its interrupt; a full ring, or one not set up, drops
and counts it (DEDUCED: notes/assumptions/67). -/
def State.deviceEvent (s : State) (code num : Nat) (addr : Reg) : State :=
  let n := (bf s.evCfg 0 5).toNat
  let made := (bf s.evProd 0 48).toNat
  let used := (bf s.evProd 0 48 - bf s.evCons 0 48).toNat
  if n < 4 || n > 16 || used ≥ 2 ^ n then { s with evProd := s.evProd + 0x1000000000000 }
  else
    let at_ := s.evBase.toNat + 32 * (made % 2 ^ n)
    let bytes := leBytes 8 s.tick ++ leBytes 4 code ++ leBytes 4 num ++ leBytes 8 addr.toNat ++ leBytes 8 0
    { s with hostMem := writeBytes s.hostMem at_ bytes,
             evProd := bf s.evProd 48 16 ++ (bf s.evProd 0 48 + 1),
             irqs := (bf s.evCfg 16 11).toNat :: s.irqs }

/-! ### The sampler (R379 to R383) -/

/-- How many counters a sample holds (R381). -/
def counterCount : Nat := 1116

/-- The counters of R381 that the model counts exactly: groups issued, the occupancy of engines, loads served and not served from
L1, generation refusals, records admitted, chunks spilled, and workgroups placed. -/
def counted (i : Nat) : Bool := i < 48 || (624 ≤ i && i < 876) || (884 ≤ i && i < 888) || 1104 ≤ i

/-- How many of a die's first `n` requests to a home slice hit the L2 (DEDUCED: notes/assumptions/17). -/
def l2Hits (d n : Nat) : Nat := ((List.range n).filter (Config.l2Hit d)).length

/-- The words of a sample's counters (R381, R383): a context's page counts nothing per die, per stack or per port; each request to a
home slice is a hit or a miss of its die's L2; a counter of timing, or of what links and translation structures whose making the spec
leaves open have done, holds a free value (DEDUCED: notes/assumptions/17). -/
def State.counterWords (s : State) (l : List (Nat × Nat)) (device : Bool) : State × List Reg :=
  let count (i : Nat) : Nat := (l.lookup i).getD 0
  ({ s with freeCtr := s.freeCtr + counterCount },
   (List.range counterCount).map fun i =>
     if !device && 876 ≤ i then 0
     else if counted i then BitVec.ofNat 64 (count i)
     else if 876 ≤ i && i < 880 then BitVec.ofNat 64 (l2Hits (i - 876) (count i))
     else if 880 ≤ i && i < 884 then BitVec.ofNat 64 (count (i - 4) - l2Hits (i - 880) (count (i - 4)))
     else Config.freeValue (s.freeCtr + i))

/-- LOCKST (R384). -/
def State.lockst (s : State) : Reg := BitVec.ofBool s.lockLost ++ (0 : BitVec 10) ++ BitVec.ofNat 5 s.clkPoint ++ s.lockTick

/-- The fields of a sampler's configuration that stay (R5, R379). -/
def samplerConfig (v : Reg) : Reg := v &&& 0xFF0000F9

/-- The log of a sampler's period (R379). -/
def samplerK (v : Reg) : Nat := (bf v 3 5).toNat

/-- Whether a sampler is to latch at a tick. -/
def samplerDue (cfg : Reg) (last : Option Nat) (tick : Nat) : Bool :=
  cfg.getLsbD 0 && tick % 2 ^ samplerK cfg = 0 && last ≠ some tick

/-- The producer count after a sample: bits 63:48 count those lost (R380). -/
def sampleCounted (prod : Reg) (lost : Bool) : Reg :=
  if lost then prod + 0x1000000000000 else bf prod 48 16 ++ (bf prod 0 48 + 1)

/-- Whether a sampler's ring is full (DEDUCED: notes/assumptions/31). -/
def samplerFull (cfg prod : Reg) : Bool := decide (2 ^ (bf cfg 24 8).toNat ≤ (bf prod 0 48).toNat)

/-- The bytes of a sample at this tick (R380). -/
def State.sampleBytes (s : State) (l : List Reg) : List Byte :=
  wordBytes ([BitVec.ofNat 64 s.tick, s.lockst, 0, 0, 0, 0, 0, 0] ++ l)

/-- Where the next sample of a ring lies. -/
def samplePlace (base prod : Reg) : Nat := base.toNat + (64 + 8 * counterCount) * (bf prod 0 48).toNat

/-- A context's sampler latches its counters (R380). -/
def State.sampleContext (s : State) (c : Nat) : State :=
  match s.ctx? c with
  | none => s
  | some x =>
    if !samplerDue x.sctl x.sampled s.tick then s
    else
      let done (s : State) (lost : Bool) : State :=
        s.modCtx c fun y => { y with sampled := some s.tick, sprod := sampleCounted y.sprod lost }
      if samplerFull x.sctl x.sprod then done s true
      else
        let (s, l) := s.counterWords x.counters false
        match s.writeRun c (samplePlace x.sbase x.sprod) (s.sampleBytes l) with
        | (s, .ok ()) => done s false
        | (s, .error _) => done s true

/-- The unfiltered sampler latches its counters, to host memory (R383). -/
def State.sampleDevice (s : State) : State :=
  let base : Reg := s.sampler0[0]
  let cfg : Reg := s.sampler0[1]
  let prod : Reg := s.sampler0[2]
  if !samplerDue cfg s.sampled0 s.tick then s
  else
    let done (s : State) (lost : Bool) : State :=
      { s with sampled0 := some s.tick, sampler0 := #v[base, cfg, sampleCounted prod lost] }
    if samplerFull cfg prod then done s true
    else
      let (s, l) := s.counterWords s.counters0 true
      done { s with hostMem := writeBytes s.hostMem (samplePlace base prod) (s.sampleBytes l) } false

/-- `SAMPLE_LATCH` (R380): the counters are latched at a tick that is a multiple of 2^K. The input's unit is the context, or
1,024 for the device's sampler. -/
def execSampleLatch (s : State) : Out :=
  s.event fun s inp => if inp.unit = 1024 then s.sampleDevice else s.sampleContext inp.unit

/-- Whether a sampler configuration sets EN with K or SIZE out of range (R379). -/
def badSampler (v : Reg) : Bool :=
  v.getLsbD 0 && (samplerK v < 10 || samplerK v > 24 || (bf v 24 8).toNat < 4 || (bf v 24 8).toNat > 20)

/-- `SAMPLER_CONFIG_WRITE` (R379): a change of EN from 0 to 1 clears the counters. The input names the context (1,024: the
device's sampler) and the value. -/
def execSamplerConfigWrite (s : State) : Out :=
  s.event fun s inp =>
    if inp.unit = 1024 then
      if badSampler inp.val then s
      else
        let start := inp.val.getLsbD 0 && !((s.sampler0[1] : Reg).getLsbD 0)
        { s with sampler0 := #v[s.sampler0[0], samplerConfig inp.val, s.sampler0[2]],
                 counters0 := if start then [] else s.counters0, sampled0 := if start then none else s.sampled0 }
    else if badSampler inp.val then s.serviceError inp.unit
    else s.modCtx inp.unit fun c =>
      let start := inp.val.getLsbD 0 && !c.sctl.getLsbD 0
      { c with sctl := samplerConfig inp.val, counters := if start then [] else c.counters,
               sampled := if start then none else c.sampled }

/-! ### Stops (R372, R373) -/

/-- `STOPTICK_WRITE` (R372): a value above the tick arms a stop, any other disarms it. The input's value is written
(DEDUCED: notes/assumptions/66). -/
def execStoptickWrite (s : State) : Out :=
  s.management fun s inp => { s with stopTick := inp.val, stopArmed := decide (s.tick < inp.val.toNat) }

/-- The module stops when the tick has reached STOPTICK with a stop armed. -/
def State.stopNow (s : State) : State :=
  if s.stopArmed && decide (s.stopTick.toNat ≤ s.tick) then { s with stopped := true, stopArmed := false } else s

/-- `MODULE_STOP` (R373). -/
def execModuleStop (s : State) : Out := s.management fun s _ => s.stopNow

/-- `STOP_RESUME` (R373): a write of 1 to RESUME restarts every domain. The input's value is the STOPCTL write. -/
def execStopResume (s : State) : Out :=
  s.management fun s inp => if inp.val.getLsbD 2 then { s with stopped := false } else s

/-! ### Clocks (R384) -/

/-- The clock mode written takes effect at a tick that is a multiple of 65,536 after the write. -/
def State.clockNow (s : State) : State :=
  match s.clkPending with
  | none => s
  | some (mode, point, written) =>
    if s.tick % 65536 = 0 && written < s.tick then
      { s with clkMode := mode, clkPoint := point, clkPending := none, islandPoint := [] }
    else s

/-- `CLOCK_MODE_CHANGE` (R384). -/
def execClockModeChange (s : State) : Out := s.management fun s _ => s.clockNow

/-- `LOCK_LOST` (R384): an island cannot hold the point in locked mode, and all drop together to the highest point that all
hold. The input names the island and, as its value, that point. -/
def execLockLost (s : State) : Out :=
  s.management fun s inp =>
    let p := inp.val.toNat
    if s.clkMode && p < s.clkPoint then
      { s with clkPoint := p, islandPoint := [], lockLost := true, lockTick := BitVec.ofNat 48 s.tick }.deviceEvent 3 inp.unit
        (BitVec.ofNat 64 p)
    else s

/-- `LOCKST_CLEAR` (R384): writing 1 to LOST clears it. The input's value is written. -/
def execLockstClear (s : State) : Out :=
  s.management fun s inp => if inp.val.getLsbD 63 then { s with lockLost := false } else s

/-! ### The tick (R370, R371) -/

/-- The next multiple of a period above a tick. -/
def nextMultiple (t p : Nat) : Nat := (t / p + 1) * p

/-- The write-backs that a workgroup in lazy-release mode has deferred for 32,768 ticks are performed (R268). -/
def State.writeBackDue (s : State) (w : Nat) : State :=
  if s.lazyWg w then s.drain w fun t => decide (t.sent + 32768 ≤ s.tick) else s

/-- The ticks above the present one by which a deferred write-back must be performed (R268). -/
def State.writeBackTicks (s : State) : List Nat :=
  (s.wgs.filter fun w => s.lazyCtx w.ctx).flatMap fun w => w.writes.map fun t => max (t.sent + 32768) (s.tick + 1)

/-- The ticks above the present one at which something must come about: a stop, a clock change, a sample, a write-back. -/
def State.tickPoints (s : State) : List Nat :=
  (if s.stopArmed then [max s.stopTick.toNat (s.tick + 1)] else []) ++
  (if s.clkPending.isSome then [nextMultiple s.tick 65536] else []) ++
  (if (s.sampler0[1] : Reg).getLsbD 0 && !s.stopped then [nextMultiple s.tick (2 ^ samplerK s.sampler0[1])] else []) ++
  if s.stopped then []
  else s.writeBackTicks ++ s.ctxs.filterMap fun c => if c.sctl.getLsbD 0 then some (nextMultiple s.tick (2 ^ samplerK c.sctl)) else none

/-- What comes about at the tick just reached. -/
def State.atTick (s : State) : State :=
  let s := s.clockNow
  let s := if s.stopped then s else (s.wgs.map Workgroup.id).foldl (init := s) State.writeBackDue
  let s := if s.stopped then s else (s.ctxs.map Context.id).foldl (init := s.sampleDevice) State.sampleContext
  s.stopNow

/-- The tick moves on by at most a number of increments, and no further than the next tick at which something must come
about; the answer is what is left of the number. -/
def State.tickOn (s : State) (n : Nat) : State × Nat :=
  if n = 0 then (s, 0)
  else
    let dest := s.tickPoints.foldl (init := s.tick + n) min
    let s := if s.stopped then s else s.noteStalls
    (State.atTick { s with tick := dest }, n - (dest - s.tick))

/-- `TICK_CORRECTION` (R371): to agree with its partners a package holds an increment of its tick (the input's flag false) or
doubles one (true), once in 1,024 ticks and only with a port Up. -/
def execTickCorrection (s : State) : Out :=
  s.event fun s inp =>
    let may := (s.links.any fun l => l.state == .up) && (match s.corrected with | none => true | some t => decide (t + 1024 ≤ s.tick))
    if !may then s
    else
      let s : State := { s with corrected := some s.tick }
      if inp.ok then (s.tickOn 1).1 else s

end Sys2Proof.Machine
end

