-- ==== Sys2Proof/Machine/Sha.lean ====
section
/-! DEFINITION. SHA-384, which the boot measurements and the image format use (R387, R388, R390). The function itself is
that of FIPS 180-4 (PRESUMED: notes/assumptions/32). -/

namespace Sys2Proof.Machine

open Sys2Proof

/-- The greatest number of at most `bits` bits above `r` whose `k`-th power does not exceed `n`. -/
def floorRoot (k n : Nat) : Nat → Nat → Nat
  | 0, r => r
  | bits + 1, r => floorRoot k n bits (if (r + 2 ^ bits) ^ k ≤ n then r + 2 ^ bits else r)

/-- The first 64 bits of the fraction of the `k`-th root of a number below 2^9. -/
def rootFraction (k n : Nat) : BitVec 64 := BitVec.ofNat 64 (floorRoot k (n * 2 ^ (64 * k)) 70 0)

/-- The primes up to the eightieth, 409. -/
def eightyPrimes : List Nat :=
  (List.range 410).filter fun n => decide (2 ≤ n) && (List.range n).all fun d => decide (d < 2) || n % d != 0

/-- The round constants: from the cube roots of the first eighty primes. -/
def shaConstants : List (BitVec 64) := eightyPrimes.map (rootFraction 3)

/-- The initial hash value: from the square roots of the ninth to the sixteenth prime. -/
def shaStart : List (BitVec 64) := ((eightyPrimes.drop 8).take 8).map (rootFraction 2)

/-- A word's rotations to the right by given numbers, added without carry. -/
def rotations (x : BitVec 64) (by_ : List Nat) : BitVec 64 := by_.foldl (init := 0) fun y r => y ^^^ x.rotateRight r

/-- The message schedule of a block, newest word first, grown from its sixteen words by a number of further ones. -/
def shaSchedule : Nat → List (BitVec 64) → List (BitVec 64)
  | 0, w => w
  | n + 1, w =>
    let back (k : Nat) : BitVec 64 := w.getD (k - 1) 0
    let late := rotations (back 2) [19, 61] ^^^ (back 2 >>> 6)
    let early := rotations (back 15) [1, 8] ^^^ (back 15 >>> 7)
    shaSchedule n ((back 16 + early + back 7 + late) :: w)

/-- One round on the eight working variables, with a schedule word and its constant. -/
def shaRound (v : List (BitVec 64)) (word : BitVec 64 × BitVec 64) : List (BitVec 64) :=
  let var (k : Nat) : BitVec 64 := v.getD k 0
  let chosen := var 6 ^^^ (var 4 &&& (var 5 ^^^ var 6))
  let most := (var 0 &&& var 1) ||| (var 2 &&& (var 0 ||| var 1))
  let first := var 7 + rotations (var 4) [14, 18, 41] + chosen + word.1 + word.2
  (first + rotations (var 0) [28, 34, 39] + most) :: ((v.take 3) ++ (var 3 + first) :: (v.drop 4).take 3)

/-- The natural number that bytes hold, the most significant first. -/
def beNat (l : List Byte) : Nat := l.foldl (init := 0) fun n b => 256 * n + b.toNat

/-- The low bytes of a number, the most significant first. -/
def beBytes (n v : Nat) : List Byte := (leBytes n v).reverse

/-- The hash value after a block of 128 bytes. -/
def shaBlock (h : List (BitVec 64)) (b : List Byte) : List (BitVec 64) :=
  let words := (List.range 16).map fun i => BitVec.ofNat 64 (beNat ((b.drop (8 * i)).take 8))
  let v := ((shaSchedule 64 words.reverse).reverse.zip shaConstants).foldl (init := h) shaRound
  List.zipWith (· + ·) h v

/-- The hash value after a number of blocks. -/
def shaBlocks : Nat → List Byte → List (BitVec 64) → List (BitVec 64)
  | 0, _, h => h
  | n + 1, l, h => shaBlocks n (l.drop 128) (shaBlock h (l.take 128))

/-- SHA-384 of bytes, as a number of 384 bits whose most significant byte is the digest's first. -/
def sha384 (l : List Byte) : BitVec 384 :=
  let pad := (128 - (l.length + 17) % 128) % 128
  let m := l ++ [(0x80 : Byte)] ++ List.replicate pad (0 : Byte) ++ beBytes 16 (8 * l.length)
  let h := shaBlocks (m.length / 128) m shaStart
  BitVec.ofNat 384 ((h.take 6).foldl (init := 0) fun n w => 2 ^ 64 * n + w.toNat)

/-- The 48 bytes of a digest or of a measurement register, the first one most significant. -/
def digestBytes (d : BitVec 384) : List Byte := beBytes 48 d.toNat

/-- The extension of a measurement register (R390). -/
def extendMr (m d : BitVec 384) : BitVec 384 := sha384 (digestBytes m ++ digestBytes d)

end Sys2Proof.Machine
end

