-- ==== Sys2Proof/Machine/Sign.lean ====
section
/-! DEFINITION. The signature of an attestation report (R391): ECDSA with SHA-384 on the curve brainpoolP384r1. The scheme is
that of FIPS 186-4 and the curve's numbers are those of RFC 5639 (PRESUMED: notes/assumptions/108). -/

namespace Sys2Proof.Machine

open Sys2Proof

/-- The prime of the curve's field. -/
def curvePrime : Nat := 0x8CB91E82A3386D280F5D6F7E50E641DF152F7109ED5456B412B1DA197FB71123ACD3A729901D1A71874700133107EC53

/-- The coefficient of x in the curve's equation y² = x³ + ax + b. -/
def curveA : Nat := 0x7BC382C63D8C150C3C72080ACE05AFA0C2BEA28E4FB22787139165EFBA91F90F8AA5814A503AD4EB04A8C7DD22CE2826

/-- The constant of the curve's equation. -/
def curveB : Nat := 0x04A8C7DD22CE28268B39B55416F0447C2FB77DE107DCD2A62E880EA53EEB62D57CB4390295DBC9943AB78696FA504C11

/-- The order of the base point, a prime. -/
def curveOrder : Nat := 0x8CB91E82A3386D280F5D6F7E50E641DF152F7109ED5456B31F166E6CAC0425A7CF3AB6AF6B7FC3103B883202E9046565

/-- A point of the curve by its coordinates; none is the point at infinity. -/
abbrev CurvePoint := Option (Nat × Nat)

/-- The base point. -/
def curveBase : CurvePoint :=
  some (0x1D1C64F068CF45FFA2A63A81B7C13F6B8847A3E77EF14FE3DB7FCAFE0CBD10E8E826E03436D646AAEF87B2E247D4AF1E,
        0x8ABE1D7520F9C2A45CB1EB8E95CFD55262B70B29FEEC5864E19C054FF99129280E4646217791811142820341263C5315)

/-- A power modulo `m`, over the bits of the exponent; the first argument bounds their number. -/
def powerMod (m : Nat) : Nat → Nat → Nat → Nat
  | 0, _, _ => 1 % m
  | bits + 1, x, e =>
    let h := powerMod m bits (x * x % m) (e / 2)
    if e % 2 = 1 then h * x % m else h

/-- The inverse modulo a prime of at most 384 bits. -/
def inverseMod (p x : Nat) : Nat := powerMod p 384 (x % p) (p - 2)

/-- A difference modulo `m` of numbers below `m`. -/
def subMod (m x y : Nat) : Nat := (x + (m - y % m)) % m

/-- The sum of two points of the curve. -/
def curveAdd (p q : CurvePoint) : CurvePoint :=
  let along (slope x1 y1 x2 : Nat) : CurvePoint :=
    let x := subMod curvePrime (slope * slope) (x1 + x2)
    some (x, subMod curvePrime (slope * subMod curvePrime x1 x) y1)
  match p, q with
  | none, q => q
  | p, none => p
  | some (x1, y1), some (x2, y2) =>
    if x1 ≠ x2 then along (subMod curvePrime y2 y1 * inverseMod curvePrime (subMod curvePrime x2 x1) % curvePrime) x1 y1 x2
    else if (y1 + y2) % curvePrime = 0 then none
    else along ((3 * x1 * x1 + curveA) * inverseMod curvePrime (2 * y1) % curvePrime) x1 y1 x2

/-- A multiple of a point, over the bits of the factor; the first argument bounds their number. -/
def curveTimes : Nat → Nat → CurvePoint → CurvePoint
  | 0, _, _ => none
  | bits + 1, k, p =>
    let h := curveTimes bits (k / 2) (curveAdd p p)
    if k % 2 = 1 then curveAdd p h else h

/-- The signature (r, s) of a digest with a private key and a one-time number, both between 1 and the order. -/
def ecdsa (key once : Nat) (digest : BitVec 384) : Nat × Nat :=
  let r := match curveTimes 384 once curveBase with | none => 0 | some (x, _) => x % curveOrder
  (r, inverseMod curveOrder once * (digest.toNat + r * key) % curveOrder)

/-- A number between 1 and the order less 1. -/
def curveScalar (n : Nat) : Nat := n % (curveOrder - 1) + 1

/-- The 96 bytes of the device's signature over bytes (R391): r, then s, most significant byte first. The key and the one-time
numbers are open values. -/
def deviceSignature (body : List Byte) (n : Nat) : List Byte :=
  let g := ecdsa (curveScalar (Config.deviceKey ())) (curveScalar (Config.signingNumber n)) (sha384 body)
  beBytes 48 g.1 ++ beBytes 48 g.2

end Sys2Proof.Machine
end

