-- ==== Sys2Proof/Machine/Power.lean ====
section
/-! DEFINITION. Power and temperature (R393, R396, R397), and the boot sequence (R387, R388, R390). -/

namespace Sys2Proof.Machine

open Sys2Proof

/-! ### Power and temperature (R397) -/

/-- The point at which an island runs: its own where the controller has set it, else the module's. -/
def State.pointOf (s : State) (i : Nat) : Nat := (s.islandPoint.lookup i).getD s.clkPoint

/-- `POWER_THROTTLE` (R397): in normal mode the controller sets an island to a point of the ladder, lower to keep the limit or
higher again; above point 0 not while the critical temperature lasts. The input names the island and its new point
(DESIGN CHOICE: notes/assumptions/101). -/
def execPowerThrottle (s : State) : Out :=
  s.management fun s inp =>
    let p := inp.val.toNat
    if !s.clkMode && inp.unit < 1024 && p ≤ Config.topPoint && (p = 0 || s.critical.isNone) then
      { s with islandPoint := (inp.unit, p) :: s.islandPoint.filter fun e => e.1 ≠ inp.unit }
    else s

/-- `CRITICAL_TEMPERATURE` (R397): event 7 is raised and every island drops to point 0; in locked mode that is a loss of
lock (R384). The input's unit is the island that reports. -/
def execCriticalTemperature (s : State) : Out :=
  s.management fun s inp =>
    let lost := s.clkMode && decide (0 < s.clkPoint)
    let s : State := { s with clkPoint := 0, islandPoint := [], critical := some (s.critical.getD s.tick) }
    let s := s.deviceEvent 7 inp.unit 0
    if lost then { s with lockLost := true, lockTick := BitVec.ofNat 48 s.tick }.deviceEvent 3 inp.unit 0 else s

/-- `CRITICAL_TEMPERATURE_TIMEOUT` (R397): 1 s after the critical temperature the module is still too hot (the input's flag)
and enters Failed, or has cooled. -/
def execCriticalTemperatureTimeout (s : State) : Out :=
  s.management fun s inp =>
    match s.critical with
    | none => s
    | some t =>
      if s.tick < t + 1000000000 then s
      else if inp.ok then { s with bootState := 15, critical := none }
      else { s with critical := none }

/-! ### Islands (R396) -/

/-- The workgroups that hold something of a core. -/
def State.onCore (s : State) (c : Nat) : List Workgroup := s.wgs.filter fun w => w.core == c && s.holds w != (0, 0, 0)

/-- The groups of workgroups resident on a core. -/
def State.groupsOn (s : State) (c : Nat) : List Group := (s.wgs.filter fun w => w.core == c && w.res == .resident).flatMap Workgroup.groups

/-- How many quires of a core are allotted. -/
def State.quiresUsed (s : State) (c : Nat) : Nat := (s.onCore c).foldl (init := 0) fun n w => n + (s.holds w).1

/-- Whether an island is powered down (R396). A core's quires are allotted from the lowest island that no mask names
(DEDUCED: notes/assumptions/30). -/
def State.poweredDown (s : State) (i : Nat) : Bool :=
  if i < 144 then
    match i % 3 with
    | 0 => (s.onCore (i / 3)).all fun w => decide ((s.holds w).2.1 = 0)
    | 1 => (s.onCore (i / 3)).all fun w => decide ((s.holds w).2.2 = 0)
    | _ => (s.onCore (i / 3)).isEmpty
  else if i < 192 then (s.groupsOn (i - 144)).isEmpty
  else if i < 384 then
    let j := (i - 192) % 4
    (s.groupsOn ((i - 192) / 4)).all fun g => decide (8 * j + 8 ≤ g.quad ∨ g.quad + (g.threads.length + 3) / 4 ≤ 8 * j)
  else if i < 768 then
    let c := (i - 384) / 8
    let j := (i - 384) % 8
    s.masked i || decide (s.quiresUsed c ≤ 4 * ((List.range j).filter fun k => !s.masked (384 + 8 * c + k)).length)
  else if i < 896 then
    !s.slicesInService.getLsbD (i - 768) ||
      (s.masked i && (List.range (1024 * 256)).all fun k => s.sliceOf k != i - 768 && !(s.handovers.contains (k, i - 768)))
  else if i < 992 then (s.links[i - 896]?).all fun l => l.state == .down
  else if i < 1000 then !s.cxlUsed (i - 992)
  else if i < 1008 then false
  else if i < 1020 then (s.tambours.getD (i - 1008) []).isEmpty
  else false

/-! ### The image (R388) -/

/-- A field of an image's header. -/
def imageField (img : List Byte) (off n : Nat) : Nat := leNat ((img.drop off).take n)

/-- The body of an image. -/
def imageBody (img : List Byte) : List Byte := (img.drop 4096).take (imageField img 8 8)

/-- A section entry: kind, offset and size. -/
structure Section where
  kind : Nat
  off : Nat
  size : Nat
  deriving DecidableEq, Repr

/-- The section entries, in table order. -/
def imageSections (img : List Byte) : List Section :=
  (List.range (min 16 (imageField img 76 4))).map fun i =>
    { kind := imageField img (80 + 16 * i) 4, off := imageField img (88 + 16 * i) 4, size := imageField img (92 + 16 * i) 4 }

/-- The bytes of a section. -/
def sectionBytes (img : List Byte) (x : Section) : List Byte := ((imageBody img).drop x.off).take x.size

/-- Whether two sections share a byte. -/
def Section.meets (x y : Section) : Bool := decide (x.off < y.off + y.size ∧ y.off < x.off + x.size)

/-- Whether no two sections of a list overlap. -/
def sectionsApart : List Section → Bool
  | [] => true
  | x :: t => t.all (fun y => !x.meets y) && sectionsApart t

/-- The format check of R388. -/
def imageOk (img : List Byte) : Bool :=
  let len := imageField img 8 8
  let nsec := imageField img 76 4
  let secs := imageSections img
  let count (k : Nat) : Nat := (secs.filter fun x => x.kind = k).length
  imageField img 0 4 = 0x4B46494D && imageField img 4 4 = 1 && 1 ≤ len && len ≤ Config.slotBytes - 4096 &&
  4096 + len ≤ img.length && 1 ≤ nsec && nsec ≤ 16 &&
  (List.range nsec).all (fun i => imageField img (84 + 16 * i) 4 = 0) &&
  ((img.take 4096).drop (80 + 16 * nsec)).all (fun b => b = 0) &&
  secs.all (fun x => x.kind ≤ 3 && 1 ≤ x.size && x.off + x.size ≤ len) && sectionsApart secs &&
  count 0 = 1 && count 1 = 1 && count 2 = 1 && count 3 ≤ 1 &&
  digestBytes (sha384 (imageBody img)) = (img.drop 16).take 48

/-- The whole image: header and body. -/
def wholeImage (img : List Byte) : List Byte := img.take (4096 + imageField img 8 8)

/-- The configuration digest (R388). -/
def configDigest (img : List Byte) : BitVec 384 :=
  sha384 (img.take 4096 ++ ((imageSections img).filter fun x => x.kind = 3).flatMap (sectionBytes img))

/-- The PORTEN mask of an image. -/
def imagePorts (img : List Byte) : BitVec 96 := BitVec.ofNat 96 (imageField img 64 12)

/-! ### Boot (R387) -/

/-- BOOTST (R387). -/
def State.bootst (s : State) : Reg :=
  (0 : BitVec 48) ++ s.bootErr ++ s.bootState ++ BitVec.ofBool s.bootRecovery ++ (0 : BitVec 3)

/-- Extends a measurement register (R390). -/
def State.extend (s : State) (n : Fin 8) (d : BitVec 384) : State := { s with mrs := s.mrs.set n (extendMr s.mrs[n] d) }

/-- The module after a reset (R387, R393): every register and unit as `State.reset` has it. What outlives a reset is kept: the
image slot, what is fitted to the module and the use that CXL_SET has given its CXL ports, the host's memory, and the counts
by which the model names things (DEDUCED: notes/assumptions/72, 94). The boot count rises at the entry to ROM (R391). -/
def State.restarted (s : State) : State :=
  { State.reset with
    ir := s.ir, input := s.input, agenda := s.agenda, nextId := s.nextId, issues := s.issues, freeCtr := s.freeCtr,
    hostMem := s.hostMem, irqs := s.irqs, outbox := s.outbox, image := s.image, bootCount := s.bootCount + 1,
    hbmSize := s.hbmSize, cxlSizes := s.cxlSizes, coresPresent := s.coresPresent, spillBytes := s.spillBytes,
    portsFitted := s.portsFitted, regBanks := s.regBanks, cxlPeer := s.cxlPeer, answer := s.answer }

/-- `POWER_ON` (R387): power returns, or a reset has entered ROM; the boot ROM clears the measurements and extends MR0 with
its own digest. -/
def execPowerOn (s : State) : Out :=
  let s : State := if s.power then s else s.restarted
  .next (if s.bootState = 0 then { s with mrs := Vector.replicate 8 0, bootState := 1 }.extend 0 (Config.romDigest ()) else s)

/-- The opcode of the command that a mailbox block holds (R393). -/
def blockOp (b : Vector Reg 8) : Nat := (bf b[0] 0 8).toNat

/-- `POWER_LOSS` (R393): everything but the image slot is lost until power returns. When power is lost while an IMAGE_WRITE runs,
the input's data is what the slot is left with, which fails the format check. -/
def execPowerLoss (s : State) : Out :=
  s.management fun s inp =>
    let writing := !s.mbDone && blockOp s.mbBlock = 14
    let slot := if !writing then s.image else if imageOk inp.data then [] else inp.data
    { s.restarted with power := false, image := slot, bootCount := s.bootCount, cxlPeer := 0 }

/-- The image that boots: the staged one when IMAGE_LOAD has supplied it, else the slot's (R389). -/
def State.bootImage (s : State) : List Byte := if s.bootRecovery then s.staged.getD [] else s.image

/-- `BOOT_MEASURE` (R387, R388): the image passes the format check and is measured, or Recovery is entered
(DESIGN CHOICE: notes/assumptions/14). -/
def execBootMeasure (s : State) : Out :=
  s.event fun s _ =>
    if s.bootState ≠ 1 then s
    else
      let img := s.bootImage
      if imageOk img then
        { (s.extend 1 (sha384 (wholeImage img))).extend 3 (configDigest img) with bootState := 2, portEn := imagePorts img }
      else { s with bootState := 7, bootErr := 3 }

/-- `BOOT_LOAD` (R387): MR2 is extended once per code section, in table order. -/
def execBootLoad (s : State) : Out :=
  s.event fun s _ =>
    if s.bootState ≠ 2 then s
    else
      let img := s.bootImage
      let code := (imageSections img).filter fun x => x.kind ≤ 2
      { code.foldl (init := s) (fun s x => s.extend 2 (sha384 (sectionBytes img x))) with bootState := 3 }

/-- `HBM_TRAINING_DONE` (R387): the input's flag tells whether every stack trained. -/
def execHbmTrainingDone (s : State) : Out :=
  s.event fun s inp =>
    if s.bootState ≠ 3 then s
    else if inp.ok then { s with bootState := 4 }
    else { s with bootState := 15, bootErr := 1 }

/-- Whether a scale-up port may leave Down: its island may be powered (R396). -/
def State.portPower (s : State) (p : Nat) : Bool := !s.masked (896 + p)

/-- Starts a scale-up port (R350). -/
def State.startPort (s : State) (p : Nat) : State :=
  if !s.portPower p then s
  else { s with links := s.links.modify p fun l => if l.state = .down then { state := .detect, attempts := 0, since := s.tick } else l }

/-- `LINK_TRAINING_DONE` (R387): the input's flag tells whether the host port trained, its value which CXL ports failed. The
scale-up ports that the image enables start (R350). -/
def execLinkTrainingDone (s : State) : Out :=
  s.event fun s inp =>
    if s.bootState ≠ 4 then s
    else if !inp.ok then { s with bootState := 15, bootErr := 2 }
    else
      let failed := (List.range 8).filter fun i => inp.val.getLsbD i
      let s := failed.foldl (init := s) fun s i =>
        ({ s with cxlUp := s.cxlUp &&& ~~~((1 : BitVec 8) <<< i) } : State).deviceEvent 6 i 0
      let ports := (List.range 96).filter fun p => s.portEn.getLsbD p && s.portsFitted.getLsbD p
      { ports.foldl (init := s) State.startPort with bootState := 5 }

/-- `FABRIC_PORTS_SETTLED` (R387): every enabled port is Up or Failed, and the module is Ready; what the capability registers
report is fixed (R398). -/
def execFabricPortsSettled (s : State) : Out :=
  s.event fun s _ =>
    let settled := (List.range 96).all fun p =>
      !(s.portEn.getLsbD p && s.portsFitted.getLsbD p) ||
      ((s.links[p]?).map fun l => l.state == .up || l.state == .failed).getD true
    if s.bootState = 5 && settled then { s with bootState := 6, cxlCap := ~~~s.cxlPeer &&& s.cxlUp } else s

end Sys2Proof.Machine
end

