-- ==== Sys2Proof/Machine/Mailbox.lean ====
section
/-! DEFINITION. The mailbox (R393, R394), attestation (R391, R392), the capability registers (R398), and the device and
management registers as the host reads and writes them (R385, R386). -/

namespace Sys2Proof.Machine

open Sys2Proof

/-! ### Commands (R393) -/

/-- A word of the running command's block. -/
def State.mbWord (s : State) (i : Nat) : Reg := s.mbBlock.toList.getD i 0

/-- The opcode of the running command. -/
def State.mbOp (s : State) : Nat := blockOp s.mbBlock

/-- The context or index of the running command. -/
def State.mbIndex (s : State) : Nat := (bf (s.mbWord 0) 16 16).toNat

/-- A command ends with a status code. -/
def State.mbEnd (s : State) (code : Nat) : State :=
  { s with mbSeq := s.mbSeq + 1, mbDone := true, mbCode := BitVec.ofNat 8 code }

/-- Whether the mailbox answers a command with busy (R387, R389): before Ready every command but IMAGE_LOAD, and a RESET of a
failed module (DEDUCED: notes/assumptions/71). -/
def State.mbBusy (s : State) (op : Nat) : Bool :=
  decide (s.bootState ≠ 6) && op ≠ 13 && !(op = 15 && decide (s.bootState = 15))

/-- Whether an opcode is that of a command (R393). -/
def knownOp (op : Nat) : Bool := decide (1 ≤ op ∧ op ≤ 15)

/-- A doorbell write (R393): while a command runs it is discarded and STATUS reads busy, as it does before Ready; else the
block is copied as it stands and its command starts. An unknown opcode ends at once with code 2. -/
def State.ring (s : State) : State :=
  if !s.mbDone then { s with mbCode := 1 }
  else if s.mbBusy (blockOp s.mailbox) then { s with mbCode := 1 }
  else if !knownOp (blockOp s.mailbox) then s.mbEnd 2
  else { s with mbBlock := s.mailbox, mbDone := false }

/-- The event of a command (R393): the running one, if a test picks its block, is carried out, or, with none running, a doorbell
write starts and carries out the one that the block holds; a command that the test does not pick is another event's
(DEDUCED: notes/assumptions/97). -/
def State.mailboxRun (s : State) (pick : Vector Reg 8 → Bool) (f : State → Input → State) : Out :=
  s.management fun s inp =>
    if s.stopped then s
    else if !s.mbDone then (if pick s.mbBlock then f s inp else s)
    else
      let t := s.ring
      if t.mbDone then t
      else if pick t.mbBlock then f t inp
      else s

/-- The event of the command of an opcode: what it does answers the machine and the code. -/
def State.mailboxDo (s : State) (op : Nat) (f : State → Input → State × Nat) : Out :=
  s.mailboxRun (fun b => blockOp b == op) fun s inp => let r := f s inp; r.1.mbEnd r.2

/-- Bytes that the module reads from the host, if the read succeeds (the input's flag). -/
def State.hostRead (s : State) (inp : Input) (a : Reg) (n : Nat) : Option (List Byte) :=
  if inp.ok then some (readBytes s.hostMem a.toNat n) else none

/-- A word of the bytes of a block. -/
def blockWord (b : List Byte) (i : Nat) : Reg := leReg ((b.drop (8 * i)).take 8)

/-- Whether the fields of a context block are within their limits (R394) (DEDUCED: notes/assumptions/73). -/
def contextBlockOk (b : List Byte) : Bool :=
  let w := blockWord b
  (w 0).toNat < 2 ^ 28 && bf (w 1) 0 11 = 0 && bf (w 1) 52 12 = 0 &&
  (w 4) &&& ~~~(0x7FF001F : Reg) = 0 && 6 ≤ (bf (w 4) 0 5).toNat && (bf (w 4) 0 5).toNat ≤ 16 &&
  16 ≤ (w 9).toNat && (w 9).toNat ≤ 32 && [10, 11, 12, 13, 14, 15].all fun i => w i = 0

/-- The context that a block describes, its management page at reset (R374, R379, R394). -/
def contextOf (c : Nat) (b : List Byte) : Context :=
  let w := blockWord b
  { id := c, pasid := (bf (w 0) 0 20).toNat, sliceGroup := (bf (w 0) 20 8).toNat, root := w 1, rcbBase := w 2, logBase := w 3,
    logSize := (bf (w 4) 0 5).toNat, logVector := (bf (w 4) 16 11).toNat, saveBase := w 5, saveSize := (w 6).toNat, saveUsed := 0,
    bindBase := w 7, commBase := w 8, fabricTimeout := 2 ^ (w 9).toNat, lazy := false, failed := false, hregion := 0,
    traceEn := false, brkEn := false, brkpc := Vector.replicate 4 0, dbgsel := 0, traceBase := 0, traceSize := 0, traceProd := 0,
    traceCons := 0, traceDropped := 0, sbase := 0, sctl := 10 <<< 3, sprod := 0, counters := [], sampled := none,
    attreq := 0, cevt := 0, gangLaunch := 0, flprod := 0, flcons := 0, fllost := 0, nextSeq := 0, service := 0 }

/-- `CTX_CREATE` (R393, R394). -/
def execCtxCreate (s : State) : Out :=
  s.mailboxDo 1 fun s inp =>
    let c := s.mbIndex
    if 1024 ≤ c || (s.ctx? c).isSome then (s, 3)
    else match s.hostRead inp (s.mbWord 1) 128 with
      | none => (s, 4)
      | some b => if contextBlockOk b then ({ s with ctxs := s.ctxs ++ [contextOf c b] }, 0) else (s, 3)

/-- `CTX_DESTROY` (R393): the context's work is killed without its signals, and its queues and its page are freed. The records of other
packages that wait for an instance of it are returned (R356). -/
def execCtxDestroy (s : State) : Out :=
  s.mailboxDo 2 fun s _ =>
    let c := s.mbIndex
    if (s.ctx? c).isNone then (s, 3)
    else
      let s := s.killContext c
      let gone := (s.remoteRecords.filter fun r => r.ctx == c).reverse
      ({ s with ctxs := s.ctxs.filter (fun x => x.id ≠ c), queues := s.queues.filter (fun q => q.2.ctx ≠ c),
                tlb := s.tlb.filter (fun t => t.ctx ≠ c), gangLeads := s.gangLeads.filter (fun g => g.ctx ≠ c),
                remoteRecords := s.remoteRecords.filter (fun r => r.ctx ≠ c),
                outbox := (gone.map fun r => Message.refusal r.pkg r.ctx r.node r.graphid) ++ s.outbox,
                collNext := s.collNext.filter (fun e => e.1.1 ≠ c) }, 0)

/-- Whether a context has failed (R339): it stays so until it is destroyed. -/
def State.ctxFailed (s : State) (c : Nat) : Bool := ((s.ctx? c).map Context.failed).getD false

/-- `QUEUE_SET` (R393, R287): sets up and enables a queue, or disables it, after which it takes no packets but goes on with those
it has copied. A queue of a context that has failed cannot be enabled (R339) (DEDUCED: notes/assumptions/74). -/
def execQueueSet (s : State) : Out :=
  s.mailboxDo 3 fun s _ =>
    let q := s.mbIndex
    let w := s.mbWord 1
    let c := (bf w 0 10).toNat
    if 4096 ≤ q || bf w 10 53 ≠ 0 || (s.ctx? c).isNone then (s, 3)
    else if w.getLsbD 63 then
      let n := (s.mbWord 3).toNat
      let t := (s.mbWord 4).toNat
      if n < 4 || 16 < n || t < 1 || 1024 < t || bf (s.mbWord 2) 0 6 ≠ 0 || s.ctxFailed c then (s, 3)
      else
        let x : HostQueue :=
          { ctx := c, enabled := true, base := s.mbWord 2, size := 2 ^ n, tickets := t, tail := 0, head := 0, buffer := [],
            pass := 0, eligible := false, blocked := false, stopped := false }
        ({ s with queues := (q, x) :: s.queues.filter fun e => e.1 ≠ q }, 0)
    else ({ s with queues := s.queues.map fun e => if e.1 = q then (e.1, { e.2 with enabled := false }) else e }, 0)

/-- The bytes that the engines have read and translated and not written are written (R347). -/
def State.landEngines (s : State) : State :=
  let s := (List.range s.cores.length).foldl (init := s) fun s i =>
    ((((s.core? i).map Core.copy).getD []).filter fun c => !c.afloat.isEmpty).foldl (init := s) fun s c =>
      (c.afloat.foldl (init := s) State.landByte).modCopy i c.order fun e => { e with afloat := [] }
  (List.range s.tambours.length).foldl (init := s) fun s i => match (s.tambours.getD i []).head? with
    | some c => s.settleLay i c
    | none => s

/-- `INVAL` (R347): drops a context's cached translations in a range from word 1 to word 2, or all of them, once every access
that used one has been performed at its home (DEDUCED: notes/assumptions/70). -/
def execInval (s : State) : Out :=
  s.mailboxDo 4 fun s _ =>
    let c := s.mbIndex
    if (s.ctx? c).isNone then (s, 3)
    else
      let all := (s.mbWord 3).getLsbD 0
      let lo := (s.mbWord 1).toNat
      let hi := (s.mbWord 2).toNat
      let s := ((s.wgs.filter fun w => w.ctx == c).map Workgroup.id).foldl (init := s.landEngines) State.drainAll
      ({ s with tlb := s.tlb.filter fun t => !(t.ctx == c && (all || (t.va ≤ hi && lo < t.va + 2 ^ t.size))) }, 0)

/-- `ROUTE_SET` (R350): writes one entry of the routing table. -/
def execRouteSet (s : State) : Out :=
  s.mailboxDo 5 fun s _ =>
    let p := s.mbIndex
    if 4096 ≤ p || bf (s.mbWord 2) 32 32 ≠ 0 then (s, 3)
    else
      let set : BitVec 96 := bf (s.mbWord 2) 0 32 ++ s.mbWord 1
      ({ s with routes := (p, set) :: s.routes.filter fun e => e.1 ≠ p }, 0)

/-- A PORT_CTL command (R350) with a given action; an action above 2, a port not fitted, or an action that the port's state does
not allow, is out of limits. A command with another legal action is that action's event. -/
def State.portCtl (s : State) (action : Nat) (f : State → Nat → Link → Option Link) : Out :=
  s.mailboxRun (fun b => blockOp b == 6 && (b[1].toNat == action || decide (2 < b[1].toNat))) fun s _ =>
    let p := s.mbIndex
    if 2 < (s.mbWord 1).toNat || 96 ≤ p || !s.portsFitted.getLsbD p then s.mbEnd 3
    else match (s.links[p]?).bind (f s p) with
      | none => s.mbEnd 3
      | some l => { s with links := s.links.set p l }.mbEnd 0

/-- `PORT_DISABLE` (R350): the port goes Down. -/
def execPortDisable (s : State) : Out :=
  s.portCtl 0 fun s _ _ => some { state := .down, attempts := 0, since := s.tick }

/-- `PORT_ENABLE` (R350): a port that is Down, and whose island may be powered (R396), starts to detect
(DEDUCED: notes/assumptions/30, 75). -/
def execPortEnable (s : State) : Out :=
  s.portCtl 1 fun s p l =>
    if l.state = .down && s.portPower p then some { state := .detect, attempts := 0, since := s.tick } else none

/-- `PORT_CLEAR_FAILED` (R350): a port that has failed goes Down. -/
def execPortClearFailed (s : State) : Out :=
  s.portCtl 2 fun s _ l => if l.state = .failed then some { state := .down, attempts := 0, since := s.tick } else none

/-- `PKG_SET` (R393): legal only while no context exists. -/
def execPkgSet (s : State) : Out :=
  s.mailboxDo 7 fun s _ =>
    let p := (s.mbWord 1).toNat
    if 4095 < p || !s.ctxs.isEmpty then (s, 3) else ({ s with pkg := p }, 0)

/-- `CXL_SET` (R369, R393): legal only while no context exists. -/
def execCxlSet (s : State) : Out :=
  s.mailboxDo 8 fun s _ =>
    let i := s.mbIndex
    let u := (s.mbWord 1).toNat
    if 8 ≤ i || 1 < u || !s.ctxs.isEmpty then (s, 3)
    else
      let m := (1 : BitVec 8) <<< i
      ({ s with cxlPeer := if u = 1 then s.cxlPeer ||| m else s.cxlPeer &&& ~~~m }, 0)

/-- `POWER_SET` (R396, R397). -/
def execPowerSet (s : State) : Out :=
  s.mailboxDo 9 fun s inp =>
    let l := (s.mbWord 1).toNat
    if l < 1200 || 3600 < l then (s, 3)
    else match s.hostRead inp (s.mbWord 2) 128 with
      | none => (s, 4)
      | some b =>
        let m := BitVec.ofNat 1024 (leNat b)
        let masked (i : Nat) : Nat := if s.masked (992 + i) then s.cxlMasked.toList.getD i 0 else s.nextId
        ({ s with powerLimit := l, islandMask := m, cxlMasked := Vector.ofFn fun i => masked i }, 0)

/-- A digest or a nonce in words 1 to 6 of the block. -/
def State.mbDigest (s : State) : List Byte := wordBytes ((List.range 6).map fun i => s.mbWord (i + 1))

/-- `MR_EXTEND` (R390). -/
def execMrExtend (s : State) : Out :=
  s.mailboxDo 10 fun s _ =>
    let d : BitVec 384 := BitVec.ofNat 384 (beNat s.mbDigest)
    match s.mbIndex with
    | 4 => (s.extend 4 d, 0)
    | 5 => (s.extend 5 d, 0)
    | 6 => (s.extend 6 d, 0)
    | 7 => (s.extend 7 d, 0)
    | _ => (s, 3)

/-- The report of R391, with the measurement registers as they stand (R392). -/
def State.report (s : State) (ctx : Nat) (nonce : List Byte) : State × List Byte :=
  let body := leBytes 4 1 ++ leBytes 4 s.bootCount.toNat ++ leBytes 8 s.tick ++ leBytes 2 ctx ++ leBytes 2 s.bootst.toNat ++
    List.replicate 44 (0 : Byte) ++ (nonce ++ List.replicate 48 (0 : Byte)).take 48 ++ s.mrs.toList.flatMap digestBytes ++
    List.replicate 48 (0 : Byte)
  ({ s with freeCtr := s.freeCtr + 1 }, body ++ deviceSignature body s.freeCtr)

/-- `ATTEST` (R391): the input's flag tells whether the write to the host succeeds. -/
def execAttest (s : State) : Out :=
  s.mailboxDo 11 fun s inp =>
    if !inp.ok then (s, 4)
    else
      let (s, r) := s.report 0xFFFF s.mbDigest
      ({ s with hostMem := writeBytes s.hostMem (s.mbWord 7).toNat r }, 0)

/-- `CERT_GET` (R393): writes the certificate chain into a buffer that can hold it (DEDUCED: notes/assumptions/76). -/
def execCertGet (s : State) : Out :=
  s.mailboxDo 12 fun s inp =>
    let n := Config.certificateLength ()
    if (s.mbWord 2).toNat < n then (s, 3)
    else if !inp.ok then (s, 4)
    else ({ s with hostMem := writeBytes s.hostMem (s.mbWord 1).toNat ((List.range n).map Config.certificate) }, 0)

/-- `IMAGE_LOAD` (R389): in Recovery, an image that passes the format check is staged, and boot goes on at Measure. -/
def execImageLoad (s : State) : Out :=
  s.mailboxDo 13 fun s inp =>
    if s.bootState ≠ 7 || Config.slotBytes < (s.mbWord 2).toNat then (s, 3)
    else match s.hostRead inp (s.mbWord 1) (s.mbWord 2).toNat with
      | none => (s, 4)
      | some b => if imageOk b then ({ s with staged := some b, bootRecovery := true, bootState := 1, bootErr := 0 }, 0) else (s, 3)

/-- `IMAGE_WRITE` (R393): an image that passes the format check replaces the slot's. -/
def execImageWrite (s : State) : Out :=
  s.mailboxDo 14 fun s inp =>
    if Config.slotBytes < (s.mbWord 2).toNat then (s, 3)
    else match s.hostRead inp (s.mbWord 1) (s.mbWord 2).toNat with
      | none => (s, 4)
      | some b => if imageOk b then ({ s with image := b }, 0) else (s, 3)

/-- `RESET` (R387, R393) (DEDUCED: notes/assumptions/72). -/
def execReset (s : State) : Out :=
  s.mailboxRun (fun b => blockOp b == 15) fun s _ => s.restarted

/-! ### Attestation for a context (R391) -/

/-- `ATTREQ_WRITE` (R391): requests a report; a second request while one is pending, or a misaligned buffer, is discarded with
the service error event. The input names the context and the buffer (DEDUCED: notes/assumptions/77). -/
def execAttreqWrite (s : State) : Out :=
  s.event fun s inp =>
    match s.ctx? inp.unit with
    | none => s
    | some c =>
      if c.attreq ≠ 0 || bf inp.val 0 6 ≠ 0 then s.serviceError inp.unit
      else s.modCtx inp.unit fun x => { x with attreq := inp.val }

/-- `ATTESTATION_REPORT_DONE` (R391): the report lands in the buffer, and ATTREQ reads 0. A buffer that cannot be reached gets
none, with the service error event. The input's unit is the context. -/
def execAttestationReportDone (s : State) : Out :=
  s.event fun s inp =>
    match s.ctx? inp.unit with
    | none => s
    | some c =>
      if c.attreq = 0 then s
      else
        let s := s.modCtx inp.unit fun x => { x with attreq := 0 }
        match s.readRun inp.unit c.attreq.toNat 48 with
        | (s, .error _) => s.serviceError inp.unit
        | (s, .ok nonce) =>
          let (s, r) := s.report inp.unit nonce
          match s.writeRun inp.unit (c.attreq.toNat + 64) r with
          | (s, .error _) => s.serviceError inp.unit
          | (s, .ok ()) => s

/-! ### Registers as the host reads them (R385, R386, R398) -/

/-- A capability register (R398), by its offset (DEDUCED: notes/assumptions/94). -/
def State.capability (s : State) (off : Nat) : Reg :=
  if off = 0x100 then 1 <<< 16
  else if off = 0x108 then BitVec.ofNat 64 s.hbmSize
  else if 0x110 ≤ off ∧ off < 0x150 then
    let i := (off - 0x110) / 8
    if !s.cxlCap.getLsbD i then 0 else BitVec.ofNat 64 (s.cxlSizes.toList.getD i 0)
  else if off = 0x150 then s.coresPresent.setWidth 64
  else if off = 0x158 then s.slicesInService.extractLsb' 0 64
  else if off = 0x160 then s.slicesInService.extractLsb' 64 64
  else if off = 0x168 then BitVec.ofNat 64 s.spillBytes
  else if off = 0x170 then s.portsFitted.extractLsb' 0 64
  else if off = 0x178 then (s.portsFitted.extractLsb' 64 32).setWidth 64
  else if 0x200 ≤ off ∧ off < 0x380 then BitVec.ofNat 64 (s.regBanks.toList.getD ((off - 0x200) / 8) 0)
  else 0

/-- A word of the mailbox's page (R393). -/
def State.mailboxRead (s : State) (off : Nat) : Reg :=
  if off < 0x40 then s.mailbox.toList.getD (off / 8) 0
  else if off = 0x40 then s.mbSeq ++ (0 : BitVec 23) ++ BitVec.ofBool s.mbDone ++ s.mbCode
  else 0

/-- A register of a context's management page (R386); those that are written only read 0. -/
def Context.register (c : Context) (off : Nat) : Reg :=
  if off = 0x800 then (0 : BitVec 24) ++ c.hregion ++ (0 : BitVec 13) ++ BitVec.ofBool c.traceEn ++ BitVec.ofBool c.brkEn ++ (0 : BitVec 1)
  else if 0x808 ≤ off ∧ off < 0x828 then c.brkpc.toList.getD ((off - 0x808) / 8) 0
  else if off = 0x828 then c.dbgsel
  else if off = 0x840 then c.traceBase
  else if off = 0x848 then c.traceSize
  else if off = 0x850 then c.traceProd
  else if off = 0x858 then c.traceCons
  else if off = 0x860 then c.sbase
  else if off = 0x868 then c.sctl
  else if off = 0x870 then c.sprod
  else if off = 0x900 then c.attreq
  else if off = 0x910 then c.cevt
  else if off = 0x928 then c.gangLaunch
  else if off = 0x930 then c.flprod
  else if off = 0x938 then c.flcons
  else if off = 0x940 then c.fllost
  else 0

/-- A 64-bit read of the device register space at an offset that is a multiple of 8 (R385). The power registers, of which the
spec gives no contents, answer a free value (DESIGN CHOICE: notes/assumptions/69; the offset of APBASE is DEDUCED: notes/assumptions/68). -/
def State.deviceRead (s : State) (off : Nat) : State × Reg :=
  if off = 0 then (s, s.bootst)
  else if 0x100 ≤ off ∧ off < 0x400 then (s, s.capability off)
  else if off = 0x1000 then (s, s.stopTick)
  else if off = 0x1008 then (s, (0 : BitVec 62) ++ BitVec.ofBool s.stopArmed ++ BitVec.ofBool s.stopped)
  else if off = 0x1010 then
    let e := match s.clkPending with | some e => (e.1, e.2.1) | none => (s.clkMode, s.clkPoint)
    (s, (0 : BitVec 51) ++ BitVec.ofNat 5 e.2 ++ (0 : BitVec 7) ++ BitVec.ofBool e.1)
  else if off = 0x1018 then (s, s.lockst)
  else if off = 0x2000 then (s, s.sampler0[0])
  else if off = 0x2008 then (s, s.sampler0[1])
  else if off = 0x2010 then (s, s.sampler0[2])
  else if 0x3000 ≤ off ∧ off < 0x3100 then s.draw
  else if 0x4000 ≤ off ∧ off < 0x4180 then (s, leReg (((s.mrs.toList.flatMap digestBytes).drop (off - 0x4000)).take 8))
  else if 0x5000 ≤ off ∧ off < 0x6000 then (s, (s.errCounters.lookup ((off - 0x5000) / 8)).getD 0)
  else if off = 0x6000 then (s, s.evBase)
  else if off = 0x6008 then (s, s.evProd)
  else if off = 0x6010 then (s, s.evCons)
  else if off = 0x6018 then (s, s.evCfg)
  else if off = 0x6020 then (s, s.apBase)
  else if 0x100000 ≤ off ∧ off < 0x100048 then (s, s.mailboxRead (off - 0x100000))
  else if 0x400000 ≤ off ∧ off < 0x800000 then
    (s, ((s.ctx? ((off - 0x400000) / 4096)).map fun c => c.register ((off - 0x400000) % 4096)).getD 0)
  else (s, 0)

/-! ### Registers as the host writes them -/

/-- A write of a register of a context's management page that has no event of its own (R386): reserved bits are discarded
(R5), and a trace ring size out of its limits is. -/
def Context.write (c : Context) (off : Nat) (v : Reg) : Context :=
  if off = 0x800 then { c with hregion := bf v 16 24, traceEn := v.getLsbD 2, brkEn := v.getLsbD 1 }
  else if 0x808 ≤ off ∧ off < 0x828 then { c with brkpc := c.brkpc.setIfInBounds ((off - 0x808) / 8) (v &&& 0xFFFFFFFFFFFFFD) }
  else if off = 0x828 then { c with dbgsel := v &&& 0xFFFFFFFFFFFFFF00 }
  else if off = 0x840 then { c with traceBase := v }
  else if off = 0x848 then (if 8 ≤ v.toNat && v.toNat ≤ 24 then { c with traceSize := v } else c)
  else if off = 0x850 then { c with traceProd := v }
  else if off = 0x858 then { c with traceCons := v }
  else if off = 0x860 then { c with sbase := v &&& 0xFFFFFFFFFFFFF000 }
  else if off = 0x870 then { c with sprod := v }
  else if off = 0x938 then { c with flcons := v }
  else c

/-- A 64-bit write of the device register space (R385); registers whose write is an event of its own are not changed here. -/
def State.deviceWrite (s : State) (off : Nat) (v : Reg) : State :=
  if off = 0x1010 then
    let p := (bf v 8 5).toNat
    if p ≤ Config.topPoint then { s with clkPending := some (v.getLsbD 0, p, s.tick) } else s
  else if off = 0x2000 then { s with sampler0 := #v[v &&& 0xFFFFFFFFFFFFF000, s.sampler0[1], s.sampler0[2]] }
  else if off = 0x2010 then { s with sampler0 := #v[s.sampler0[0], s.sampler0[1], v] }
  else if off = 0x6000 then { s with evBase := v &&& 0xFFFFFFFFFFFFF000 }
  else if off = 0x6010 then { s with evCons := v }
  else if off = 0x6018 then { s with evCfg := v &&& 0x7FF001F }
  else if off = 0x6020 then { s with apBase := v &&& 0xFFFFFFFF00000000 }
  else if s.stopped then s
  else if 0x100000 ≤ off ∧ off < 0x100040 then { s with mailbox := s.mailbox.setIfInBounds ((off - 0x100000) / 8) v }
  else if off = 0x100048 then s.ring
  else if 0x400000 ≤ off ∧ off < 0x800000 then s.modCtx ((off - 0x400000) / 4096) fun c => c.write ((off - 0x400000) % 4096) v
  else s

/-- `REGISTER_WRITE` (R385, R386): the input names the offset in BAR 0 and the value. -/
def execRegisterWrite (s : State) : Out :=
  s.management fun s inp => if inp.addr.toNat % 8 = 0 then s.deviceWrite inp.addr.toNat inp.val else s

end Sys2Proof.Machine
end

