-- ==== Sys2Proof/Machine/HostQ.lean ====
section
/-! DEFINITION. Host queues and their packets (R287 to R290), the checks of a launch and its start (R291 to R295), and host
completions that time out (R367). -/

namespace Sys2Proof.Machine

open Sys2Proof

/-! ### Doorbells (R287) -/

/-- The free slots of a queue's private buffer (R287). -/
def HostQueue.credit (q : HostQueue) : Nat := 32 - q.buffer.length

/-- A queue's doorbell page as the host reads it (R366): TAIL reads 0. -/
def HostQueue.register (q : HostQueue) (off : Nat) : Reg :=
  if off = 8 then BitVec.ofNat 64 q.head else if off = 16 then BitVec.ofNat 64 q.credit else 0

/-- A byte that the command processor reads for a context (R279, R385): of a device register, or of memory. -/
def State.fetchByte (s : State) (c va : Nat) : State × Except Trap (List Byte) :=
  match s.registerAt c va .read with
  | some off =>
    let (s, v) := s.deviceRead (off / 8 * 8)
    (s, .ok [v.extractLsb' (8 * (off % 8)) 8])
  | none => s.loadGlobal ⟨c, none⟩ {} (BitVec.ofNat 64 va) 1 0

/-- A run of bytes that the command processor reads for a context; the first byte that fails ends it. -/
def State.fetchBytes (s : State) (c va : Nat) : Nat → State × Except Trap (List Byte)
  | 0 => (s, .ok [])
  | n + 1 =>
    match s.fetchByte c va with
    | (s, .error t) => (s, .error t)
    | (s, .ok b) =>
      match s.fetchBytes c (va + 1) n with
      | (s, .error t) => (s, .error t)
      | (s, .ok bs) => (s, .ok (b ++ bs))

/-- Copies packets of a ring; a packet whose memory cannot be read ends the copy. -/
def State.copyPackets (c : Nat) (q : HostQueue) : List Nat → State → State × Option (List (List Byte))
  | [], s => (s, some [])
  | k :: t, s =>
    match s.fetchBytes c (q.base.toNat + 64 * (k % q.size)) 64 with
    | (s, .error _) => (s, none)
    | (s, .ok b) => match State.copyPackets c q t s with
      | (s, some l) => (s, some (b :: l))
      | (s, none) => (s, none)

/-- The overrun error event of a queue (R395) (DEDUCED: notes/assumptions/80). -/
def State.queueOverrun (s : State) (c n : Nat) : State :=
  s.modCtx c fun x => { x with cevt := (x.cevt &&& ~~~(0xFFF0000 : Reg)) ||| 4 ||| BitVec.ofNat 64 (n % 4096 * 65536) }

/-- `TAIL_WRITE` (R287): the input names the queue and the value. Before Ready every doorbell write is discarded (R387). A
ring that cannot be read has none of its packets copied, with the service error event. -/
def execTailWrite (s : State) : Out :=
  s.event fun s inp =>
    if s.bootState ≠ 6 then s
    else match s.queues.lookup inp.unit with
      | none => s.deviceEvent 1 inp.unit 0
      | some q =>
        if !q.enabled || q.stopped then s.deviceEvent 1 inp.unit 0
        else
          let t := inp.val.toNat % 2 ^ 32
          let n := (t + 2 ^ 32 - q.tail) % 2 ^ 32
          if q.credit < n || q.size < n then s.queueOverrun q.ctx inp.unit
          else match State.copyPackets q.ctx q ((List.range n).map fun i => (q.tail + i) % 2 ^ 32) s with
            | (s, none) => s.serviceError q.ctx
            | (s, some l) => (s.modQueue inp.unit fun x => { x with tail := t, buffer := x.buffer ++ l }).noteEligible

/-! ### Dispatch (R290) -/

/-- A queue's effective tickets (R290): its own and those lent to it by queues blocked in a wait packet, capped at 4,096. -/
def State.effectiveTickets (s : State) (n : Nat) (q : HostQueue) : Nat :=
  min 4096 ((s.queues.filter fun e => e.1 ≠ n && e.2.blocked && (match e.2.word0 with
    | some w => w.getLsbD 43 && (bf w 44 12).toNat = n
    | none => false)).foldl (init := q.tickets) fun t e => t + e.2.tickets)

/-- Whether a queue is served before another: the lower pass, then the lower number. -/
def servedBefore (a b : Nat × HostQueue) : Bool := a.2.pass < b.2.pass || (a.2.pass = b.2.pass && a.1 < b.1)

/-- The eligible queue that is served next (R290). -/
def State.nextQueue (s : State) : Option (Nat × HostQueue) :=
  s.queues.foldl (init := none) fun best e =>
    if !s.eligible e.1 e.2 then best
    else match best with
      | none => some e
      | some b => if servedBefore e b then some e else best

/-- Dispatches the next packet of a queue when it is the one served next and its packet is of a type that a test picks: the
machine with the queue's pass raised, the queue, the packet's words (DEDUCED: notes/assumptions/78). -/
def State.dispatch (s : State) (n : Nat) (pick : Nat → Bool) (f : State → HostQueue → List Byte → State) : State :=
  let s := s.noteEligible
  match s.nextQueue with
  | none => s
  | some (m, q) => match q.buffer.head? with
    | none => s
    | some b =>
      if m ≠ n || !pick (packetType (blockWord b 0)) then s
      else
        let step := 1048576 / s.effectiveTickets n q
        (f (s.modQueue n fun x => { x with pass := x.pass + step }) q b).noteEligible

/-- Whether the fields that a packet's type does not use are zero (R288): a mask of word 0 and the words used. -/
def packetFields (b : List Byte) (mask : Reg) (words : List Nat) : Bool :=
  blockWord b 0 &&& ~~~mask = 0 && [1, 2, 3, 4, 5, 6, 7].all fun i => words.contains i || blockWord b i = 0

/-- Whether a FSCOPE is one of the graph-end scopes (R288). -/
def fscopeOk (b : List Byte) : Bool := let f := (bf (blockWord b 0) 56 3).toNat; 3 ≤ f && f ≤ 5

/-- A rejected nop, wait or signal packet (R288). -/
def State.rejectPacket (s : State) (n : Nat) (q : HostQueue) : State := (s.serviceError q.ctx).packetDone n

/-- `NOP_PACKET` (R288, R289): the input's unit is the queue. -/
def execNopPacket (s : State) : Out :=
  s.event fun s inp => s.dispatch inp.unit (· = 0) fun s q b =>
    if packetFields b 0xF800000000000000 [] then s.packetDone inp.unit else s.rejectPacket inp.unit q

/-- `RESERVED_TYPE_PACKET` (R288). -/
def execReservedTypePacket (s : State) : Out :=
  s.event fun s inp => s.dispatch inp.unit (4 ≤ ·) fun s q _ => s.rejectPacket inp.unit q

/-- Whether the word that a wait packet waits on has reached its value (R289); a word that cannot be read has not. -/
def State.waitMet (s : State) (c : Nat) (b : List Byte) : State × Bool :=
  match s.fetchBytes c (blockWord b 3).toNat 8 with
  | (s, .ok v) => (s, decide ((blockWord b 4).toNat ≤ leNat v))
  | (s, .error _) => (s, false)

/-- `WAIT_PACKET` (R288, R289): the packet completes, or holds its queue. -/
def execWaitPacket (s : State) : Out :=
  s.event fun s inp => s.dispatch inp.unit (· = 2) fun s q b =>
    let w := blockWord b 0
    let ok := packetFields b 0xF8FFF80000000000 [3, 4] && bf (blockWord b 3) 0 3 = 0 && (w.getLsbD 43 || bf w 44 12 = 0)
    if !ok then s.rejectPacket inp.unit q
    else match s.waitMet q.ctx b with
      | (s, true) => s.packetDone inp.unit
      | (s, false) => s.modQueue inp.unit fun x => { x with blocked := true }

/-- `WAIT_PACKET_RECHECK` (R289): the word that a queue waits on is read again. The input's unit is the queue. -/
def execWaitPacketRecheck (s : State) : Out :=
  s.event fun s inp =>
    match s.queues.lookup inp.unit with
    | none => s
    | some q =>
      if !q.blocked then s
      else match q.buffer.head? with
        | none => s
        | some b => match s.waitMet q.ctx b with
          | (s, true) => (s.packetDone inp.unit).noteEligible
          | (s, false) => s

/-- `SIGNAL_PACKET` (R288, R289): every earlier graph of the queue has ended, and the value is stored
(DEDUCED: notes/assumptions/79). -/
def execSignalPacket (s : State) : Out :=
  s.event fun s inp => s.dispatch inp.unit (· = 3) fun s q b =>
    if packetFields b 0xFF00000000000000 [3, 4] && fscopeOk b && bf (blockWord b 3) 0 3 = 0 then
      (s.reportStore q.ctx (blockWord b 3) (blockWord b 4)).packetDone inp.unit
    else s.rejectPacket inp.unit q

/-! ### Descriptors (R291 to R293) -/

/-- An out-port entry (R293). -/
def portOf (e : Reg) : Port :=
  { valid := e.getLsbD 63, remote := e.getLsbD 62, compl := e.getLsbD 61, pkg := (bf e 49 12).toNat, node := (bf e 37 12).toNat,
    rdepth := (bf e 29 8).toNat }

/-- The words of a role (R293). -/
def roleOf (e g : Reg) : Role :=
  { entry := bf e 0 56, regs := (bf g 12 7).toNat, groups := (bf g 8 4).toNat + 1, threads := (bf g 0 7).toNat + 1 }

/-- Whether the words of a role are legal. -/
def roleOk (e g : Reg) : Bool :=
  bf e 56 8 = 0 && bf e 0 2 = 0 && bf g 19 45 = 0 && !g.getLsbD 7 && 8 ≤ (bf g 12 7).toNat && (bf g 12 7).toNat ≤ 64

/-- The kind of a node. -/
def kindOf (w : Reg) : NodeKind := match (bf w 62 2).toNat with | 1 => .copy | 2 => .join | _ => .program

/-- A node descriptor (R292) from its words. -/
def nodeOf (w : Nat → Reg) : NodeDesc :=
  let a := w 0
  let b := w 1
  let roles := (bf a 60 2).toNat + 1
  { kind := kindOf a, clust := (bf a 58 2).toNat + 1, final := a.getLsbD 57, gather := (bf a 55 2).toNat, home := (bf a 53 2).toNat,
    rsize := (bf a 50 3).toNat, imode := bf a 48 2, depth := (bf a 40 8).toNat, tiles := (bf a 36 4).toNat,
    tables := (bf a 32 4).toNat, regq := (bf a 27 5).toNat, spadq := (bf a 22 5).toNat, l1q := (bf a 17 5).toNat,
    exch := (bf a 12 5).toNat, rcb := (bf b 48 16).toNat, per := (bf b 38 10).toNat + 1, timer := (bf b 0 32).toNat,
    cap := (bf (w 2) 32 32).toNat, min := (bf (w 2) 0 32).toNat,
    ports := (List.range 8).map fun i => portOf (w (4 + i)),
    roles := if kindOf a = .program then (List.range roles).map fun i => roleOf (w (12 + 2 * i)) (w (13 + 2 * i)) else [],
    body := if kindOf a = .copy then (List.range 6).map fun i => w (12 + i) else [] }

/-- The register quires that a program node's threads need (R37). -/
def NodeDesc.regNeed (d : NodeDesc) : Nat :=
  ((d.roles.foldl (init := 0) fun n r => n + r.groups * r.threads * (8 * r.regs + 160)) + Config.quire - 1) / Config.quire

/-- The limits of a program node (R13, R37, R40, R292). -/
def NodeDesc.programOk (d : NodeDesc) : Bool :=
  1 ≤ d.regq && d.regq ≤ 30 && d.spadq ≤ 24 && 2 ≤ d.l1q && d.exch ≤ d.spadq / 2 && d.quires ≤ 32 &&
  d.groupThreads.length ≤ 16 && (d.groupThreads.foldl (init := 0) (· + ·)) ≤ 2048 && d.regNeed ≤ d.regq

/-- The limits of a copy or a join node: zero in every split, tile, table, IMODE and role field (R292). -/
def NodeDesc.plainOk (d : NodeDesc) (a : Reg) : Bool :=
  d.clust = 1 && bf a 60 2 = 0 && d.imode = 0 && d.tiles = 0 && d.tables = 0 && d.regq = 0 && d.spadq = 0 && d.l1q = 0 && d.exch = 0

/-- Whether a node descriptor is legal in a graph of a number of nodes (R292, R293, R294 check 4)
(DEDUCED: notes/assumptions/81). -/
def nodeOk (w : Nat → Reg) (count : Nat) : Bool :=
  let d := nodeOf w
  let a := w 0
  let zero (l : List Nat) : Bool := l.all fun i => w i = 0
  (bf a 62 2).toNat ≤ 2 && d.gather ≤ 2 && d.rsize ≤ 4 && d.imode.toNat ≤ 2 && d.tiles ≤ 8 && d.tables ≤ 8 &&
  bf a 0 12 = 0 && bf (w 1) 32 6 = 0 && zero [3, 20, 21, 22, 23, 24, 25, 26, 27, 28, 29, 30, 31] &&
  (d.timer ≠ 0) == (d.gather = 2) &&
  (List.range 8).all (fun i =>
    bf (w (4 + i)) 0 29 = 0 && ((d.ports[i]?).map fun p => !p.valid || p.remote || decide (p.node < count)).getD true) &&
  (match d.kind with
   | .join => d.cap = 0 && 1 ≤ d.min && d.plainOk a && zero [12, 13, 14, 15, 16, 17, 18, 19]
   | .copy => d.per + 1 ≤ d.cap && d.min ≤ d.cap && d.plainOk a && zero [18, 19]
   | .program =>
     d.per + 1 ≤ d.cap && d.min ≤ d.cap && d.programOk &&
     (List.range 4).all fun i =>
       if i < d.roles.length then roleOk (w (12 + 2 * i)) (w (13 + 2 * i)) else zero [12 + 2 * i, 13 + 2 * i])

/-! ### Region control blocks (R295) -/

/-- Whether a region control block is legal. -/
def rcbOk (w : Nat → Reg) : Bool :=
  bf (w 0) 12 27 = 0 && bf (w 0) 0 3 = 0 && (bf (w 0) 5 3).toNat ≤ 5 && (bf (w 0) 3 2).toNat ≤ 2 && bf (w 1) 0 16 = 0 &&
  w 4 = 0 && w 5 = 0 && w 6 = 0 && bf (w 7) 32 32 = 0

/-- The parent that a block names: none for a root. -/
def rcbParent (w : Nat → Reg) : Option Nat := if bf (w 0) 48 16 = 0xFFFF then none else some (bf (w 0) 48 16).toNat

/-- The blocks read so far, by region index. -/
abbrev Rcbs := List (Nat × List Byte)

/-- Reads a region's block and those of its ancestors, within 8 levels. -/
def State.readChain (c : Nat) (base : Nat) : Nat → Nat → Rcbs → State → State × Option Rcbs
  | 0, _, l, s => (s, some l)
  | k + 1, r, l, s =>
    match (match l.lookup r with
           | some b => (s, Except.ok b)
           | none => s.fetchBytes c (base + 64 * r) 64 : State × Except Trap (List Byte)) with
    | (s, .error _) => (s, none)
    | (s, .ok b) =>
      let l := if (l.lookup r).isSome then l else (r, b) :: l
      match rcbParent (blockWord b) with
      | none => (s, some l)
      | some p => State.readChain c base k p l s

/-- Reads the blocks of several regions. -/
def State.readChains (c base : Nat) : List Nat → Rcbs → State → State × Option Rcbs
  | [], l, s => (s, some l)
  | r :: t, l, s =>
    match State.readChain c base 8 r l s with
    | (s, none) => (s, none)
    | (s, some l) => State.readChains c base t l s

/-- Whether a region's chain is legal: every block legal, a root within 8 levels (a cycle has none). -/
def chainOk (l : Rcbs) : Nat → Nat → Bool
  | 0, _ => false
  | k + 1, r =>
    match l.lookup r with
    | none => false
    | some b => rcbOk (blockWord b) && (match rcbParent (blockWord b) with | none => true | some p => chainOk l k p)

/-- The context defaults (R15). -/
def regionDefault : Region :=
  { index := 0, parent := none, wgs := none, quires := none, tiles := none, rsbytes := none, prio := 0, policy := 0, preempt := 0,
    timeout := 0, seed := 0 }

/-- A region's values: a field that is unset takes its parent's, at a root the context default (R15). -/
def regionValues (l : Rcbs) : Nat → Nat → Region
  | 0, r => { regionDefault with index := r }
  | k + 1, r =>
    match l.lookup r with
    | none => { regionDefault with index := r }
    | some b =>
      let w := blockWord b
      let up : Region := match rcbParent w with | none => regionDefault | some p => regionValues l k p
      let set (bit : Nat) : Bool := (w 0).getLsbD bit
      { index := r, parent := rcbParent w,
        wgs := if set 47 then some (bf (w 1) 48 16).toNat else up.wgs,
        quires := if set 46 then some (bf (w 1) 32 16).toNat else up.quires,
        rsbytes := if set 45 then some (w 2).toNat else up.rsbytes,
        tiles := if set 44 then some (bf (w 1) 16 16).toNat else up.tiles,
        prio := if set 43 then (bf (w 0) 8 4).toNat else up.prio,
        policy := if set 42 then (bf (w 0) 5 3).toNat else up.policy,
        timeout := if set 41 then (bf (w 3) 32 32).toNat else up.timeout,
        preempt := if set 40 then (bf (w 0) 3 2).toNat else up.preempt,
        seed := if set 39 then bf (w 3) 0 32 else up.seed }

/-! ### The checks of a launch (R294) -/

/-- The fields of a launch packet (R288). -/
structure Launch where
  fscope : Nat
  entry : Nat
  nrec : Nat
  graph : Reg
  recaddr : Reg
  sigaddr : Reg
  sigval : Reg
  stataddr : Reg
  deriving DecidableEq, Repr

/-- The launch packet that bytes hold. -/
def launchOfPacket (b : List Byte) : Launch :=
  let w := blockWord b 0
  { fscope := (bf w 56 3).toNat, entry := (bf w 44 12).toNat, nrec := (bf w 0 20).toNat + 1, graph := blockWord b 1,
    recaddr := blockWord b 2, sigaddr := blockWord b 3, sigval := blockWord b 4, stataddr := blockWord b 5 }

/-- Check 1 (R288). -/
def launchFieldsOk (b : List Byte) : Bool :=
  packetFields b 0xFFFFF000000FFFFF [1, 2, 3, 4, 5] && fscopeOk b &&
  bf (blockWord b 1) 0 6 = 0 && bf (blockWord b 2) 0 4 = 0 && bf (blockWord b 3) 0 3 = 0 && bf (blockWord b 5) 0 3 = 0

/-- Reads a run for the command processor; an address beyond the virtual address space fails as a translation does. -/
def State.fetchRun (s : State) (c : Nat) (a : Reg) (n : Nat) : State × Except Trap (List Byte) :=
  if 2 ^ 56 < a.toNat + n then (s, .error (translationTrap .notPresent a .read 0)) else s.fetchBytes c a.toNat n

/-- An empty core as its capability register gives it (R294 check 6). -/
def State.bareRoom (s : State) (c : Nat) : Room :=
  { quires := 32, tiles := 8, tables := 8, slots := s.regBanks.toList.getD c 0, taken := [], dark := [] }

/-- Whether a program node fits empty cores of its home die (R294 check 6). -/
def State.nodeFits (s : State) (d : NodeDesc) : Bool :=
  d.kind ≠ .program ||
  (chooseSpots d.clust ((dieCores d.home).filterMap fun c =>
    if s.coresPresent.getLsbD c then ((s.bareRoom c).fits d.need (0, 0, 0)).map fun p => { core := c, free := 32, plan := p }
    else none)).isSome

/-- The minimum chunks that nodes take of a die's pool. -/
def minChunks (ds : List NodeDesc) (die : Nat) : Nat :=
  (ds.filter fun d => d.home = die).foldl (init := 0) fun n d => n + d.reserveChunks

/-- What a graph is made of once its checks have passed. -/
structure Checked where
  graphid : BitVec 32
  nodes : List NodeDesc
  regions : List Region
  records : List (List Byte)
  deriving DecidableEq, Repr

/-- Checks 2 to 6 of R294, in their order: the code of the first that fails, or the graph (DEDUCED: notes/assumptions/82). -/
def State.checkGraph (s : State) (c : Nat) (l : Launch) : State × Except Nat Checked :=
  match s.fetchRun c l.graph 64 with
  | (s, .error _) => (s, .error 2)
  | (s, .ok hdr) =>
    let count := (bf (blockWord hdr 0) 52 12).toNat + 1
    match s.fetchRun c (l.graph + 64) (256 * count) with
    | (s, .error _) => (s, .error 2)
    | (s, .ok body) =>
      let words (i : Nat) : Nat → Reg := blockWord ((body.drop (256 * i)).take 256)
      let ns := List.range count
      let named := (ns.map fun i => (bf (words i 1) 48 16).toNat).eraseDups
      match State.readChains c (((s.ctx? c).map fun x => x.rcbBase.toNat).getD 0) named [] s with
      | (s, none) => (s, .error 2)
      | (s, some rcbs) =>
        if bf (blockWord hdr 0) 32 20 ≠ 0 || !([1, 2, 3, 4, 5, 6, 7].all fun i => blockWord hdr i = 0) || count ≤ l.entry then
          (s, .error 3)
        else if !nodeOk (words l.entry) count then (s, .error 4)
        else
          let size := recordBytes (nodeOf (words l.entry)).rsize
          match s.fetchRun c l.recaddr (l.nrec * size) with
          | (s, .error _) => (s, .error 2)
          | (s, .ok rs) =>
            if !(ns.all fun i => nodeOk (words i) count) then (s, .error 4)
            else if !(named.all fun r => chainOk rcbs 8 r) then (s, .error 5)
            else
              let ds := ns.map fun i => nodeOf (words i)
              if !(ds.all s.nodeFits) ||
                 !((List.range 4).all fun d => s.poolUsed.getD d 0 + minChunks ds d ≤ Config.chunks) then (s, .error 6)
              else
                let all := (rcbs.map Prod.fst).eraseDups
                (s, .ok { graphid := bf (blockWord hdr 0) 0 32, nodes := ds, regions := all.map fun r => regionValues rcbs 8 r,
                          records := (List.range l.nrec).map fun i => (rs.drop (size * i)).take size })

/-- A node at its graph's launch. -/
def Node.fresh (d : NodeDesc) : Node :=
  { desc := d, queue := [], waiting := [], chunks := [], nextChunk := 0, launches := 0, finalClosed := false, candidateSince := none,
    timerDue := false, killed := false, joinLeft := if d.kind = .join then d.min else 0, joinDepth := 0, fired := false, held := [],
    copyLaunches := [] }

/-- Makes an instance of a graph, which holds its minimum chunks (R297); its number is the answer. The host's records are
enqueued when it feeds. -/
def State.makeGraph (s : State) (c queue : Nat) (l : Launch) (k : Checked) (feeding : Bool) : State × Nat :=
  let g : Graph :=
    { id := s.nextId, ctx := c, queue := queue, graphid := k.graphid, entry := l.entry, nodes := k.nodes.map Node.fresh,
      regions := k.regions, hostLeft := k.records, feeding := feeding, fscope := l.fscope, sigaddr := l.sigaddr, sigval := l.sigval,
      stataddr := l.stataddr, faults := 0, overflow := 0, stranded := 0, remoteOut := [], credits := [], stalls := [] }
  ({ s with nextId := s.nextId + 1, graphs := s.graphs ++ [g],
            poolUsed := (List.range 4).map fun d => s.poolUsed.getD d 0 + minChunks k.nodes d }, s.nextId)

/-! ### Remote records (R355, R356) -/

/-- Whether an instance runs: one that a strict gang launch has prepared does not, before the commit (R364). -/
def State.instanceRuns (s : State) (g : Graph) : Bool :=
  !(s.gangMembers.any fun m => m.graph == some g.id && !m.eager && m.decision.isNone)

/-- The running instance of a GRAPHID in a context. -/
def State.instanceOf (s : State) (c : Nat) (graphid : BitVec 32) : Option Graph :=
  s.graphs.find? fun g => g.ctx == c && g.graphid == graphid && s.instanceRuns g

/-- A remote record enters the instance it was sent to, or waits there (R355): the credit returns once it is admitted. A node
that the graph does not have refuses it. -/
def State.remoteEnters (s : State) (g : Graph) (r : RemoteRecord) : State :=
  match s.node? g.id r.node with
  | none => { s with outbox := .refusal r.pkg r.ctx r.node r.graphid :: s.outbox }
  | some nd =>
    let b := (r.bytes ++ List.replicate 128 (0 : Byte)).take (recordBytes nd.desc.rsize)
    match s.arrive (s.joinFuel g.id) g.id r.node b r.depth (.remote r.pkg) with
    | (s, true) => s
    | (s, false) => { s with outbox := .credit r.pkg r.ctx r.node r.graphid :: s.outbox }.noteCandidates g.id

/-- The remote records that waited for an instance enter it as it starts (R356). -/
def State.admitRemote (s : State) (g : Nat) : State :=
  match s.graph? g with
  | none => s
  | some gr =>
    let mine (r : RemoteRecord) : Bool := r.ctx == gr.ctx && r.graphid == gr.graphid
    let rs := s.remoteRecords.filter mine
    let s : State := { s with remoteRecords := s.remoteRecords.filter fun r => !mine r }
    rs.foldl (init := s) fun s r => s.remoteEnters gr r

/-! ### Launch packets (R294) -/

/-- A rejected launch packet stores its code and its signal (R294, R310). -/
def State.rejectLaunch (s : State) (c : Nat) (l : Launch) (code : Nat) : State :=
  (s.reportStore c l.stataddr (statusWord code 0 0 0)).reportStore c l.sigaddr l.sigval

/-- `LAUNCH_PACKET` (R288, R289, R294): the packet is checked, and its graph starts or is rejected. The input's unit is the
queue; its flag is false when an uncorrectable error is met as the context's tables and descriptors are read, which is a
context machine check (R339). -/
def execLaunchPacket (s : State) : Out :=
  s.event fun s inp => s.dispatch inp.unit (· = 1) fun s q b =>
    let l := launchOfPacket b
    if !inp.ok then s.contextMachineCheck q.ctx
    else if !launchFieldsOk b then (s.rejectLaunch q.ctx l 1).packetDone inp.unit
    else match s.checkGraph q.ctx l with
      | (s, .error code) => (s.rejectLaunch q.ctx l code).packetDone inp.unit
      | (s, .ok k) =>
        let (s, g) := s.makeGraph q.ctx inp.unit l k true
        (s.hostFeed g).admitRemote g

/-! ### The host's window (R367) -/

/-- `HOST_COMPLETION_TIMEOUT` (R367): the host does not answer the access to its window that comes next, which ends with the
machine-check fault. -/
def execHostCompletionTimeout (s : State) : Out := s.event fun s _ => { s with hostFails := s.hostFails + 1 }

end Sys2Proof.Machine
end

