-- ==== Sys2Proof/Machine/Fabric.lean ====
section
/-! DEFINITION. The fabric: scale-up links (R350), requests and records of other packages (R349, R353 to R356), gang
launches over several packages (R362 to R365), and the host's accesses through BAR 4 (R368, R385). -/

namespace Sys2Proof.Machine

open Sys2Proof

/-! ### Links (R350) -/

/-- A port passes to another state. -/
def State.setLink (s : State) (p : Nat) (st : LinkState) (attempts : Nat) : State :=
  { s with links := s.links.modify p fun _ => { state := st, attempts := attempts, since := s.tick } }

/-- A port fails, with its device event. -/
def State.failLink (s : State) (p attempts : Nat) : State := (s.setLink p .failed attempts).deviceEvent 2 p 0

/-- What a port in a state does. -/
def State.linkIn (s : State) (p : Nat) (st : LinkState) (f : Link → State) : State :=
  match s.links[p]? with
  | none => s
  | some l => if l.state = st then f l else s

/-- `LINK_PARTNER_DETECTED`: the input's unit is the port, here and below. -/
def execLinkPartnerDetected (s : State) : Out :=
  s.event fun s inp => s.linkIn inp.unit .detect fun _ => s.setLink inp.unit .train 0

/-- `LINK_DETECT_TIMEOUT`. -/
def execLinkDetectTimeout (s : State) : Out :=
  s.event fun s inp => s.linkIn inp.unit .detect fun l =>
    if l.since + 2 ^ 24 ≤ s.tick then s.failLink inp.unit 0 else s

/-- `LINK_TRAIN_DONE`: the input's flag tells whether the attempt succeeded. -/
def execLinkTrainDone (s : State) : Out :=
  s.event fun s inp => s.linkIn inp.unit .train fun l =>
    if inp.ok then s.setLink inp.unit .verify 0
    else if l.attempts + 1 < 3 then s.setLink inp.unit .train (l.attempts + 1)
    else s.failLink inp.unit (l.attempts + 1)

/-- `LINK_VERIFY_DONE`: the input's second number is the partner's package, its flag whether no flit failed its CRC. The
partner matches when the routing table sends traffic for its package to this port (DEDUCED: notes/assumptions/90). -/
def execLinkVerifyDone (s : State) : Out :=
  s.event fun s inp => s.linkIn inp.unit .verify fun _ =>
    if inp.ok && ((s.routes.lookup inp.sub).getD 0).getLsbD inp.unit then s.setLink inp.unit .up 0
    else s.failLink inp.unit 0

/-- `LINK_RETRAIN`: the retry rate of a port that is Up is exceeded. -/
def execLinkRetrain (s : State) : Out :=
  s.event fun s inp => s.linkIn inp.unit .up fun _ => s.setLink inp.unit .train 0

/-! ### Requests of other packages (R349, R353, R354) -/

/-- `UNSUPPORTED_REQUEST` (R349): the input's unit is the package that sent it. -/
def execUnsupportedRequest (s : State) : Out :=
  s.event fun s inp => { s with unsupported := s.unsupported + 1, outbox := .error inp.unit :: s.outbox }

/-- The bytes of an atomic operation of R147. -/
def atomicBytes (op : Nat) : Nat :=
  if op < 12 then (if op % 4 < 2 then 4 else 8) else if op < 22 then (if op % 2 = 0 then 4 else 8) else 4

/-- The new value of an atomic operation of R147, by its OP. -/
def atomicNew (op old b c : Nat) : Nat :=
  let w := 8 * atomicBytes op
  let signed := op % 2 = 0
  if op < 4 then old + b
  else if op < 8 then pick w false signed old b
  else if op < 12 then pick w true signed old b
  else if op < 14 then old &&& b
  else if op < 16 then old ||| b
  else if op < 18 then old ^^^ b
  else if op < 20 then b
  else if op < 22 then (if old = b then c else old)
  else if op = 22 then atomicFadd old b c
  else if op < 25 then atomicFpick (op = 24) old b c
  else if op = 25 then atomicIncb old b c
  else atomicDecb old b c

/-- Reads bytes through a context's admitted window. -/
def State.remoteRead (x pkg c : Nat) : Nat → Nat → State → State × Except Cause (List Byte)
  | _, 0, s => (s, .ok [])
  | off, n + 1, s =>
    match s.admitAccess x pkg c off .read with
    | (s, .error e) => (s, .error e)
    | (s, .ok pa) =>
      let s := s.recall pa 1
      let b := s.readMem pa 1
      match State.remoteRead x pkg c (off + 1) n s with
      | (s, .error e) => (s, .error e)
      | (s, .ok bs) => (s, .ok (b ++ bs))

/-- Writes bytes through a context's admitted window, at the home slice (R354). -/
def State.remoteWrite (x pkg c : Nat) : Nat → List Byte → State → State × Except Cause (List Byte)
  | _, [], s => (s, .ok [])
  | off, b :: bs, s =>
    match s.admitAccess x pkg c off .write with
    | (s, .error e) => (s, .error e)
    | (s, .ok pa) => State.remoteWrite x pkg c (off + 1) bs (s.writeHome none pa [b])

/-- An atomic operation through a context's admitted window, performed once at the home slice (R148, R354). -/
def State.remoteAtomic (s : State) (x pkg c off op b d : Nat) : State × Except Cause (List Byte) :=
  let n := atomicBytes op
  match s.admitAccess x pkg c off .modify with
  | (s, .error e) => (s, .error e)
  | (s, .ok pa) =>
    let s := s.recall pa n
    let old := s.readMem pa n
    (s.writeHome none pa (leBytes n (atomicNew op (leNat old) (b % 2 ^ (8 * n)) (d % 2 ^ (8 * n)))), .ok old)

/-- `REMOTE_ACCESS_ARRIVAL` (R353, R354): a request of another package is admitted and performed, and answered. The input's
unit is the context here, its second number the package it comes from, its thread number the context there; its address is
the offset. Its workgroup number is 0 for a read, of as many bytes as its group number says; 1 for a write of its data; 2
plus the OP of R147 for an atomic, with its value as operand and its data as the fourth operand. -/
def execRemoteAccessArrival (s : State) : Out :=
  s.event fun s inp =>
    let kind := inp.tid.wg
    if 28 < kind then { s with unsupported := s.unsupported + 1, outbox := .error inp.sub :: s.outbox }
    else
      let off := inp.addr.toNat % 2 ^ 39
      let r : State × Except Cause (List Byte) :=
        if kind = 0 then State.remoteRead inp.unit inp.sub inp.tid.gtid off (min inp.tid.grp 256) s
        else if kind = 1 then State.remoteWrite inp.unit inp.sub inp.tid.gtid off (inp.data.take 256) s
        else s.remoteAtomic inp.unit inp.sub inp.tid.gtid off (kind - 2) inp.val.toNat (leNat inp.data)
      match r with
      | (s, .ok bs) => { s with outbox := .reply inp.sub bs none :: s.outbox }
      | (s, .error c) => { s with outbox := .reply inp.sub [] (some c) :: s.outbox }

/-! ### Remote records (R355, R356) -/

/-- Whether a context admits what comes from a context of another package (R353). -/
def State.bindingNames (s : State) (x pkg c : Nat) : Bool :=
  match s.binding x pkg with
  | none => false
  | some e => bindingValid e && peerCtx e == c

/-- `REMOTE_RECORD_ARRIVAL` (R355, R356): the input's unit is the context here, its second number the package it comes from,
its thread number the context there, its workgroup number the record's depth; its value holds the GRAPHID in bits 31:0 and
the node in bits 43:32; its data are the record. -/
def execRemoteRecordArrival (s : State) : Out :=
  s.event fun s inp =>
    let r : RemoteRecord :=
      { pkg := inp.sub, ctx := inp.unit, node := (bf inp.val 32 12).toNat, graphid := bf inp.val 0 32, bytes := inp.data,
        depth := inp.tid.wg, since := s.tick }
    if !s.bindingNames inp.unit inp.sub inp.tid.gtid then
      { s with outbox := .refusal r.pkg r.ctx r.node r.graphid :: s.outbox }
    else match s.instanceOf r.ctx r.graphid with
      | some g => s.remoteEnters g r
      | none => { s with remoteRecords := s.remoteRecords ++ [r] }

/-- A context's fabric timeout (R356). -/
def State.fabricTimeout (s : State) (c : Nat) : Nat := ((s.ctx? c).map Context.fabricTimeout).getD 0

/-- `REMOTE_RECORD_TIMEOUT` (R356): a waiting record that has found no instance is refused. The input's unit is its place among
the records that wait. -/
def execRemoteRecordTimeout (s : State) : Out :=
  s.event fun s inp =>
    match s.remoteRecords[inp.unit]? with
    | none => s
    | some r =>
      if r.since + s.fabricTimeout r.ctx ≤ s.tick then
        { s with remoteRecords := s.remoteRecords.eraseIdx inp.unit,
                 outbox := .refusal r.pkg r.ctx r.node r.graphid :: s.outbox }
      else s

/-- Drops the oldest record in flight over a port. -/
def dropFlight (n p : Nat) : List (Nat × Nat × Nat) → List (Nat × Nat × Nat)
  | [] => []
  | e :: t => if e.1 = n ∧ e.2.1 = p then t else e :: dropFlight n p t

/-- Threads that wait for a credit of a port issue again (R245). -/
def State.wakeCredit (s : State) (g n p : Nat) : State :=
  { s with wgs := s.wgs.map fun (x : Workgroup) =>
      if x.graph = g && x.node = n then
        { x with groups := x.groups.map fun gr => gr.mapLive fun t => if t.wait = .emitting p then t.unissue else t }
      else x }

/-- A credit of a remote port comes back (R355): its record leaves the sender's count, and those who wait for it go on. -/
def State.creditBack (s : State) (g n p : Nat) : State :=
  match s.graph? g with
  | none => s
  | some gr =>
    if !(gr.remoteOut.any fun e => e.1 = n && e.2.1 = p) then s
    else
      let c := (gr.credits.lookup (n, p)).getD 32
      let s := s.modGraph g fun x =>
        { x with credits := ((n, p), min 32 (c + 1)) :: x.credits.filter (fun e => e.1 ≠ (n, p)), remoteOut := dropFlight n p x.remoteOut }
      (s.wakeCredit g n p).wakeEngines.copyNodesGo

/-- `CREDIT_RETURN` (R355): the input's unit is the graph, its second number the node, its value the port. -/
def execCreditReturn (s : State) : Out := s.event fun s inp => s.creditBack inp.unit inp.sub inp.val.toNat

/-- A record over a remote port is stranded (R356, R310), if one is in flight. -/
def State.strandRemote (s : State) (g n p : Nat) : State :=
  match s.graph? g with
  | none => s
  | some gr => if gr.remoteOut.any fun e => e.1 = n && e.2.1 = p then (s.strand g 1).creditBack g n p else s

/-- `REMOTE_RECORD_REFUSED` (R356): the input's unit is the graph, its second number the node, its value the port. -/
def execRemoteRecordRefused (s : State) : Out := s.event fun s inp => s.strandRemote inp.unit inp.sub inp.val.toNat

/-- `UNREACHABLE_RECORD_TIMEOUT` (R356): the oldest record over a port to a package that is unreachable has been in flight for
one fabric timeout. The input is as above. -/
def execUnreachableRecordTimeout (s : State) : Out :=
  s.event fun s inp =>
    match s.graph? inp.unit with
    | none => s
    | some gr =>
      let port := (gr.nodes[inp.sub]?).bind fun x => x.desc.ports[inp.val.toNat]?
      let oldest := gr.remoteOut.find? fun e => e.1 = inp.sub && e.2.1 = inp.val.toNat
      match port, oldest with
      | some p, some e =>
        if !s.reachable p.pkg && decide (e.2.2 + s.fabricTimeout gr.ctx ≤ s.tick) then s.strandRemote inp.unit inp.sub inp.val.toNat
        else s
      | _, _ => s

/-! ### Gang launches: the leader (R362, R363) -/

/-- `GANG_LAUNCH` (R362): a write of GANGLAUNCH. The input's unit is the context, its value the descriptor's address. A
descriptor that cannot be read or is not legal, or a context that has failed (R339), raises the context's service error event
(DEDUCED: notes/assumptions/60). -/
def execGangLaunch (s : State) : Out :=
  s.event fun s inp =>
    let c := inp.unit
    if s.bootState ≠ 6 || (s.ctx? c).isNone then s
    else if s.ctxFailed c then s.serviceError c
    else
      let s := s.modCtx c fun x => { x with gangLaunch := inp.val }
      match s.fetchRun c inp.val 64 with
      | (s, .error _) => s.serviceError c
      | (s, .ok hdr) =>
        let w := blockWord hdr
        let n := (bf (w 0) 51 12).toNat + 1
        if bf inp.val 0 6 ≠ 0 || bf (w 0) 0 39 ≠ 0 || bf (w 2) 0 3 ≠ 0 || !([3, 4, 5, 6, 7].all fun i => w i = 0) then s.serviceError c
        else match s.fetchRun c (inp.val + 64) (64 * n) with
          | (s, .error _) => s.serviceError c
          | (s, .ok body) => match s.fetchRun c (w 1) (2 * n) with
            | (s, .error _) => s.serviceError c
            | (s, .ok list) =>
              let pkgs := (List.range n).map fun i => leNat ((list.drop (2 * i)).take 2)
              let g : GangLead :=
                { id := s.nextId, ctx := c, gstat := w 2, members := pkgs, answers := List.replicate n .none, decision := none,
                  confirmed := [], since := s.tick, repeated := s.tick }
              let sent : List Message := (List.range n).filterMap fun i =>
                let p := pkgs.getD i 0
                match s.binding c p with
                | some e =>
                  if bindingValid e then
                    some (.prepare p (peerCtx e) s.nextId ((w 0).getLsbD 63) (bf (w 0) 39 12).toNat ((body.drop (64 * i)).take 64))
                  else none
                | none => none
              { s with nextId := s.nextId + 1, gangLeads := s.gangLeads ++ [g], outbox := sent ++ s.outbox }

/-- Changes a gang launch that this package leads. -/
def State.modLead (s : State) (id : Nat) (f : GangLead → GangLead) : State :=
  { s with gangLeads := s.gangLeads.map fun g => if g.id = id then f g else g }

/-- `GANG_ACK` (R363): a member answers its prepare within the leader's fabric timeout, or, when the input's address is 1,
confirms the decision. The input's unit is the launch, its second number the member; its flag tells an acknowledgement
from a refusal, whose code is the value. -/
def execGangAck (s : State) : Out :=
  s.event fun s inp =>
    match s.gangLeads.find? fun g => g.id == inp.unit with
    | none => s
    | some g =>
      if g.members.length ≤ inp.sub then s
      else if inp.addr = 1 then
        if g.decision.isNone || g.confirmed.contains inp.sub then s
        else if g.confirmed.length + 1 = g.members.length then { s with gangLeads := s.gangLeads.filter fun x => x.id ≠ g.id }
        else s.modLead g.id fun x => { x with confirmed := inp.sub :: x.confirmed }
      else if g.decision.isSome || g.answers[inp.sub]? ≠ some .none || g.since + s.fabricTimeout g.ctx < s.tick then s
      else
        let a : GangAnswer := if inp.ok then .ack else .refused (inp.val.toNat % 256)
        s.modLead g.id fun x => { x with answers := x.answers.set inp.sub a }

/-- What a leader decides (R363), as soon as it is settled: commit when every member has acknowledged; abort when a member
has refused that every member before it has acknowledged, or when the fabric timeout has passed. -/
def GangLead.outcome (g : GangLead) (expired : Bool) : Option Bool :=
  if g.answers.all fun a => a == .ack then some true
  else match g.answers.find? fun a => a != .ack with
    | some (.refused _) => some false
    | _ => if expired then some false else none

/-- The messages that carry a decision to the members that have not confirmed it. -/
def GangLead.decisions (g : GangLead) (commit : Bool) : List Message :=
  ((List.range g.members.length).filter fun i => !g.confirmed.contains i).map fun i => .decision (g.members.getD i 0) g.id commit

/-- The gang status word (R363). -/
def GangLead.status (g : GangLead) (commit : Bool) : Reg :=
  if commit then 0x800000000000FFFF
  else 0x4000000000000000 ||| BitVec.ofNat 64 (((List.range g.answers.length).find? fun i => g.answers[i]? ≠ some .ack).getD 0xFFFF)

/-- `GANG_DECISION` (R363): the input's unit is the launch. -/
def execGangDecision (s : State) : Out :=
  s.event fun s inp =>
    match s.gangLeads.find? fun g => g.id == inp.unit with
    | none => s
    | some g =>
      if g.decision.isSome then s
      else match g.outcome (decide (g.since + s.fabricTimeout g.ctx < s.tick)) with
        | none => s
        | some commit =>
          let s := s.modLead g.id fun x => { x with decision := some commit, repeated := s.tick }
          let s := match s.controlWords g.ctx g.gstat.toNat [g.status commit] with
            | (s, .ok ()) => s
            | (s, .error _) => s.serviceError g.ctx
          let irq := ((s.ctx? g.ctx).map fun x => [x.logVector]).getD []
          { s with irqs := irq ++ s.irqs, outbox := g.decisions commit ++ s.outbox }

/-- `GANG_DECISION_REPEAT` (R363): the input's unit is the launch. -/
def execGangDecisionRepeat (s : State) : Out :=
  s.event fun s inp =>
    match s.gangLeads.find? fun g => g.id == inp.unit with
    | none => s
    | some g => match g.decision with
      | none => s
      | some commit =>
        if s.tick < g.repeated + 65536 then s
        else
          let s := s.modLead g.id fun x => { x with repeated := s.tick }
          { s with outbox := g.decisions commit ++ s.outbox }

/-! ### Gang launches: a member (R363 to R365) -/

/-- The queue number of a graph that a gang launch started: no host queue has it. -/
def gangQueue : Nat := 4096

/-- `GANG_PREPARE` (R363): the member checks its packet, makes the graph with its reservations and answers; an eager one starts
it (R365). A member whose context does not admit the leader (R353), or has failed (R339), refuses with code 2
(DEDUCED: notes/assumptions/93). The input's unit is the context here, its second number the leader's package, its thread number the leader's
context, its value the launch's number; bit 63 of its address is MODE and bits 11:0 are COMM; its data are the packet. -/
def execGangPrepare (s : State) : Out :=
  s.event fun s inp =>
    let c := inp.unit
    let id := inp.val.toNat
    let eager := inp.addr.getLsbD 63
    let b := inp.data
    let answer (s : State) (a : GangAnswer) : State := { s with outbox := .answer inp.sub id a :: s.outbox }
    if s.gangMembers.any fun m => m.leader == inp.sub && m.id == id then s
    else if !s.bindingNames c inp.sub inp.tid.gtid || s.ctxFailed c then answer s (.refused 2)
    else if packetType (blockWord b 0) ≠ 1 || !launchFieldsOk b then answer s (.refused 1)
    else match s.checkGraph c (launchOfPacket b) with
      | (s, .error code) => answer s (.refused code)
      | (s, .ok k) =>
        let (s, g) := s.makeGraph c gangQueue (launchOfPacket b) k eager
        let m : GangMember :=
          { leader := inp.sub, id := id, ctx := c, eager := eager, comm := (bf inp.addr 0 12).toNat, packet := b, graph := some g,
            decision := none }
        let s := answer { s with gangMembers := s.gangMembers ++ [m] } .ack
        if eager then (s.hostFeed g).admitRemote g else s

/-- Changes this package's part in a gang launch. -/
def State.modMember (s : State) (leader id : Nat) (f : GangMember → GangMember) : State :=
  { s with gangMembers := s.gangMembers.map fun m => if m.leader = leader && m.id = id then f m else m }

/-- A `coll` that waits for the decision issues again (R365). -/
def State.wakeCalls (s : State) (g : Nat) : State :=
  { s with wgs := s.wgs.map fun (x : Workgroup) =>
      if x.graph = g then
        { x with groups := x.groups.map fun gr =>
            { (gr.mapLive fun t => if t.wait = .formation then t.unissue else t) with formation := none } }
      else x }

/-- The gang-abort of a strict member (R364): one delivery to the gang region under its policy; then its graph ends
(DEDUCED: notes/assumptions/93). -/
def State.gangAborted (s : State) (g : Graph) : State :=
  let rcb := ((g.nodes[g.entry]?).map fun (x : Node) => x.desc.rcb).getD 0
  let policy := ((g.region? rcb).map Region.policy).getD 0
  let fields : LogFields :=
    { ctx := g.ctx, cause := Cause.gangAbort.code, policy := policy, unit := 0, acc := 0, rcb := rcb, node := g.entry, group := 0,
      faddr := BitVec.allOnes 64, pc := 0, graphid := g.graphid, launch := 0, nthr := 0 }
  let s := (s.writeLog fields).1
  let (s, ds) := match policy with
    | 2 => s.killNodes g.ctx fun _ d => d.rcb == rcb
    | 3 => s.killNodes g.ctx fun h d => (h.chain d.rcb).contains rcb
    | _ => (s, [])
  let s := s.takeFaults ds
  let s := s.reportStore g.ctx g.stataddr (statusWord 0 1 0 0)
  let s := s.reportStore g.ctx g.sigaddr g.sigval
  (s.freeGraph g).noteEligible

/-- A decision reaches a member: it is carried out once, and confirmed whenever it arrives. -/
def State.gangDecided (s : State) (leader id : Nat) (commit : Bool) (f : State → GangMember → State) : State :=
  let s : State := { s with outbox := .confirm leader id :: s.outbox }
  match s.gangMembers.find? fun m => m.leader == leader && m.id == id with
  | none => s
  | some m =>
    if m.decision.isSome then s
    else
      let s := f (s.modMember leader id fun x => { x with decision := some commit }) m
      { s with gangMembers := s.gangMembers.filter fun x =>
          x.decision.isNone || (match x.graph with | some g => s.graphs.any fun y => y.id == g | none => false) }

/-- `GANG_COMMIT` (R364, R365): the input's unit is the launch's number at the leader, its second number the leader's
package. -/
def execGangCommit (s : State) : Out :=
  s.event fun s inp => s.gangDecided inp.sub inp.unit true fun s m =>
    match m.graph with
    | none => s
    | some g =>
      if m.eager then s.wakeCalls g
      else ((s.modGraph g fun x => { x with feeding := true }).hostFeed g).admitRemote g

/-- `GANG_ABORT` (R364, R365): the input is as for a commit. -/
def execGangAbort (s : State) : Out :=
  s.event fun s inp => s.gangDecided inp.sub inp.unit false fun s m =>
    match m.graph.bind s.graph? with
    | none => s
    | some g => if m.eager then s.wakeCalls g.id else s.gangAborted g

/-! ### The host's aperture (R368) -/

/-- The machine after an event that a register access is. -/
def State.after (s : State) (o : Out) : State := match o with | .next t => { t with input := s.input } | _ => s

/-- A 64-bit write of a register that comes through the aperture (R385, R386): the event that the write is, or else the
register takes the value. -/
def State.registerWrite (s : State) (off : Nat) (v : Reg) : State :=
  let on (unit : Nat) : State := { s with input := { s.input with unit := unit, val := v } }
  let page := (off - 0x400000) / 4096
  let o : Out :=
    if off = 0x1000 then execStoptickWrite (on 0)
    else if off = 0x1008 then execStopResume (on 0)
    else if off = 0x1018 then execLockstClear (on 0)
    else if off = 0x2008 then execSamplerConfigWrite (on 1024)
    else if 0x400000 ≤ off ∧ off < 0x800000 then
      match (off - 0x400000) % 4096 with
      | 0x800 => execHaltRequest (on page)
      | 0x830 => execDbgdataWrite (on page)
      | 0x868 => execSamplerConfigWrite (on page)
      | 0x900 => execAttreqWrite (on page)
      | 0x910 => execCevtClear (on page)
      | 0x920 => if bf v 0 2 = 1 then execServiceKillGroup (on page) else execServiceResume (on page)
      | 0x928 => execGangLaunch (on page)
      | _ => .next (s.deviceWrite off v)
    else .next (s.deviceWrite off v)
  s.after o

/-- A 64-bit read of a register that comes through the aperture (R385, R386). -/
def State.registerRead (s : State) (off : Nat) : State :=
  if 0x400000 ≤ off ∧ off < 0x800000 ∧ (off - 0x400000) % 4096 = 0x830 then
    s.after (execDbgdataRead { s with input := { s.input with unit := (off - 0x400000) / 4096 } })
  else
    let (s, v) := s.deviceRead off
    { s with answer := v }

/-- `HOST_APERTURE_ACCESS` (R368, R385): a host access through BAR 4. The input's address is the offset; its data, if any, are
the bytes written; else its second number is how many bytes, up to 8, are read. -/
def execHostApertureAccess (s : State) : Out :=
  s.event fun s inp =>
    let pa := s.apBase.toNat + inp.addr.toNat % 2 ^ 32
    let n := if inp.data.isEmpty then min inp.sub 8 else inp.data.length
    match registerOffset pa with
    | some off =>
      if off % 8 ≠ 0 || n ≠ 8 then s
      else if inp.data.isEmpty then s.registerRead off
      else s.registerWrite off (leReg inp.data)
    | none =>
      match s.place pa with
      | .memory =>
        let s := s.recall pa n
        if inp.data.isEmpty then { s with answer := leReg (s.readMem pa n) } else s.writeHome none pa inp.data
      | .peer port =>
        if inp.data.isEmpty then
          let (s, v) := (s.post (.peerAccess port (pa % 2 ^ 41) (.read n))).draw
          { s with answer := BitVec.ofNat 64 (v.toNat % 2 ^ (8 * n)) }
        else s.post (.peerAccess port (pa % 2 ^ 41) (.write inp.data))
      | _ =>
        let s := s.deviceEvent 5 0 (BitVec.ofNat 64 pa)
        if inp.data.isEmpty then { s with answer := BitVec.ofNat 64 (2 ^ (8 * n) - 1) } else s

end Sys2Proof.Machine
end

