-- ==== Sys2Proof/Machine/Caches.lean ====
section
/-! DEFINITION. What the memory hierarchy does by itself: evictions and acknowledgements (R273, R275), changes of the slice
map (R281, R282), the patrol scrub (R284, R285), deferred write-backs (R268). -/

namespace Sys2Proof.Machine

open Sys2Proof

/-- `L1_EVICTION` (R275, R276): a workgroup's L1 evicts a line of 192 bytes, which sends nothing and leaves the home's
registration of its words as it is; a `.kl1` line goes after every other (DESIGN CHOICE: notes/assumptions/9). The input's unit is
the workgroup, its address a physical address of the line. -/
def execL1Eviction (s : State) : Out :=
  s.event fun s inp => s.modWg inp.unit fun x =>
    let mine (w : L1Word) : Bool := w.addr * 4 / 192 == inp.addr.toNat / 192
    let kept (w : L1Word) : Bool := x.l1.any fun v => v.keep && v.addr * 4 / 192 == w.addr * 4 / 192
    if x.l1.any (fun w => mine w && kept w) && x.l1.any (fun w => !kept w) then x
    else { x with l1 := x.l1.filter fun w => !mine w }

/-! ### Write-throughs (R273, R281, R282) -/

/-- Whether the slice that a write-through of a workgroup was sent to performs it (R281): one hashed under a map from before a
move goes to the old home, which performs until the handover; under a later map it goes to the new home, which performs after
it. One that a home has performed already is answered from its record (R282). -/
def State.performs (s : State) (x : Workgroup) (t : WriteThrough) : Bool :=
  let k := s.bucketKey x.ctx t.addr
  decide (t.seq ≤ s.lastPerformed x.id k) || (if t.gen < s.moveGen k then s.handing k else !s.handing k)

/-- `WRITE_THROUGH_ACK` (R273, R282): a write-through of a workgroup is performed at its home and acknowledged, and before it
the earlier ones to its bucket; in lazy-release mode every earlier one (R268). The input's unit is the workgroup, its second
number the place of the write-through among those pending. -/
def execWriteThroughAck (s : State) : Out :=
  s.event fun s inp =>
    match s.wg? inp.unit with
    | none => s
    | some x => match x.writes[inp.sub]? with
      | none => s
      | some t =>
        let pick (u : WriteThrough) : Bool := u.seq == t.seq && s.bucketKey x.ctx u.addr == s.bucketKey x.ctx t.addr
        if (marked (s.lazyCtx x.ctx) pick x.writes).all fun e => !e.2 || s.performs x e.1 then s.drain inp.unit pick else s

/-- `LAZY_WRITEBACK_DEADLINE` (R268): write-backs deferred for 32,768 ticks are performed. The input's unit is the workgroup. -/
def execLazyWritebackDeadline (s : State) : Out :=
  s.event fun s inp => s.writeBackDue inp.unit

/-! ### The slice maps (R280, R281) -/

/-- A bucket of a map passes to another slice, and the map's generation rises (R281). -/
def State.moveBucket (s : State) (k y : Nat) : State :=
  let m := k / 1024
  let g := (s.generationOf m + 1) % 2 ^ 32
  { s with generations := setKey s.generations m g, mapMoves := setKey s.mapMoves k y,
           mapGens := setKey s.mapGens k (g, s.sliceOf k), handovers := (k, s.sliceOf k) :: s.handovers }

/-- `SLICE_MAP_CHANGE` (R280, R281): a bucket passes to another slice in service. The input's unit is the bucket, plus 1,024
times the map: that of a slice group, or 0; its second number is the slice (DEDUCED: notes/assumptions/89). -/
def execSliceMapChange (s : State) : Out :=
  s.event fun s inp =>
    if 1024 * 256 ≤ inp.unit || 128 ≤ inp.sub || !s.slicesInService.getLsbD inp.sub || s.masked (768 + inp.sub) ||
       inp.sub = s.sliceOf inp.unit || s.handing inp.unit then s
    else s.moveBucket inp.unit inp.sub

/-- `BUCKET_HANDOVER` (R281): the old home has performed what it accepted and passes the bucket's registrations on. The input's
unit is the bucket, as above. -/
def execBucketHandover (s : State) : Out := s.event fun s inp => s.handOver inp.unit

/-- Whether a retired home refuses a request hashed under a generation (R281). -/
def State.refuses (s : State) (gen k : Nat) : Bool := decide (gen < s.moveGen k) && !s.handing k

/-- `GENERATION_REFUSAL` (R281): a request that reaches a retired home is refused and sent again under the current map, with its
sequence number. The input's unit is the workgroup, its second number the place of the write-through; with its flag false, the
request is that of the thread that the input names. -/
def execGenerationRefusal (s : State) : Out :=
  s.event fun s inp =>
    if inp.ok then
      match s.wg? inp.unit with
      | none => s
      | some x => match x.writes[inp.sub]? with
        | none => s
        | some t =>
          let k := s.bucketKey x.ctx t.addr
          let g := s.generationOf (s.mapOf x.ctx)
          if s.refuses t.gen k then
            (s.modWg inp.unit fun x => { x with writes := x.writes.modify inp.sub fun u => { u with gen := g } }).countRefusal k
          else s
    else match (s.thread? inp.tid).bind Thread.request with
      | none => s
      | some (g, k) =>
        if s.refuses g k then (s.modThread inp.tid fun t => { t with request := some (s.generationOf (k / 1024), k) }).countRefusal k
        else s

/-! ### Integrity (R284, R285) -/

/-- Raises an error counter: of pair `k`, the correctable one or the uncorrectable one (R385; DEDUCED: notes/assumptions/62). -/
def State.countError (s : State) (k : Nat) (uncorrectable : Bool) : State :=
  let i := 2 * k + (if uncorrectable then 1 else 0)
  { s with errCounters := (i, (s.errCounters.lookup i).getD 0 + 1) :: s.errCounters.filter fun e => e.1 ≠ i }

/-- `PATROL_SCRUB` (R284, R285): the input's unit is the slice, its address the sector's physical address, its second number 0
when the sector is sound, 1 when it was corrected, 2 when it cannot be; its flag tells a dirty sector, whose bits as read
are its data (DEDUCED: notes/assumptions/91). -/
def execPatrolScrub (s : State) : Out :=
  s.event fun s inp =>
    let pa := inp.addr.toNat
    let homes := (0 :: s.ctxs.map Context.sliceGroup).map fun m => s.sliceOf (1024 * m + bucketOf pa)
    if 128 ≤ inp.unit || s.place pa ≠ .memory || !homes.contains inp.unit then s
    else if inp.sub = 1 then s.countError (8 + inp.unit) false
    else if inp.sub = 2 then
      let s := s.countError (8 + inp.unit) true
      if inp.ok then
        let s := s.deviceEvent 4 (768 + inp.unit) inp.addr
        { s with mem := writeBytes s.mem pa (inp.data.take 48) }
      else s
    else s

end Sys2Proof.Machine
end

