-- ==== Sys2Proof/Machine/Dispatch.lean ====
section
/-! DEFINITION. What an instruction or an event does: one arm per constructor. -/

namespace Sys2Proof.Machine

/-- The meaning of an instruction or an event. -/
def exec (i : Instr) (s : State) : Host.Outcome State Fault Refusal :=
  match i with
  | .iadd32 d a b => Sys2Proof.Machine.execIadd32 d a b s
  | .iadd64 d a b => Sys2Proof.Machine.execIadd64 d a b s
  | .isub32 d a b => Sys2Proof.Machine.execIsub32 d a b s
  | .isub64 d a b => Sys2Proof.Machine.execIsub64 d a b s
  | .imul32 d a b => Sys2Proof.Machine.execImul32 d a b s
  | .imul64 d a b => Sys2Proof.Machine.execImul64 d a b s
  | .imulh32 d a b => Sys2Proof.Machine.execImulh32 d a b s
  | .imulh64 d a b => Sys2Proof.Machine.execImulh64 d a b s
  | .imulhn32 d a b => Sys2Proof.Machine.execImulhn32 d a b s
  | .imulhn64 d a b => Sys2Proof.Machine.execImulhn64 d a b s
  | .idiv32 d a b => Sys2Proof.Machine.execIdiv32 d a b s
  | .idiv64 d a b => Sys2Proof.Machine.execIdiv64 d a b s
  | .idivn32 d a b => Sys2Proof.Machine.execIdivn32 d a b s
  | .idivn64 d a b => Sys2Proof.Machine.execIdivn64 d a b s
  | .irem32 d a b => Sys2Proof.Machine.execIrem32 d a b s
  | .irem64 d a b => Sys2Proof.Machine.execIrem64 d a b s
  | .iremn32 d a b => Sys2Proof.Machine.execIremn32 d a b s
  | .iremn64 d a b => Sys2Proof.Machine.execIremn64 d a b s
  | .iminI32 d a b => Sys2Proof.Machine.execIminI32 d a b s
  | .iminI64 d a b => Sys2Proof.Machine.execIminI64 d a b s
  | .iminN32 d a b => Sys2Proof.Machine.execIminN32 d a b s
  | .iminN64 d a b => Sys2Proof.Machine.execIminN64 d a b s
  | .imaxI32 d a b => Sys2Proof.Machine.execImaxI32 d a b s
  | .imaxI64 d a b => Sys2Proof.Machine.execImaxI64 d a b s
  | .imaxN32 d a b => Sys2Proof.Machine.execImaxN32 d a b s
  | .imaxN64 d a b => Sys2Proof.Machine.execImaxN64 d a b s
  | .iabs32 d a => Sys2Proof.Machine.execIabs32 d a s
  | .iabs64 d a => Sys2Proof.Machine.execIabs64 d a s
  | .and32 d a b => Sys2Proof.Machine.execAnd32 d a b s
  | .and64 d a b => Sys2Proof.Machine.execAnd64 d a b s
  | .or32 d a b => Sys2Proof.Machine.execOr32 d a b s
  | .or64 d a b => Sys2Proof.Machine.execOr64 d a b s
  | .xor32 d a b => Sys2Proof.Machine.execXor32 d a b s
  | .xor64 d a b => Sys2Proof.Machine.execXor64 d a b s
  | .andn32 d a b => Sys2Proof.Machine.execAndn32 d a b s
  | .andn64 d a b => Sys2Proof.Machine.execAndn64 d a b s
  | .shl32 d a b => Sys2Proof.Machine.execShl32 d a b s
  | .shl64 d a b => Sys2Proof.Machine.execShl64 d a b s
  | .shr32 d a b => Sys2Proof.Machine.execShr32 d a b s
  | .shr64 d a b => Sys2Proof.Machine.execShr64 d a b s
  | .sra32 d a b => Sys2Proof.Machine.execSra32 d a b s
  | .sra64 d a b => Sys2Proof.Machine.execSra64 d a b s
  | .rotl32 d a b => Sys2Proof.Machine.execRotl32 d a b s
  | .rotl64 d a b => Sys2Proof.Machine.execRotl64 d a b s
  | .imad32 d a b => Sys2Proof.Machine.execImad32 d a b s
  | .imad64 d a b => Sys2Proof.Machine.execImad64 d a b s
  | .iaddImm32 d a imm => Sys2Proof.Machine.execIaddImm32 d a imm s
  | .iaddImm64 d a imm => Sys2Proof.Machine.execIaddImm64 d a imm s
  | .andImm d a imm => Sys2Proof.Machine.execAndImm d a imm s
  | .orImm d a imm => Sys2Proof.Machine.execOrImm d a imm s
  | .xorImm d a imm => Sys2Proof.Machine.execXorImm d a imm s
  | .shlImm32 d a k => Sys2Proof.Machine.execShlImm32 d a k s
  | .shlImm64 d a k => Sys2Proof.Machine.execShlImm64 d a k s
  | .shrImm32 d a k => Sys2Proof.Machine.execShrImm32 d a k s
  | .shrImm64 d a k => Sys2Proof.Machine.execShrImm64 d a k s
  | .sraImm32 d a k => Sys2Proof.Machine.execSraImm32 d a k s
  | .sraImm64 d a k => Sys2Proof.Machine.execSraImm64 d a k s
  | .rotlImm32 d a k => Sys2Proof.Machine.execRotlImm32 d a k s
  | .rotlImm64 d a k => Sys2Proof.Machine.execRotlImm64 d a k s
  | .movi d imm => Sys2Proof.Machine.execMovi d imm s
  | .popc32 d a => Sys2Proof.Machine.execPopc32 d a s
  | .popc64 d a => Sys2Proof.Machine.execPopc64 d a s
  | .clz32 d a => Sys2Proof.Machine.execClz32 d a s
  | .clz64 d a => Sys2Proof.Machine.execClz64 d a s
  | .ctz32 d a => Sys2Proof.Machine.execCtz32 d a s
  | .ctz64 d a => Sys2Proof.Machine.execCtz64 d a s
  | .brev32 d a => Sys2Proof.Machine.execBrev32 d a s
  | .brev64 d a => Sys2Proof.Machine.execBrev64 d a s
  | .bfxI64 d a b => Sys2Proof.Machine.execBfxI64 d a b s
  | .bfxN64 d a b => Sys2Proof.Machine.execBfxN64 d a b s
  | .bfi d a b => Sys2Proof.Machine.execBfi d a b s
  | .bilv d a b => Sys2Proof.Machine.execBilv d a b s
  | .bdilv d a b => Sys2Proof.Machine.execBdilv d a b s
  | .perm8 d a b => Sys2Proof.Machine.execPerm8 d a b s
  | .fsh32 d a b => Sys2Proof.Machine.execFsh32 d a b s
  | .fsh64 d a b => Sys2Proof.Machine.execFsh64 d a b s
  | .sextI8 d a => Sys2Proof.Machine.execSextI8 d a s
  | .sextI16 d a => Sys2Proof.Machine.execSextI16 d a s
  | .sextI32 d a => Sys2Proof.Machine.execSextI32 d a s
  | .zextN8 d a => Sys2Proof.Machine.execZextN8 d a s
  | .zextN16 d a => Sys2Proof.Machine.execZextN16 d a s
  | .zextN32 d a => Sys2Proof.Machine.execZextN32 d a s
  | .mov d a => Sys2Proof.Machine.execMov d a s
  | .addr d a b => Sys2Proof.Machine.execAddr d a b s
  | .dot4I8 d a b => Sys2Proof.Machine.execDot4I8 d a b s
  | .dot4N8 d a b => Sys2Proof.Machine.execDot4N8 d a b s
  | .icmp p c a b t => Sys2Proof.Machine.execIcmp p c a b t s
  | .fcmp p c a b t => Sys2Proof.Machine.execFcmp p c a b t s
  | .pset p l a b => Sys2Proof.Machine.execPset p l a b s
  | .isel d a b p n => Sys2Proof.Machine.execIsel d a b p n s
  | .bra p n o => Sys2Proof.Machine.execBra p n o s
  | .call p n o => Sys2Proof.Machine.execCall p n o s
  | .nop => Sys2Proof.Machine.execNop s
  | .brx a => Sys2Proof.Machine.execBrx a s
  | .ret a => Sys2Proof.Machine.execRet a s
  | .exit => Sys2Proof.Machine.execExit s
  | .yieldTurn => Sys2Proof.Machine.execYieldTurn s
  | .fuse a => Sys2Proof.Machine.execFuse a s
  | .tick d => Sys2Proof.Machine.execTick d s
  | .ballot d a b => Sys2Proof.Machine.execBallot d a b s
  | .voteAny d a b => Sys2Proof.Machine.execVoteAny d a b s
  | .voteAll d a b => Sys2Proof.Machine.execVoteAll d a b s
  | .voteEq d a b => Sys2Proof.Machine.execVoteEq d a b s
  | .match32 d a b => Sys2Proof.Machine.execMatch32 d a b s
  | .match64 d a b => Sys2Proof.Machine.execMatch64 d a b s
  | .shflIdx d a b => Sys2Proof.Machine.execShflIdx d a b s
  | .shflUp d a b => Sys2Proof.Machine.execShflUp d a b s
  | .shflDn d a b => Sys2Proof.Machine.execShflDn d a b s
  | .shflXor d a b => Sys2Proof.Machine.execShflXor d a b s
  | .reduxAdd32 d a b => Sys2Proof.Machine.execReduxAdd32 d a b s
  | .reduxMinI32 d a b => Sys2Proof.Machine.execReduxMinI32 d a b s
  | .reduxMinN32 d a b => Sys2Proof.Machine.execReduxMinN32 d a b s
  | .reduxMaxI32 d a b => Sys2Proof.Machine.execReduxMaxI32 d a b s
  | .reduxMaxN32 d a b => Sys2Proof.Machine.execReduxMaxN32 d a b s
  | .reduxAnd d a b => Sys2Proof.Machine.execReduxAnd d a b s
  | .reduxOr d a b => Sys2Proof.Machine.execReduxOr d a b s
  | .reduxXor d a b => Sys2Proof.Machine.execReduxXor d a b s
  | .reduxAdd64 d a b => Sys2Proof.Machine.execReduxAdd64 d a b s
  | .sysrd d k => Sys2Proof.Machine.execSysrd d k s
  | .syswrImode d a => Sys2Proof.Machine.execSyswrImode d a s
  | .syswrSrg d a => Sys2Proof.Machine.execSyswrSrg d a s
  | .fflagsRd d => Sys2Proof.Machine.execFflagsRd d s
  | .fflagsClr d a => Sys2Proof.Machine.execFflagsClr d a s
  | .fflagsCtl d a => Sys2Proof.Machine.execFflagsCtl d a s
  | .mark => Sys2Proof.Machine.execMark s
  | .trap => Sys2Proof.Machine.execTrap s
  | .brk => Sys2Proof.Machine.execBrk s
  | .fadd d a b => Sys2Proof.Machine.execFadd d a b s
  | .fsub d a b => Sys2Proof.Machine.execFsub d a b s
  | .fmul d a b => Sys2Proof.Machine.execFmul d a b s
  | .ffma d a b => Sys2Proof.Machine.execFfma d a b s
  | .fmin d a b => Sys2Proof.Machine.execFmin d a b s
  | .fmax d a b => Sys2Proof.Machine.execFmax d a b s
  | .fminn d a b => Sys2Proof.Machine.execFminn d a b s
  | .fmaxn d a b => Sys2Proof.Machine.execFmaxn d a b s
  | .fabs d a => Sys2Proof.Machine.execFabs d a s
  | .fneg d a => Sys2Proof.Machine.execFneg d a s
  | .frcp d a => Sys2Proof.Machine.execFrcp d a s
  | .frsq d a => Sys2Proof.Machine.execFrsq d a s
  | .fsqrt d a => Sys2Proof.Machine.execFsqrt d a s
  | .fexp2 d a => Sys2Proof.Machine.execFexp2 d a s
  | .flog2 d a => Sys2Proof.Machine.execFlog2 d a s
  | .fsin d a => Sys2Proof.Machine.execFsin d a s
  | .fcos d a => Sys2Proof.Machine.execFcos d a s
  | .fclass d a => Sys2Proof.Machine.execFclass d a s
  | .hadd2F16 d a b => Sys2Proof.Machine.execHadd2F16 d a b s
  | .hadd2Bf16 d a b => Sys2Proof.Machine.execHadd2Bf16 d a b s
  | .hmul2F16 d a b => Sys2Proof.Machine.execHmul2F16 d a b s
  | .hmul2Bf16 d a b => Sys2Proof.Machine.execHmul2Bf16 d a b s
  | .hfma2F16 d a b => Sys2Proof.Machine.execHfma2F16 d a b s
  | .hfma2Bf16 d a b => Sys2Proof.Machine.execHfma2Bf16 d a b s
  | .fdot2F16 d a b => Sys2Proof.Machine.execFdot2F16 d a b s
  | .fdot2Bf16 d a b => Sys2Proof.Machine.execFdot2Bf16 d a b s
  | .f8dot4E4m3 d a b => Sys2Proof.Machine.execF8dot4E4m3 d a b s
  | .f8dot4E5m2 d a b => Sys2Proof.Machine.execF8dot4E5m2 d a b s
  | .fpackF16 d a b => Sys2Proof.Machine.execFpackF16 d a b s
  | .fpackBf16 d a b => Sys2Proof.Machine.execFpackBf16 d a b s
  | .fpackE4m3 d a b => Sys2Proof.Machine.execFpackE4m3 d a b s
  | .fpackE5m2 d a b => Sys2Proof.Machine.execFpackE5m2 d a b s
  | .frnd d a k t r => Sys2Proof.Machine.execFrnd d a k t r s
  | .fcvt d a k t r => Sys2Proof.Machine.execFcvt d a k t r s
  | .fcvti d a k t r => Sys2Proof.Machine.execFcvti d a k t r s
  | .icvtf d a k t r => Sys2Proof.Machine.execIcvtf d a k t r s
  | .ld d a k z o => Sys2Proof.Machine.execLd d a k z o s
  | .st d a k z o => Sys2Proof.Machine.execSt d a k z o s
  | .ldAcq d a k z c o => Sys2Proof.Machine.execLdAcq d a k z c o s
  | .stRel d a k z c o => Sys2Proof.Machine.execStRel d a k z c o s
  | .ldx d a b k z => Sys2Proof.Machine.execLdx d a b k z s
  | .stx d a b k z => Sys2Proof.Machine.execStx d a b k z s
  | .atomAdd d a b t => Sys2Proof.Machine.execAtomAdd d a b t s
  | .atomMin d a b t => Sys2Proof.Machine.execAtomMin d a b t s
  | .atomMax d a b t => Sys2Proof.Machine.execAtomMax d a b t s
  | .atomAnd d a b t => Sys2Proof.Machine.execAtomAnd d a b t s
  | .atomOr d a b t => Sys2Proof.Machine.execAtomOr d a b t s
  | .atomXor d a b t => Sys2Proof.Machine.execAtomXor d a b t s
  | .atomExch d a b t => Sys2Proof.Machine.execAtomExch d a b t s
  | .atomCas d a b t => Sys2Proof.Machine.execAtomCas d a b t s
  | .atomFadd d a b => Sys2Proof.Machine.execAtomFadd d a b s
  | .atomFmin d a b => Sys2Proof.Machine.execAtomFmin d a b s
  | .atomFmax d a b => Sys2Proof.Machine.execAtomFmax d a b s
  | .atomIncb d a b => Sys2Proof.Machine.execAtomIncb d a b s
  | .atomDecb d a b => Sys2Proof.Machine.execAtomDecb d a b s
  | .aredAdd a b t => Sys2Proof.Machine.execAredAdd a b t s
  | .aredMin a b t => Sys2Proof.Machine.execAredMin a b t s
  | .aredMax a b t => Sys2Proof.Machine.execAredMax a b t s
  | .aredAnd a b t => Sys2Proof.Machine.execAredAnd a b t s
  | .aredOr a b t => Sys2Proof.Machine.execAredOr a b t s
  | .aredXor a b t => Sys2Proof.Machine.execAredXor a b t s
  | .aredExch a b t => Sys2Proof.Machine.execAredExch a b t s
  | .aredFadd a b => Sys2Proof.Machine.execAredFadd a b s
  | .aredFmin a b => Sys2Proof.Machine.execAredFmin a b s
  | .aredFmax a b => Sys2Proof.Machine.execAredFmax a b s
  | .aredIncb a b => Sys2Proof.Machine.execAredIncb a b s
  | .aredDecb a b => Sys2Proof.Machine.execAredDecb a b s
  | .fence k => Sys2Proof.Machine.execFence k s
  | .fenceAcq k => Sys2Proof.Machine.execFenceAcq k s
  | .fenceRel k => Sys2Proof.Machine.execFenceRel k s
  | .barArm r a b => Sys2Proof.Machine.execBarArm r a b s
  | .barArrive k r a => Sys2Proof.Machine.execBarArrive k r a s
  | .barExpect r a => Sys2Proof.Machine.execBarExpect r a s
  | .barWait k r a => Sys2Proof.Machine.execBarWait k r a s
  | .barSync k r a => Sys2Proof.Machine.execBarSync k r a s
  | .barTest k r a p => Sys2Proof.Machine.execBarTest k r a p s
  | .barSwap => Sys2Proof.Machine.execBarSwap s
  | .gsync k => Sys2Proof.Machine.execGsync k s
  | .wsync k => Sys2Proof.Machine.execWsync k s
  | .pref a => Sys2Proof.Machine.execPref a s
  | .cinv a b => Sys2Proof.Machine.execCinv a b s
  | .cwb k a b => Sys2Proof.Machine.execCwb k a b s
  | .icinv k a b => Sys2Proof.Machine.execIcinv k a b s
  | .xst d a e z o => Sys2Proof.Machine.execXst d a e z o s
  | .stc32 d a b => Sys2Proof.Machine.execStc32 d a b s
  | .stc64 d a b => Sys2Proof.Machine.execStc64 d a b s
  | .lde32 d a b => Sys2Proof.Machine.execLde32 d a b s
  | .lde64 d a b => Sys2Proof.Machine.execLde64 d a b s
  | .walkset d a b => Sys2Proof.Machine.execWalkset d a b s
  | .walkld32 d a => Sys2Proof.Machine.execWalkld32 d a s
  | .walkldRow d => Sys2Proof.Machine.execWalkldRow d s
  | .walkldCol d => Sys2Proof.Machine.execWalkldCol d s
  | .walkld64 d a => Sys2Proof.Machine.execWalkld64 d a s
  | .walkst32 d a => Sys2Proof.Machine.execWalkst32 d a s
  | .walkst64 d a => Sys2Proof.Machine.execWalkst64 d a s
  | .walknext d => Sys2Proof.Machine.execWalknext d s
  | .mma a b c g r m => Sys2Proof.Machine.execMma a b c g r m s
  | .mtrans a b c g r => Sys2Proof.Machine.execMtrans a b c g r s
  | .mperm a b c g r => Sys2Proof.Machine.execMperm a b c g r s
  | .mrsum a b c g r => Sys2Proof.Machine.execMrsum a b c g r s
  | .gang imm a => Sys2Proof.Machine.execGang imm a s
  | .accld imm k => Sys2Proof.Machine.execAccld imm k s
  | .accst imm k => Sys2Proof.Machine.execAccst imm k s
  | .acczero imm => Sys2Proof.Machine.execAcczero imm s
  | .mwait n => Sys2Proof.Machine.execMwait n s
  | .mflags k a => Sys2Proof.Machine.execMflags k a s
  | .tcfg k => Sys2Proof.Machine.execTcfg k s
  | .tbuild t k => Sys2Proof.Machine.execTbuild t k s
  | .tlook k c m => Sys2Proof.Machine.execTlook k c m s
  | .tinv m => Sys2Proof.Machine.execTinv m s
  | .tstat t k => Sys2Proof.Machine.execTstat t k s
  | .tspill t k => Sys2Proof.Machine.execTspill t k s
  | .tfill t k => Sys2Proof.Machine.execTfill t k s
  | .twait => Sys2Proof.Machine.execTwait s
  | .twaitPoll k => Sys2Proof.Machine.execTwaitPoll k s
  | .cpy r k t n => Sys2Proof.Machine.execCpy r k t n s
  | .lay r k h n => Sys2Proof.Machine.execLay r k h n s
  | .layq k h d => Sys2Proof.Machine.execLayq k h d s
  | .topk r k n => Sys2Proof.Machine.execTopk r k n s
  | .texp r k n => Sys2Proof.Machine.execTexp r k n s
  | .coll r k n => Sys2Proof.Machine.execColl r k n s
  | .cwait => Sys2Proof.Machine.execCwait s
  | .recInit a k => Sys2Proof.Machine.execRecInit a k s
  | .emit p => Sys2Proof.Machine.execEmit p s
  | .emitq p q => Sys2Proof.Machine.execEmitq p q s
  | .eport p => Sys2Proof.Machine.execEport p s
  | .prefixWord => Sys2Proof.Machine.execPrefixWord s
  | .wideHint => Sys2Proof.Machine.execWideHint s
  | .modifierHint => Sys2Proof.Machine.execModifierHint s
  | .stallHint => Sys2Proof.Machine.execStallHint s
  | .zeroWord => Sys2Proof.Machine.execZeroWord s
  | .resultArrival => Sys2Proof.Machine.execResultArrival s
  | .fuseTimeout => Sys2Proof.Machine.execFuseTimeout s
  | .matrixCommandComplete => Sys2Proof.Machine.execMatrixCommandComplete s
  | .lookupCommandComplete => Sys2Proof.Machine.execLookupCommandComplete s
  | .copyCommandComplete => Sys2Proof.Machine.execCopyCommandComplete s
  | .tambourCommandComplete => Sys2Proof.Machine.execTambourCommandComplete s
  | .engineTranslationFault => Sys2Proof.Machine.execEngineTranslationFault s
  | .collComplete => Sys2Proof.Machine.execCollComplete s
  | .peerHaltedNotice => Sys2Proof.Machine.execPeerHaltedNotice s
  | .peerResumedNotice => Sys2Proof.Machine.execPeerResumedNotice s
  | .collPeerLost => Sys2Proof.Machine.execCollPeerLost s
  | .launchPlacement => Sys2Proof.Machine.execLaunchPlacement s
  | .gatherTimerExpiry => Sys2Proof.Machine.execGatherTimerExpiry s
  | .recordAdmission => Sys2Proof.Machine.execRecordAdmission s
  | .graphEnd => Sys2Proof.Machine.execGraphEnd s
  | .preEmption => Sys2Proof.Machine.execPreEmption s
  | .graphStall => Sys2Proof.Machine.execGraphStall s
  | .issueAging => Sys2Proof.Machine.execIssueAging s
  | .serviceResume => Sys2Proof.Machine.execServiceResume s
  | .serviceKillGroup => Sys2Proof.Machine.execServiceKillGroup s
  | .haltRequest => Sys2Proof.Machine.execHaltRequest s
  | .hardwareBreakpoint => Sys2Proof.Machine.execHardwareBreakpoint s
  | .dbgdataRead => Sys2Proof.Machine.execDbgdataRead s
  | .dbgdataWrite => Sys2Proof.Machine.execDbgdataWrite s
  | .sampleLatch => Sys2Proof.Machine.execSampleLatch s
  | .samplerConfigWrite => Sys2Proof.Machine.execSamplerConfigWrite s
  | .stoptickWrite => Sys2Proof.Machine.execStoptickWrite s
  | .moduleStop => Sys2Proof.Machine.execModuleStop s
  | .stopResume => Sys2Proof.Machine.execStopResume s
  | .clockModeChange => Sys2Proof.Machine.execClockModeChange s
  | .lockLost => Sys2Proof.Machine.execLockLost s
  | .lockstClear => Sys2Proof.Machine.execLockstClear s
  | .cevtClear => Sys2Proof.Machine.execCevtClear s
  | .tickCorrection => Sys2Proof.Machine.execTickCorrection s
  | .powerThrottle => Sys2Proof.Machine.execPowerThrottle s
  | .criticalTemperature => Sys2Proof.Machine.execCriticalTemperature s
  | .criticalTemperatureTimeout => Sys2Proof.Machine.execCriticalTemperatureTimeout s
  | .powerOn => Sys2Proof.Machine.execPowerOn s
  | .bootMeasure => Sys2Proof.Machine.execBootMeasure s
  | .bootLoad => Sys2Proof.Machine.execBootLoad s
  | .hbmTrainingDone => Sys2Proof.Machine.execHbmTrainingDone s
  | .linkTrainingDone => Sys2Proof.Machine.execLinkTrainingDone s
  | .fabricPortsSettled => Sys2Proof.Machine.execFabricPortsSettled s
  | .tailWrite => Sys2Proof.Machine.execTailWrite s
  | .launchPacket => Sys2Proof.Machine.execLaunchPacket s
  | .nopPacket => Sys2Proof.Machine.execNopPacket s
  | .waitPacket => Sys2Proof.Machine.execWaitPacket s
  | .waitPacketRecheck => Sys2Proof.Machine.execWaitPacketRecheck s
  | .signalPacket => Sys2Proof.Machine.execSignalPacket s
  | .hostApertureAccess => Sys2Proof.Machine.execHostApertureAccess s
  | .hostCompletionTimeout => Sys2Proof.Machine.execHostCompletionTimeout s
  | .ctxCreate => Sys2Proof.Machine.execCtxCreate s
  | .ctxDestroy => Sys2Proof.Machine.execCtxDestroy s
  | .queueSet => Sys2Proof.Machine.execQueueSet s
  | .inval => Sys2Proof.Machine.execInval s
  | .routeSet => Sys2Proof.Machine.execRouteSet s
  | .portDisable => Sys2Proof.Machine.execPortDisable s
  | .portEnable => Sys2Proof.Machine.execPortEnable s
  | .portClearFailed => Sys2Proof.Machine.execPortClearFailed s
  | .pkgSet => Sys2Proof.Machine.execPkgSet s
  | .cxlSet => Sys2Proof.Machine.execCxlSet s
  | .powerSet => Sys2Proof.Machine.execPowerSet s
  | .mrExtend => Sys2Proof.Machine.execMrExtend s
  | .attest => Sys2Proof.Machine.execAttest s
  | .certGet => Sys2Proof.Machine.execCertGet s
  | .imageLoad => Sys2Proof.Machine.execImageLoad s
  | .imageWrite => Sys2Proof.Machine.execImageWrite s
  | .reset => Sys2Proof.Machine.execReset s
  | .attreqWrite => Sys2Proof.Machine.execAttreqWrite s
  | .attestationReportDone => Sys2Proof.Machine.execAttestationReportDone s
  | .gangLaunch => Sys2Proof.Machine.execGangLaunch s
  | .gangPrepare => Sys2Proof.Machine.execGangPrepare s
  | .gangAck => Sys2Proof.Machine.execGangAck s
  | .gangDecision => Sys2Proof.Machine.execGangDecision s
  | .gangDecisionRepeat => Sys2Proof.Machine.execGangDecisionRepeat s
  | .gangCommit => Sys2Proof.Machine.execGangCommit s
  | .gangAbort => Sys2Proof.Machine.execGangAbort s
  | .remoteAccessArrival => Sys2Proof.Machine.execRemoteAccessArrival s
  | .remoteRecordArrival => Sys2Proof.Machine.execRemoteRecordArrival s
  | .remoteRecordTimeout => Sys2Proof.Machine.execRemoteRecordTimeout s
  | .creditReturn => Sys2Proof.Machine.execCreditReturn s
  | .unsupportedRequest => Sys2Proof.Machine.execUnsupportedRequest s
  | .linkPartnerDetected => Sys2Proof.Machine.execLinkPartnerDetected s
  | .linkDetectTimeout => Sys2Proof.Machine.execLinkDetectTimeout s
  | .linkTrainDone => Sys2Proof.Machine.execLinkTrainDone s
  | .linkVerifyDone => Sys2Proof.Machine.execLinkVerifyDone s
  | .linkRetrain => Sys2Proof.Machine.execLinkRetrain s
  | .l1Eviction => Sys2Proof.Machine.execL1Eviction s
  | .writeThroughAck => Sys2Proof.Machine.execWriteThroughAck s
  | .sliceMapChange => Sys2Proof.Machine.execSliceMapChange s
  | .bucketHandover => Sys2Proof.Machine.execBucketHandover s
  | .generationRefusal => Sys2Proof.Machine.execGenerationRefusal s
  | .patrolScrub => Sys2Proof.Machine.execPatrolScrub s
  | .lazyWritebackDeadline => Sys2Proof.Machine.execLazyWritebackDeadline s
  | .registerWrite => Sys2Proof.Machine.execRegisterWrite s
  | .undefinedInstruction => Sys2Proof.Machine.execUndefinedInstruction s
  | .copyBytesLanded => Sys2Proof.Machine.execCopyBytesLanded s
  | .reservedTypePacket => Sys2Proof.Machine.execReservedTypePacket s
  | .powerLoss => Sys2Proof.Machine.execPowerLoss s
  | .remoteRecordRefused => Sys2Proof.Machine.execRemoteRecordRefused s
  | .unreachableRecordTimeout => Sys2Proof.Machine.execUnreachableRecordTimeout s

end Sys2Proof.Machine
end

