-- ==== Sys2Proof/Machine/Turns.lean ====
section
/-! DEFINITION. Turns: threads issue a word (R10, R308, R345), an event comes about, the tick moves on, an error of the
hardware is met (R284, R285), firmware changes a context's release mode (R268); and what the module does when the agenda names
nothing: its own next event, else its next issue, else time passes (DESIGN CHOICE: notes/assumptions/1). -/

namespace Sys2Proof.Machine

open Sys2Proof

/-! ### Issue -/

/-- Whether a thread is runnable (R16). -/
def Thread.runnable (t : Thread) : Bool := t.isLive && t.wait == .running

/-- The issue by which the turns of threads go (R10, R308): the last one; a thread within an instruction group goes on first. -/
def Thread.turnAt (t : Thread) : Nat := if t.words = Words.none then t.lastIssue else 0

/-- Whether a thread has yielded its turn on its lane to another (R250): one that could issue there has not issued since. -/
def State.yieldsTurn (s : State) (x : Workgroup) (g : Group) (i : Nat) (t : Thread) : Bool :=
  t.yielded && s.wgs.any fun y => y.core == x.core && y.groups.any fun h => y.mayIssue h &&
    (List.range h.threads.length).any fun j => 4 * h.quad + j == 4 * g.quad + i &&
      ((h.threads[j]?).map fun u => u.runnable && decide (u.turnAt < t.lastIssue)).getD false

/-- Whether a thread of a workgroup that may issue has a request of its next access on its way (R281). -/
def Workgroup.requesting (x : Workgroup) : Bool :=
  x.groups.any fun g => x.mayIssue g && g.threads.any fun t => t.runnable && t.request.isSome

/-- Whether a thread of a group could issue but for the turns of its quad's lanes. While the request of a thread is on its way the others
of its workgroup wait, whose requests come after it in its sequence (R282). -/
def State.readyAs (s : State) (may : Thread → Bool) (x : Workgroup) (g : Group) (i : Nat) : Bool :=
  ((g.threads[i]?).map fun t =>
    may t && t.runnable && (t.request.isSome || (!x.requesting && !s.yieldsTurn x g i t))).getD false

/-- Whether two threads of a group, by number, stand at one word. -/
def Group.together (g : Group) (i j : Nat) : Bool :=
  match g.threads[i]?, g.threads[j]? with
  | some t, some u => t.standsWith u
  | _, _ => false

/-- The issue by which the turns of a group's threads go. -/
def Group.turnAt (g : Group) (i : Nat) : Nat := ((g.threads[i]?).map Thread.turnAt).getD 0

/-- Whether it is the turn of the lanes of a thread's quad that stand where it does (R10): no ready lane of the quad has gone longer
without an issue than each of them. The last issue of lanes that have just come together is that of the one which has gone longest
without (DESIGN CHOICE: notes/assumptions/118). -/
def Group.hasTurn (g : Group) (ready : Nat → Bool) (i : Nat) : Bool :=
  let quad := (List.range g.threads.length).filter fun k => k / 4 == i / 4 && ready k
  quad.all fun k => quad.any fun m => g.together m i && decide (g.turnAt m ≤ g.turnAt k)

/-- The threads of a group that issue with a thread (R10, R11): those that stand where it does, in quads where a thread of its weave
stands there too and whose turn it is (DEDUCED: notes/assumptions/7). -/
def Group.issueWith (g : Group) (ready : Nat → Bool) (f : Nat) : List Nat :=
  let weaveOf (i : Nat) : Option Nat := (g.threads[i]?).map Thread.weave
  let at_ := (List.range g.threads.length).filter fun i => ready i && g.together i f && g.block i == g.block f && g.hasTurn ready i
  at_.filter fun i => at_.any fun k => k / 4 == i / 4 && weaveOf k == weaveOf f

/-- The threads that issue when one of some threads may: the first of them that is ready and has its turn, and those that issue
with it. -/
def State.weaveOf (s : State) (may : Workgroup → Group → Thread → Bool) (u : IssueSet) : List Nat :=
  match s.wg? u.wg with
  | none => []
  | some x => match x.groups[u.grp]? with
    | none => []
    | some g =>
      let ready := s.readyAs (may x g) x g
      match u.gtids.find? fun i => ready i && g.hasTurn ready i with
      | none => []
      | some f => g.issueWith ready f

/-- The threads that issue together when one of some threads does. -/
def State.weave (s : State) (u : IssueSet) : List Nat := s.weaveOf (fun x g _ => x.mayIssue g) u

/-- Threads issue: each takes the number of the issue and the weave of the first of them; its age and its yielded turn end (R10,
R11, R250, R308). -/
def State.markIssue (s : State) (w g : Nat) (ts : List Nat) : State :=
  let n := s.issues + 1
  ts.foldl (init := { s with issues := n }) fun s t => s.modThread ⟨w, g, t⟩ fun x =>
    { x with lastIssue := n, weave := ts.headD 0, aged := false, yielded := false, readyAt := s.tick }

/-- The weaves of a group part where its threads have gone different ways (R11). -/
def weavesParted (w g : Nat) (o : Out) : Out := match o with | .next s => .next (s.splitWeaves w g) | o => o

/-- Sets the marks of threads whose instruction group is counted as issued. -/
def State.setCounted (s : State) (w g : Nat) (ts : List Nat) (on : Nat → Bool) : State :=
  ts.foldl (init := s) fun s i => s.modThread ⟨w, g, i⟩ fun t => { t with counted := on i }

/-- A decoded word is executed by threads. -/
def State.run (s : State) (w g : Nat) (ts : List Nat) (ir : Word) : Out :=
  exec (decode ir) { s.setCounted w g ts (fun _ => true) with ir := ir, cur := some { wg := w, grp := g, gtids := ts } }

/-- Whether a thread that has executed a word has issued its instruction group (R26, R381): it has gone on, has exited, or waits with
its part done. One that must issue the word again, or has taken a fault at it, has not. -/
def Thread.hasIssued (t : Thread) : Bool :=
  match t.life with
  | .live => !t.counted || !(t.wait == .running || t.wait == .engine)
  | .exited => true
  | .killed => false

/-- Counts the issue of an instruction group (R381) whose word threads of a machine `r` have executed, once for all its tries
(DEDUCED: notes/assumptions/17). -/
def State.countIssue (r : State) (x : Workgroup) (g : Nat) (ts : List Nat) (i : Instr) (o : Out) : Out :=
  match o with
  | .next s =>
    let before (t : Nat) : Bool := ((r.thread? ⟨x.id, g, t⟩).map Thread.counted).getD false
    let did (t : Nat) : Bool := ((s.thread? ⟨x.id, g, t⟩).map Thread.hasIssued).getD (i == .exit)
    let s := if beginsGroup i && ts.any (fun t => did t && !before t) then s.countOf x x.core else s
    .next (s.setCounted x.id g (ts.filter fun t => !did t) before)
  | o => o

/-- A weave of a workgroup issues the word it stands at: the word is fetched, an enabled breakpoint is taken at the first word
of a group (R375), and the decoded word is executed. -/
def State.issueWeave (s : State) (x : Workgroup) (g : Nat) (ts : List Nat) (th : Thread) : Out :=
  let s := s.markIssue x.id g ts
  match s.fetch x.ctx th.wordPc with
  | (s, .error e) => .next (s.takeHits x.id g (ts.map fun t => (t, e)))
  | (s, .ok ir) =>
    let first := th.words.count = 0 && beginsGroup (decode ir)
    let hits := if first then s.breakpointHits x.id g ts else []
    let rest := ts.filter fun t => !(hits.any fun h => h.1 == t)
    if rest.isEmpty then .next (s.takeHits x.id g hits)
    else
      let s := s.takeHits x.id g hits
      s.countIssue x g rest (decode ir) (s.run x.id g rest ir)

/-- Whether words are issued: the module is Ready and its clocks run (R373, R387). -/
def State.issues? (s : State) : Bool := s.running && s.bootState == 6

/-- Threads of a weave issue, if there are any. -/
def State.issueThreads (s : State) (u : IssueSet) (ts : List Nat) : Out :=
  match s.wg? u.wg, ts.head?.bind fun t => s.thread? ⟨u.wg, u.grp, t⟩ with
  | some x, some th => weavesParted u.wg u.grp (s.issueWeave x u.grp ts th)
  | _, _ => .next s

/-- The threads of a parked group that issue an `exit` (R410): they stand at one, and not at an instruction of theirs that has
faulted (DEDUCED: notes/assumptions/7). -/
def State.parkedExit (s : State) (u : IssueSet) : List Nat :=
  s.weaveOf (fun x g t => x.res == .resident && (match g.stop with | .parked _ => true | _ => false) &&
    t.words == Words.none && (t.fault.cause == 0 || t.fault.pc != t.pc) &&
    (match (s.fetch x.ctx t.wordPc).2 with | .ok ir => decode ir == .exit | .error _ => false)) u

/-- The first ready one of the threads named issues, with those that issue with it (DESIGN CHOICE: notes/assumptions/98). -/
def State.issue (s : State) (u : IssueSet) : Out :=
  if !s.issues? then .next s
  else
    let s := s.splitWeaves u.wg u.grp
    let ts := s.weave u
    s.issueThreads u (if ts.isEmpty then s.parkedExit u else ts)

/-! ### Events -/

/-- Whether a constructor is an event: a word is issued by threads, and never comes about by itself. -/
def isEvent (i : Instr) : Bool := (encode i 0).isNone && (match i with | .undefinedInstruction => false | _ => true)

/-- An event comes about. -/
def State.occur (s : State) (i : Instr) (inp : Input) : Out :=
  if isEvent i then exec i { s with input := inp } else .next s

/-! ### Errors of the hardware (R284, R285) -/

/-- A command of an engine meets an uncorrectable error: its group takes the machine check when it is of the matrix or the
lookup engine, and goes on to complete (R335); else its workgroup does, and the command stands. A command of a killed workgroup ends
as it would without the error (R335). -/
def State.commandCheck (s : State) (engine unit : Nat) (addr : Reg) : State :=
  let core := (s.core? unit).bind fun k => if engine = 0 then k.matrixReady else k.lookupReady
  match engine with
  | 2 => match s.activeCopy unit with
    | none => s
    | some (c, x) => if c.dying then s.endDyingCopy unit c x else (s.modCopy unit c.order fun z => { z with stopped := true }).takeFault
        (s.commandDelivery c.wg c.order { trap .machineCheck addr with unit := 2 })
  | 3 => match s.activeLay unit with
    | none => s
    | some (c, p) => if c.dying then s.endDyingLay unit c p else match p.wg with
      | some w => (s.modLay unit fun z => { z with stopped := true }).takeFault (s.commandDelivery w c.order { trap .machineCheck addr with unit := 2 })
      | none => match s.copyLaunchOf c.wg with
        | some (g, n, _) => s.copyNodeFault g n c.wg { trap .machineCheck addr with unit := 2 }
        | none => s
  | 4 => match s.colls.find? fun c => c.id == unit && !c.cmd.stopped && !c.cmd.dying with
    | none => s
    | some c => s.collFault s c { trap .machineCheck addr with unit := 2 }
  | _ => match core with
    | none => s
    | some c => s.takeFault (s.groupDelivery c.wg c.grp { trap .machineCheck addr with unit := 1 })

/-- A machine check of a record in a node's queue (R284, R334): the node is killed, or its region or subtree under those
policies. -/
def State.recordCheck (s : State) (g : Graph) (n : Nat) (addr : Reg) : State :=
  let rcb := ((g.nodes[n]?).map fun (x : Node) => x.desc.rcb).getD 0
  let policy := ((g.region? rcb).map Region.policy).getD 0
  let want := if policy = 2 || policy = 3 then policy else 1
  let fields : LogFields :=
    { ctx := g.ctx, cause := Cause.machineCheck.code, policy := want, unit := 0, acc := 0, rcb := rcb, node := n, group := 0,
      faddr := addr, pc := 0, graphid := g.graphid, launch := 0, nthr := 0 }
  let s := ((s.modGraph g.id fun x => { x with faults := x.faults + 1 }).writeLog fields).1
  let (s, ds) := match want with
    | 2 => s.killNodes g.ctx fun _ d => d.rcb == rcb
    | 3 => s.killNodes g.ctx fun h d => (h.chain d.rcb).contains rcb
    | _ => s.killNode g.id n
  s.takeFaults ds

/-- A dirty sector of the L2 that holds an uncorrectable error is written again with the bits as read (R285). -/
def State.rewriteSector (s : State) (addr : Reg) (dirty : Option (List Byte)) : State :=
  match dirty with
  | none => s
  | some bits =>
    if s.place addr.toNat = .memory then { s with mem := writeBytes s.mem (addr.toNat / 48 * 48) (bits.take 48) } else s

/-- An uncorrectable error is met (R284, R285, R339): threads that issue take the machine check in place of their word's effect; so
do the workgroup of a command, the node of a record, and a context as a whole. A word of an L1 is dropped, and a clean sector of
the L2 is fetched again, without a fault. One that nobody can be named for raises the device's event. -/
def State.damaged (s : State) (d : Damage) (addr : Reg) : State :=
  match d with
  | .access u =>
    if !s.issues? then s
    else
      let ts := s.weave u
      (s.markIssue u.wg u.grp ts).takeHits u.wg u.grp (ts.map fun t => (t, trap .machineCheck addr))
  | .l1 w => s.modWg w fun x => { x with l1 := l1Forget x.l1 (addr.toNat / 4) }
  | .clean => s
  | .unattributed => s.deviceEvent 4 0 addr
  | .command e k => s.commandCheck e k addr
  | .record g n => match s.graph? g with
    | none => s
    | some x => if n < x.nodes.length then s.recordCheck x n addr else s
  | .context c => if (s.ctx? c).isNone then s else s.contextMachineCheck c

/-- An uncorrectable error is counted and met, and the sector of the L2 that held it is sound again (R284, R285). -/
def State.meetDamage (s : State) (d : Damage) (addr : Reg) (pair : Nat) (dirty : Option (List Byte)) : State :=
  if s.running then ((s.countError pair true).damaged d addr).rewriteSector addr dirty else s

/-! ### What the module does by itself -/

/-- An event of the module's own, with what it reads. -/
abbrev Happening := Instr × Input

/-- An event that reads a number. -/
def happens (i : Instr) (unit : Nat) : Happening := (i, { Input.none with unit := unit })

/-- An event that reads two numbers. -/
def happens2 (i : Instr) (unit sub : Nat) : Happening := (i, { Input.none with unit := unit, sub := sub })

/-- An event that reads a thread. -/
def happensTo (i : Instr) (t : ThreadId) : Happening := (i, { Input.none with tid := t })

/-- The next event of the boot sequence (R387): what is trained succeeds. -/
def State.bootEvents (s : State) : List Happening :=
  match s.bootState.toNat with
  | 0 => [happens .powerOn 0]
  | 1 => [happens .bootMeasure 0]
  | 2 => [happens .bootLoad 0]
  | 3 => [happens .hbmTrainingDone 0]
  | 4 => [happens .linkTrainingDone 0]
  | 5 =>
    let settled := (List.range 96).all fun p =>
      !(s.portEn.getLsbD p && s.portsFitted.getLsbD p) || ((s.links[p]?).map fun l => l.state == .up || l.state == .failed).getD true
    if settled then [happens .fabricPortsSettled 0] else []
  | _ => []

/-- The ports whose wait for a partner has ended (R350). -/
def State.linkEvents (s : State) : List Happening :=
  ((List.range s.links.length).filter fun p => ((s.links[p]?).map fun l => l.state == .detect && decide (l.since + 2 ^ 24 ≤ s.tick)).getD false).map
    (happens .linkDetectTimeout)

/-- The first thread of the machine that satisfies a test. -/
def State.findThread (s : State) (p : Workgroup → Group → Thread → Bool) : Option ThreadId :=
  s.wgs.findSome? fun x => (List.range x.groups.length).findSome? fun g =>
    match x.groups[g]? with
    | none => none
    | some gr => ((List.range gr.threads.length).find? fun t => ((gr.threads[t]?).map fun th => p x gr th).getD false).map
        fun t => ⟨x.id, g, t⟩

/-- Results that arrive, bounded waits that end, and weaves that age (R22, R115, R308). -/
def State.threadEvents (s : State) : List Happening :=
  ((s.findThread fun _ _ t => !t.arriving.isEmpty).map (happensTo .resultArrival)).toList ++
  ((s.findThread fun _ _ t => t.isLive && (match t.wait with | .fuse d => decide (d ≤ s.tick) | _ => false)).map
    (happensTo .fuseTimeout)).toList ++
  ((s.findThread fun x g t => x.mayIssue g && !t.aged && s.agedNow t).map
    (happensTo .issueAging)).toList

/-- What the running command of a core's copy engine can do. -/
def State.copyEvent (s : State) (core : Nat) : Option Happening :=
  match s.activeCopy core with
  | none => none
  | some (c, x) => if c.dying then some (happens .copyCommandComplete core) else match s.advanceCopy core c x with
    | (_, _, some _) => some (happens2 .engineTranslationFault core 0)
    | (_, some _, none) => some (happens .copyCommandComplete core)
    | (t, none, none) =>
      if (((t.core? core).bind Core.running?).map Command.progress) = some c.progress then none else some (happens .copyCommandComplete core)

/-- What the command at the head of a tambour's queue can do. -/
def State.layEvent (s : State) (cluster : Nat) : Option Happening :=
  match s.activeLay cluster with
  | none => none
  | some (c, p) => if c.dying then some (happens .tambourCommandComplete cluster) else match s.advanceLay cluster c p with
    | (_, _, some _) => some (happens2 .engineTranslationFault cluster 1)
    | _ => some (happens .tambourCommandComplete cluster)

/-- The engines' next events (R169, R193, R217, R232, R253). -/
def State.engineEvents (s : State) : List Happening :=
  (List.range s.cores.length).flatMap (fun i => match s.cores[i]? with
    | none => []
    | some k =>
      (if k.matrixReady.isSome then [happens .matrixCommandComplete i] else []) ++
      (if k.lookupReady.isSome then [happens .lookupCommandComplete i] else []) ++
      (if k.copyRunning.isSome then (s.copyEvent i).toList else [])) ++
  (List.range s.tambours.length).flatMap fun i => (s.layEvent i).toList

/-- The slice maps in use (R280): number 0, and those of the contexts' slice groups. -/
def State.maps (s : State) : List Nat := (0 :: s.ctxs.map Context.sliceGroup).eraseDups

/-- The change of map that the retirement of a masked slice makes next (R281, R396): a bucket of it passes to the lowest slice in
service that no mask names. -/
def State.retirement (s : State) : Option Happening :=
  match (List.range 128).find? fun i => s.slicesInService.getLsbD i && !s.masked (768 + i) with
  | none => none
  | some y =>
    ((s.maps.flatMap fun m => (List.range 1024).map (1024 * m + ·)).find? fun k => s.masked (768 + s.sliceOf k) && !s.handing k).map
      fun k => happens2 .sliceMapChange k y

/-- The requests of threads that their retired homes refuse (R281). -/
def State.refusedThread (s : State) : Option Happening :=
  (s.findThread fun _ _ t => (t.request.map fun r => s.refuses r.1 r.2).getD false).map fun id =>
    (.generationRefusal, { Input.none with tid := id, ok := false })

/-- What a workgroup's oldest pending write-through does next (R268, R273, R281). -/
def State.writeEvent (s : State) (x : Workgroup) : Option Happening :=
  match x.writes with
  | [] => none
  | t :: _ =>
    if s.refuses t.gen (s.bucketKey x.ctx t.addr) then some (happens2 .generationRefusal x.id 0)
    else if s.lazyCtx x.ctx then (if t.sent + 32768 ≤ s.tick then some (happens .lazyWritebackDeadline x.id) else none)
    else some (happens2 .writeThroughAck x.id 0)

/-- What the memory hierarchy does next: handovers, refusals, write-throughs, which are performed at once unless deferred, and the
retirement of masked slices (R268, R273, R281, R396). -/
def State.memoryEvents (s : State) : List Happening :=
  (s.handovers.head?.map fun e => happens .bucketHandover e.1).toList ++ s.refusedThread.toList ++
  (if s.islandMask = 0 then [] else s.retirement.toList) ++ s.wgs.filterMap s.writeEvent

/-- The packets that can be processed, and the waits that have ended (R289, R290). -/
def State.packetEvents (s : State) : List Happening :=
  (match s.nextQueue with
   | none => []
   | some (n, q) => match q.word0 with
     | none => []
     | some w => match packetType w with
       | 0 => [happens .nopPacket n]
       | 1 => [happens .launchPacket n]
       | 2 => [happens .waitPacket n]
       | 3 => [happens .signalPacket n]
       | _ => [happens .reservedTypePacket n]) ++
  s.queues.flatMap fun e => match e.2.buffer.head? with
    | none => []
    | some b => if e.2.blocked && (s.waitMet e.2.ctx b).2 then [happens .waitPacketRecheck e.1] else []

/-- What a node's queue can do (R297, R298, R300). -/
def State.nodeEvents (s : State) (g n : Nat) (nd : Node) : List Happening :=
  ((nd.waiting.head?.filter (s.waitEnds g n nd)).map fun _ => happens2 .recordAdmission g n).toList ++
  (match nd.queue.head? with
   | none => []
   | some r => if nd.desc.gather = 2 && !nd.timerDue && decide (r.entered + nd.desc.timer ≤ s.tick) then
       [happens2 .gatherTimerExpiry g n] else [])

/-- Whether a launch of a copy node can go on (R234, R318): its next `lay` finds room, or its record goes to the next port. -/
def State.copyGoes (s : State) (g : Graph) (n : Nat) (l : CopyLaunch) : Bool :=
  l.heldBy.isNone && !l.records.isEmpty &&
  match l.forwarding with
  | none => !s.tambourFull l.cluster && !(s.tambours.any fun q => q.any fun c => c.bar.isNone && c.wg == l.id)
  | some [] => !s.copyWaits l.id
  | some (p :: _) => !s.copyWaits l.id &&
      match (g.nodes[n]?).bind fun (x : Node) => x.desc.ports[p]? with
      | some e => !e.remote || s.hasCredit g.id n p
      | none => true

/-- The host's further records, launches of copy nodes that go on, what can never launch, the end of a graph, its stalls, its records to packages out of reach (R234, R294, R301, R307, R309,
R311, R318, R356). -/
def State.graphEvents (s : State) (g : Graph) : List Happening :=
  let noted := s.noteStalls
  let left := s.strandLeft g.id
  let copies := (List.range g.nodes.length).filter fun n =>
    ((g.nodes[n]?).map fun (x : Node) => x.copyLaunches.any (s.copyGoes g n)).getD false
  (if g.feeding && !g.hostWaits then [happens2 .recordAdmission g.id g.entry] else []) ++
  copies.map (happens2 .recordAdmission g.id) ++
  (if !g.feeding && (left.outstanding g.id = 0 || (left.graph? g.id).map Graph.stranded ≠ some g.stranded) then [happens .graphEnd g.id]
    else []) ++
  ((if g.regions.any fun r => r.timeout ≠ 0 then
      match noted.graph? g.id with
      | none => []
      | some h => (h.regions.filter fun r => noted.stallDue h r).map fun r => happens2 .graphStall g.id r.index
    else [])) ++
  g.remoteOut.filterMap fun e =>
    match (g.nodes[e.1]?).bind fun x => x.desc.ports[e.2.1]? with
    | none => none
    | some p =>
      if !s.reachable p.pkg && decide (e.2.2 + s.fabricTimeout g.ctx ≤ s.tick) then
        some (.unreachableRecordTimeout, { Input.none with unit := g.id, sub := e.1, val := BitVec.ofNat 64 e.2.1 })
      else none

/-- The die whose placement comes next: the one whose candidate goes before those of the others by the order of R303. -/
def State.placingDie (s : State) : Option Nat :=
  let t := s.dropStale
  let firsts : List (Nat × Candidate) := (List.range 4).filterMap fun d => ((t.candidates d).find? t.placeable).map fun c => (d, c)
  (firsts.foldl (init := none) fun (b : Option (Nat × Candidate)) e => match b with
    | none => some e
    | some x => if e.2.before x.2 then some e else b).map Prod.fst

/-- Placement and pre-emption (R303, R306). -/
def State.placementEvents (s : State) : List Happening :=
  (s.placingDie.map (happens .launchPlacement)).toList ++
  ((List.range s.cores.length).filter fun k => match (s.core? k).bind Core.reserved with
    | none => false
    | some r => decide (r.since + Config.reservationTicks ≤ s.tick) &&
        (match execPreEmption { s with input := { Input.none with unit := k } } with
         | .next t => t.wgs ≠ s.wgs
         | _ => false)).map (happens .preEmption)

/-- The event of the command that the mailbox runs (R393). -/
def State.mailboxEvent (s : State) : Option Happening :=
  if s.mbDone || s.stopped then none
  else match s.mbOp with
    | 1 => some (happens .ctxCreate 0)
    | 2 => some (happens .ctxDestroy 0)
    | 3 => some (happens .queueSet 0)
    | 4 => some (happens .inval 0)
    | 5 => some (happens .routeSet 0)
    | 6 => if s.mbWord 1 = 1 then some (happens .portEnable 0)
           else if s.mbWord 1 = 2 then some (happens .portClearFailed 0) else some (happens .portDisable 0)
    | 7 => some (happens .pkgSet 0)
    | 8 => some (happens .cxlSet 0)
    | 9 => some (happens .powerSet 0)
    | 10 => some (happens .mrExtend 0)
    | 11 => some (happens .attest 0)
    | 12 => some (happens .certGet 0)
    | 13 => some (happens .imageLoad 0)
    | 14 => some (happens .imageWrite 0)
    | 15 => some (happens .reset 0)
    | _ => none

/-- The mailbox's command, gang launches and remote records whose time has come, collectives of one participant or of killed
workgroups, reports (R356, R357, R359, R363, R391, R393). -/
def State.otherEvents (s : State) : List Happening :=
  s.mailboxEvent.toList ++
  ((s.colls.filter fun c => c.cmd.dying || (c.members.length = 1 && (s.collReady c.id).isSome)).map fun c => happens .collComplete c.id) ++
  (((List.range s.remoteRecords.length).filter fun i => match s.remoteRecords[i]? with
      | none => false
      | some r => decide (r.since + s.fabricTimeout r.ctx ≤ s.tick)).map (happens .remoteRecordTimeout)) ++
  (s.gangLeads.flatMap fun g =>
    if g.decision.isNone then
      (if (g.outcome (decide (g.since + s.fabricTimeout g.ctx < s.tick))).isSome then [happens .gangDecision g.id] else [])
    else if g.repeated + 65536 ≤ s.tick then [happens .gangDecisionRepeat g.id] else []) ++
  ((s.ctxs.filter fun c => c.attreq ≠ 0).map fun c => happens .attestationReportDone c.id)

/-- The first of lists of events. -/
def firstOf : List (Unit → List Happening) → Option Happening
  | [] => none
  | l :: t => match l () with
    | e :: _ => some e
    | [] => firstOf t

/-- The module's own next event; a module that has failed still carries out a command of the mailbox. -/
def State.ownEvent (s : State) : Option Happening :=
  if !s.running then s.mailboxEvent
  else firstOf
    [ fun _ => s.bootEvents, fun _ => s.linkEvents, fun _ => s.threadEvents, fun _ => s.engineEvents, fun _ => s.memoryEvents,
      fun _ => s.graphs.flatMap (fun g => (List.range g.nodes.length).flatMap fun n => match g.nodes[n]? with
        | none => []
        | some nd => s.nodeEvents g.id n nd),
      fun _ => s.packetEvents, fun _ => s.placementEvents, fun _ => s.graphs.flatMap s.graphEvents, fun _ => s.otherEvents ]

/-- A thread that could issue: its core, its class, its last issue, its first quad and its slot (R308). -/
structure Ready where
  core : Nat
  cls : Nat
  last : Nat
  quad : Nat
  slot : Nat
  tid : ThreadId
  deriving DecidableEq, Repr

/-- Whether a thread issues before another of its core (R308). -/
def Ready.before (a b : Ready) : Bool :=
  if a.cls ≠ b.cls then decide (b.cls < a.cls)
  else if a.last ≠ b.last then decide (a.last < b.last)
  else if a.quad ≠ b.quad then decide (a.quad < b.quad)
  else decide (a.slot < b.slot)

/-- The threads that could issue now. -/
def State.readyThreads (s : State) : List Ready :=
  s.wgs.flatMap fun x => (List.range x.groups.length).flatMap fun g =>
    match x.groups[g]? with
    | none => []
    | some gr =>
      if !x.mayIssue gr then []
      else
        let ready := s.readyAs (fun _ => true) x gr
        (List.range gr.threads.length).filterMap fun t => match gr.threads[t]? with
          | none => none
          | some th =>
            if ready t && gr.hasTurn ready t then
              some { core := x.core, cls := if th.aged then 16 else (s.regionOf x).prio, last := th.turnAt, quad := gr.quad + t / 4,
                     slot := gr.slot, tid := ⟨x.id, g, t⟩ }
            else none

/-- The number of a core's last issue. -/
def State.coreLast (s : State) (c : Nat) : Nat := lastIssueOf (s.wgs.filter fun x => x.core == c)

/-- The core, of those with a thread that could issue, whose last issue lies furthest in the past: with that issue. -/
def State.nextCore (s : State) (rs : List Ready) : Option (Nat × Nat) :=
  (rs.map Ready.core).eraseDups.foldl (init := none) fun b c =>
    let n := s.coreLast c
    match b with
    | none => some (n, c)
    | some (m, d) => if n < m then some (n, c) else some (m, d)

/-- The issue that the module makes by itself next (R308): of the core that has gone longest without one, the thread of the
highest class that has, with those that issue with it. -/
def State.ownIssue (s : State) : Option IssueSet :=
  if !s.issues? then none
  else
    let all := s.readyThreads
    let mine : List Ready := match s.nextCore all with
      | none => []
      | some (_, c) => all.filter fun (r : Ready) => r.core == c
    match mine with
    | [] => none
    | r :: t =>
      let b : Ready := t.foldl (init := r) fun (b x : Ready) => if x.before b then x else b
      some { wg := b.tid.wg, grp := b.tid.grp, gtids := [b.tid.gtid] }

/-- A thread that cannot issue is not ready: its time of waiting for an issue begins anew (R308). -/
def State.noteReady (s : State) : State :=
  { s with wgs := s.wgs.map fun (x : Workgroup) => { x with groups := x.groups.map fun g =>
      { g with threads := g.threads.map fun t => if x.mayIssue g && t.runnable then t else { t with readyAt := s.tick } } } }

/-- The tick moves on (R370); what is left of the number stays first on the agenda (DESIGN CHOICE: notes/assumptions/16). -/
def State.advance (s : State) (n : Nat) : State :=
  let (s, left) := s.tickOn n
  let s := s.noteReady
  if left = 0 then s else { s with agenda := .advance left :: s.agenda }

/-- What the module does when nothing is on the agenda: its own next event; else its next issue, after which a tick passes;
else a tick passes. -/
def State.idle (s : State) : Out :=
  match s.ownEvent with
  | some (i, inp) => s.occur i inp
  | none => match s.ownIssue with
    | some u => { s with agenda := [.advance 1] }.issue u
    | none => .next (s.advance 1)

/-- A context enters lazy-release mode or leaves it (R268): as it leaves, what its workgroups have deferred is performed. -/
def State.setLazy (s : State) (c : Nat) (on : Bool) : State :=
  let s := if on then s else ((s.wgs.filter fun w => w.ctx == c).map Workgroup.id).foldl (init := s) State.drainAll
  s.modCtx c fun x => { x with lazy := on }

/-- The request of a thread's next access is sent to a bucket of its context's map, under the map's generation (R281). -/
def State.sendRequest (s : State) (t : ThreadId) (bucket : Nat) : State :=
  match s.wg? t.wg with
  | none => s
  | some x =>
    let m := s.mapOf x.ctx
    if x.requesting then s
    else s.modThread t fun th => if th.isLive && th.request.isNone then { th with request := some (s.generationOf m, 1024 * m + bucket % 1024) } else th

/-- What comes about while the module's clocks run. -/
def State.ifRunning (s : State) (t : State) : Out := .next (if s.running then t else s)

/-- A turn of the agenda (DESIGN CHOICE: notes/assumptions/83). -/
def State.take (s : State) (t : Turn) : Out :=
  match t with
  | .issue u => s.issue u
  | .event i inp => s.occur i inp
  | .advance n => .next (s.advance n)
  | .damage d addr pair dirty => .next (s.meetDamage d addr pair dirty)
  | .corrected pair => s.ifRunning (s.countError pair false)
  | .lazyMode c on => s.ifRunning (s.setLazy c on)
  | .early t sp a n home => s.ifRunning (s.readEarly t.wg t.grp t.gtid (Space.ofCode sp) a n home)
  | .earlyAcquire t sp a n sc => s.ifRunning (s.acquireEarly t.wg t.grp t.gtid (Space.ofCode sp) a n sc)
  | .send t bucket => s.ifRunning (s.sendRequest t bucket)
  | .land w => s.ifRunning (s.landSome w)
  | .partway tambour unit => s.ifRunning (if tambour then s.layPartway unit else s.copyPartway unit)
  | .hostWrite pasid a bs =>
    .next { s with hostMem := writeBytes s.hostMem ((match pasid with | none => 0 | some p => 2 ^ 64 * (p % 2 ^ 20 + 1)) + a.toNat) bs }

/-- A turn while the power is off (R393): only its return can come about. -/
def State.takeDark (s : State) (t : Turn) : Out :=
  match t with
  | .event .powerOn inp => s.occur .powerOn inp
  | _ => .fault .noPower

/-! ### Placing an instruction where it is fetched next -/

/-- The issue that comes next and the physical address its word is fetched from, if a weave is ready to issue one. -/
def State.fetchSite (s : State) : Option (IssueSet × Nat) :=
  if !s.power then none
  else match s.ownIssue with
    | none => none
    | some u => match s.wg? u.wg, (s.weave u).head?.bind fun t => s.thread? ⟨u.wg, u.grp, t⟩ with
      | some x, some th => match (s.translate x.ctx th.wordPc.toNat .execute).2 with
        | .ok pa => if s.place pa = .memory then some (u, pa) else none
        | .error _ => none
      | _, _ => none

/-- A context that software has created with a page table whose root is at `root` and with nothing else set up. -/
def Context.bare (id : Nat) (root : Reg) : Context :=
  { id := id, pasid := 0, sliceGroup := 0, root := root, rcbBase := 0, logBase := 0, logSize := 6, logVector := 0, saveBase := 0,
    saveSize := 0, saveUsed := 0, bindBase := 0, commBase := 0, fabricTimeout := 65536, lazy := false, failed := false, hregion := 0,
    traceEn := false, brkEn := false, brkpc := Vector.replicate 4 0, dbgsel := 0, traceBase := 0, traceSize := 8, traceProd := 0,
    traceCons := 0, traceDropped := 0, sbase := 0, sctl := 80, sprod := 0, counters := [], sampled := none, attreq := 0, cevt := 0,
    gangLaunch := 0, flprod := 0, flcons := 0, fllost := 0, nextSeq := 0, service := 0 }

/-- A workgroup of one group of one thread at an address, with every register, scratchpad, tile and table that a core can give
one. -/
def Workgroup.bare (id ctx : Nat) (pc : BitVec 56) : Workgroup :=
  { id := id, ctx := ctx, graph := id, node := 0, launch := 0, depth := 0, rank := 0, peers := [], core := 0, birthCore := 0, res := .resident, since := 0,
    regq := 4, spadq := 16, l1q := 4, exch := 8, tilesHeld := 8, tablesHeld := 8,
    groups := [Group.entry 0 64 0 0 0 [Thread.entry pc 0 1]], barriers := Vector.replicate 16 Barrier.reset,
    gangs := Vector.replicate 4 { valid := false, members := 0 }, tiles := Vector.replicate 8 [], tables := Vector.replicate 8 Table.reset,
    eflags := 0, spad := [], shadow := [], records := List.replicate 16 0, recSize := 16, per := 1, recCount := 1, l1 := [], writes := [],
    reqSeq := [], inbound := [], saved := [] }

/-- The machine with a workgroup of one thread that stands at an address of a context of its own, whose page table maps the
first GiB of the virtual addresses to the first of memory (R343, R344): what a launch brings about (DESIGN CHOICE: notes/assumptions/5). -/
def State.loaded (s : State) : State :=
  let c := 1024
  let w := s.nextId
  let mem := writeBytes s.mem 0x1000 (leBytes 8 0x2001)
  let mem := writeBytes mem 0x2000 (leBytes 8 0x3001)
  let mem := writeBytes mem 0x3000 (leBytes 8 0x1F)
  { s with power := true, bootState := 6, stopped := false, mem := mem, nextId := w + 1,
           ctxs := Context.bare c 0x1000 :: s.ctxs.filter (fun x => x.id ≠ c), tlb := s.tlb.filter (fun t => t.ctx ≠ c),
           wgs := s.wgs ++ [Workgroup.bare w c 0x100000],
           agenda := .issue { wg := w, grp := 0, gtids := [0] } :: s.agenda }

/-- The machine with a word placed where its next step fetches one. -/
def State.placeWord (s : State) (w : Word) : State :=
  match s.fetchSite with
  | some (u, pa) => { s with mem := writeBytes s.mem pa (leBytes 4 w.toNat), agenda := .issue u :: s.agenda }
  | none =>
    let s := s.loaded
    { s with mem := writeBytes s.mem 0x100000 (leBytes 4 w.toNat) }

end Sys2Proof.Machine
end

