-- ==== Sys2Proof/Machine/Step.lean ====
section
/-! DEFINITION. One step of the module: the next turn of the agenda, or what the module does by itself. -/

namespace Sys2Proof.Machine

/-- One step. -/
def step (s : State) : Host.Outcome State Fault Refusal :=
  match s.agenda with
  | [] => if s.power then s.idle else .fault .noPower
  | t :: rest => if s.power then State.take { s with agenda := rest } t else State.takeDark { s with agenda := rest } t

/-- The machine with an instruction of `nbits` bits stored where the next step fetches one. -/
def State.withFetchWord (s : State) (nbits w : Nat) : State := s.placeWord (BitVec.ofNat 32 (w % 2 ^ min nbits 32))

end Sys2Proof.Machine
end

