-- ==== Sys2Proof/WellFormed.lean ====
section
/-! DEFINITION. Well-formed instructions: those whose words the hardware does not refuse as undefined (R69, R70, R75, R88). -/

namespace Sys2Proof

/-- Whether an instruction is well formed: its fields are its own (R75), and its source, destination and predicate codes,
sizes, scopes and other fields are legal (R69, R70, R73, R74, R88 items 2 to 5). An instruction whose fields are not
takes the undefined-instruction fault when it issues. -/
def Instr.wellFormed (i : Instr) : Bool := i.canonical && (Machine.instrForm i).legal

end Sys2Proof
end

