-- ==== Sys2Proof/Safety.lean ====
section
/-! DEFINITION. The terms in which claims are stated: what a safe run is, when threads execute a word normally, what the lanes
of an issue do together, and what an instruction leaves unchanged. -/

namespace Sys2Proof.Machine

open Sys2Proof

/-! ### Runs -/

/-- An outcome that is a next state. -/
def Answers (o : Out) : Prop := ∃ t, o = .next t

/-- A safe state: the module goes on from it. -/
def State.Safe (s : State) : Prop := Answers (step s)

/-! ### Threads that execute a word -/

/-- The threads `ts` of group `g` of workgroup `w` execute the word in hand, and in each of them the checks of R21, R84 and
R88 on a form are passed. -/
structure State.Executes (s : State) (f : Form) (w g : Nat) (ts : List Nat) : Prop where
  cur : s.cur = some ⟨w, g, ts⟩
  nodup : ts.Nodup
  checks : ∀ t ∈ ts, ∃ v, s.view? w g t = some v ∧ f.check v = .ok ()

/-- One thread, with its surroundings `v`, executes the word in hand, and the checks on a form are passed. -/
structure State.Alone (s : State) (f : Form) (w g : Nat) (v : View) : Prop where
  cur : s.cur = some ⟨w, g, [v.gtid]⟩
  view : s.view? w g v.gtid = some v
  check : f.check v = .ok ()

/-- Every live thread of a group executes the word in hand, at one PC with the same words before it, and in each the checks
on a form are passed: the rendezvous of R28 forms. -/
structure State.Together (s : State) (f : Form) (w g : Nat) (gr : Group) (pc : BitVec 56) (ws : Words) : Prop where
  cur : s.cur = some ⟨w, g, gr.liveGtids⟩
  grp : s.grp? w g = some gr
  live : gr.liveGtids ≠ []
  stand : ∀ t ∈ gr.threads, t.isLive = true → t.pc = pc ∧ t.words = ws
  checks : ∀ t ∈ gr.liveGtids, ∃ v, s.view? w g t = some v ∧ f.check v = .ok ()

/-- The lanes of an issue act together: each thread becomes what a function makes of its view BEFORE the instruction, and
nothing else changes (R10, R21: lanes read no other lane's registers). -/
def State.lanes (s : State) (w g : Nat) (ts : List Nat) (f : View → Thread) : State :=
  ts.foldl (init := s) fun x t => match s.view? w g t with
    | none => x
    | some v => x.setThread ⟨w, g, t⟩ (f v)

/-- What a vector instruction makes of a thread: where the mask is true, the result in the destination and the group after
it; where it is false, what R25 and R77 give an inactive lane. -/
def View.vectorResult (d : BitVec 7) (lat : Option Nat) (th : View → Thread) (r : View → Reg) (v : View) : Thread :=
  if v.t.maskTrue v.t.words then ((th v).writeDest d lat (r v)).step else (v.inactiveDest d lat).step

/-- What an instruction that writes a predicate makes of a thread. -/
def View.predResult (p : BitVec 4) (th : View → Thread) (r : View → Bool) (v : View) : Thread :=
  if v.t.maskTrue v.t.words then ((th v).writeFixed (.pred p.toNat) (bit (r v)) 4).step
  else (v.t.inactivePred p.toNat 4).step

/-- The group of a `Together` once all its threads have arrived (R28). -/
def State.gathered (s : State) (w g : Nat) (gr : Group) : State := s.arriveUniform w g gr.liveGtids

/-- What a group-uniform instruction that completes does: an s-register takes a value, flags are raised in every live
thread, and the threads proceed (R28, R64). -/
def State.uniformResult (s : State) (w g : Nat) (gr : Group) (d : BitVec 7) (r : Reg) (fl : FlagSet) : State :=
  (((s.gathered w g gr).groupRaise w g fl).writeScalarDst w g d r).groupSteps w g

/-! ### What is left unchanged -/

/-- A workgroup with every thread's record in place of its own the record of a thread at entry: what else it holds is its windows,
records and shadow bank, its L1 and its write-throughs, its tiles, tables, barrier and gang registers, its engine flags and saved
commands, where it lies, and of each group the scalars, the counts, the walk, the formation and latch, and the stop. -/
def Workgroup.withoutThreads (x : Workgroup) : Workgroup :=
  { x with groups := x.groups.map fun g => { g with threads := g.threads.map fun _ => Thread.entry 0 0 0 } }

/-- Two states that differ in the records of threads alone: every field of the module but its workgroups is the same, and every field
of every workgroup and group but the threads' records. -/
structure State.SameOutside (s t : State) : Prop where
  fields : t = { s with wgs := t.wgs }
  wgs : t.wgs.map Workgroup.withoutThreads = s.wgs.map Workgroup.withoutThreads

end Sys2Proof.Machine
end

