-- ==== Sys2Proof/Certificates/Slice0/Rules.lean ====
section
/-! DEFINITION. The tables that statements quantify over: what the spec's rules give each instruction of a family as its result,
written from the rules' own arithmetic on integers and naturals. -/

namespace Sys2Proof.Rules

open Sys2Proof Sys2Proof.Machine

/-! ### Integer instructions (R98 to R106) -/

/-- An instruction that computes a value and flags from operands A, B and the fourth operand: the instruction, its
destination, its operand codes, its latency class (R83: a fixed distance, or none for a variable one), its value and the
flags it raises. -/
structure IntRule where
  instr : Instr
  dst : BitVec 7
  a : BitVec 7
  b : BitVec 7
  lat : Option Nat
  value : Operands → Reg
  flags : Operands → FlagSet

/-- A function of two operands of `w` bits, zero-extended. -/
def two (w : Nat) (f : BitVec w → BitVec w → BitVec w) (o : Operands) : Reg := (f (o.a.setWidth w) (o.b.setWidth w)).setWidth 64

/-- No flags. -/
def quiet (_ : Operands) : FlagSet := 0

/-- IDZ when the divisor of `w` bits is zero (R44). -/
def byZero (w : Nat) (o : Operands) : FlagSet := if o.b.toNat % 2 ^ w = 0 then flagIDZ else 0

/-- The functions of R99 at a width `w`, by name. -/
structure Fns (w : Nat) where
  add : BitVec w → BitVec w → BitVec w := fun x y => BitVec.ofNat w (x.toNat + y.toNat)
  sub : BitVec w → BitVec w → BitVec w := fun x y => BitVec.ofInt w (x.toNat - y.toNat)
  mul : BitVec w → BitVec w → BitVec w := fun x y => BitVec.ofNat w (x.toNat * y.toNat)
  mulh : BitVec w → BitVec w → BitVec w := fun x y => BitVec.ofInt w (x.toInt * y.toInt / 2 ^ w)
  mulhn : BitVec w → BitVec w → BitVec w := fun x y => BitVec.ofNat w (x.toNat * y.toNat / 2 ^ w)
  div : BitVec w → BitVec w → BitVec w := fun x y =>
    if y.toNat = 0 then BitVec.ofNat w (2 ^ w - 1) else BitVec.ofInt w (x.toInt.tdiv y.toInt)
  divn : BitVec w → BitVec w → BitVec w := fun x y =>
    if y.toNat = 0 then BitVec.ofNat w (2 ^ w - 1) else BitVec.ofNat w (x.toNat / y.toNat)
  rem : BitVec w → BitVec w → BitVec w := fun x y => if y.toNat = 0 then x else BitVec.ofInt w (x.toInt.tmod y.toInt)
  remn : BitVec w → BitVec w → BitVec w := fun x y => if y.toNat = 0 then x else BitVec.ofNat w (x.toNat % y.toNat)
  mini : BitVec w → BitVec w → BitVec w := fun x y => BitVec.ofInt w (min x.toInt y.toInt)
  minn : BitVec w → BitVec w → BitVec w := fun x y => BitVec.ofNat w (min x.toNat y.toNat)
  maxi : BitVec w → BitVec w → BitVec w := fun x y => BitVec.ofInt w (max x.toInt y.toInt)
  maxn : BitVec w → BitVec w → BitVec w := fun x y => BitVec.ofNat w (max x.toNat y.toNat)
  abs : BitVec w → BitVec w → BitVec w := fun x _ => BitVec.ofNat w x.toInt.natAbs
  and : BitVec w → BitVec w → BitVec w := fun x y => BitVec.ofNat w (x.toNat &&& y.toNat)
  or : BitVec w → BitVec w → BitVec w := fun x y => BitVec.ofNat w (x.toNat ||| y.toNat)
  xor : BitVec w → BitVec w → BitVec w := fun x y => BitVec.ofNat w (x.toNat ^^^ y.toNat)
  andn : BitVec w → BitVec w → BitVec w := fun x y => BitVec.ofNat w (x.toNat &&& (2 ^ w - 1 - y.toNat))
  shl : BitVec w → BitVec w → BitVec w := fun x y => if w ≤ y.toNat then 0 else BitVec.ofNat w (x.toNat * 2 ^ y.toNat)
  shr : BitVec w → BitVec w → BitVec w := fun x y => if w ≤ y.toNat then 0 else BitVec.ofNat w (x.toNat / 2 ^ y.toNat)
  sra : BitVec w → BitVec w → BitVec w := fun x y => BitVec.ofInt w (x.toInt / 2 ^ min y.toNat (w - 1))
  rotl : BitVec w → BitVec w → BitVec w := fun x y =>
    BitVec.ofNat w (x.toNat * 2 ^ (y.toNat % w) + x.toNat / 2 ^ (w - y.toNat % w))

/-- R99's `imad` at a width: a product and the fourth operand. -/
def mad (w : Nat) (o : Operands) : Reg := (BitVec.ofNat w (o.a.toNat * o.b.toNat + o.c.toNat)).setWidth 64

/-- Majors 0x01 and 0x02: arithmetic (R98, R99). -/
def arithmetic (d a b : BitVec 7) : List IntRule :=
  let n : Fns 32 := {}
  let l : Fns 64 := {}
  [ ⟨.iadd32 d a b, d, a, b, some 4, two 32 n.add, quiet⟩, ⟨.iadd64 d a b, d, a, b, some 4, two 64 l.add, quiet⟩,
    ⟨.isub32 d a b, d, a, b, some 4, two 32 n.sub, quiet⟩, ⟨.isub64 d a b, d, a, b, some 4, two 64 l.sub, quiet⟩,
    ⟨.imul32 d a b, d, a, b, some 6, two 32 n.mul, quiet⟩, ⟨.imul64 d a b, d, a, b, some 6, two 64 l.mul, quiet⟩,
    ⟨.imulh32 d a b, d, a, b, some 6, two 32 n.mulh, quiet⟩, ⟨.imulh64 d a b, d, a, b, some 6, two 64 l.mulh, quiet⟩,
    ⟨.imulhn32 d a b, d, a, b, some 6, two 32 n.mulhn, quiet⟩, ⟨.imulhn64 d a b, d, a, b, some 6, two 64 l.mulhn, quiet⟩,
    ⟨.idiv32 d a b, d, a, b, none, two 32 n.div, byZero 32⟩, ⟨.idiv64 d a b, d, a, b, none, two 64 l.div, byZero 64⟩,
    ⟨.idivn32 d a b, d, a, b, none, two 32 n.divn, byZero 32⟩, ⟨.idivn64 d a b, d, a, b, none, two 64 l.divn, byZero 64⟩,
    ⟨.irem32 d a b, d, a, b, none, two 32 n.rem, byZero 32⟩, ⟨.irem64 d a b, d, a, b, none, two 64 l.rem, byZero 64⟩,
    ⟨.iremn32 d a b, d, a, b, none, two 32 n.remn, byZero 32⟩, ⟨.iremn64 d a b, d, a, b, none, two 64 l.remn, byZero 64⟩,
    ⟨.imad32 d a b, d, a, b, some 6, mad 32, quiet⟩, ⟨.imad64 d a b, d, a, b, some 6, mad 64, quiet⟩ ]

/-- Majors 0x01 and 0x02: comparisons, logic and shifts (R98, R99). -/
def logic (d a b : BitVec 7) : List IntRule :=
  let n : Fns 32 := {}
  let l : Fns 64 := {}
  [ ⟨.iminI32 d a b, d, a, b, some 4, two 32 n.mini, quiet⟩, ⟨.iminI64 d a b, d, a, b, some 4, two 64 l.mini, quiet⟩,
    ⟨.iminN32 d a b, d, a, b, some 4, two 32 n.minn, quiet⟩, ⟨.iminN64 d a b, d, a, b, some 4, two 64 l.minn, quiet⟩,
    ⟨.imaxI32 d a b, d, a, b, some 4, two 32 n.maxi, quiet⟩, ⟨.imaxI64 d a b, d, a, b, some 4, two 64 l.maxi, quiet⟩,
    ⟨.imaxN32 d a b, d, a, b, some 4, two 32 n.maxn, quiet⟩, ⟨.imaxN64 d a b, d, a, b, some 4, two 64 l.maxn, quiet⟩,
    ⟨.iabs32 d a, d, a, a, some 4, two 32 n.abs, quiet⟩, ⟨.iabs64 d a, d, a, a, some 4, two 64 l.abs, quiet⟩,
    ⟨.and32 d a b, d, a, b, some 4, two 32 n.and, quiet⟩, ⟨.and64 d a b, d, a, b, some 4, two 64 l.and, quiet⟩,
    ⟨.or32 d a b, d, a, b, some 4, two 32 n.or, quiet⟩, ⟨.or64 d a b, d, a, b, some 4, two 64 l.or, quiet⟩,
    ⟨.xor32 d a b, d, a, b, some 4, two 32 n.xor, quiet⟩, ⟨.xor64 d a b, d, a, b, some 4, two 64 l.xor, quiet⟩,
    ⟨.andn32 d a b, d, a, b, some 4, two 32 n.andn, quiet⟩, ⟨.andn64 d a b, d, a, b, some 4, two 64 l.andn, quiet⟩,
    ⟨.shl32 d a b, d, a, b, some 4, two 32 n.shl, quiet⟩, ⟨.shl64 d a b, d, a, b, some 4, two 64 l.shl, quiet⟩,
    ⟨.shr32 d a b, d, a, b, some 4, two 32 n.shr, quiet⟩, ⟨.shr64 d a b, d, a, b, some 4, two 64 l.shr, quiet⟩,
    ⟨.sra32 d a b, d, a, b, some 4, two 32 n.sra, quiet⟩, ⟨.sra64 d a b, d, a, b, some 4, two 64 l.sra, quiet⟩,
    ⟨.rotl32 d a b, d, a, b, some 4, two 32 n.rotl, quiet⟩, ⟨.rotl64 d a b, d, a, b, some 4, two 64 l.rotl, quiet⟩ ]

/-- A function of the low `w` bits of A and an immediate read as `w` bits. -/
def withImm (w : Nat) (f : BitVec w → BitVec w → BitVec w) (imm : Operands → Reg) (o : Operands) : Reg :=
  (f (o.a.setWidth w) ((imm o).setWidth w)).setWidth 64

/-- The extended immediate of R81: the immediate itself, or with wide-immediate hints above it, sign-extended. -/
def extended (n : Nat) (i : BitVec n) (o : Operands) : Reg :=
  match o.wides with
  | [] => BitVec.ofInt 64 i.toInt
  | [w1] => BitVec.ofInt 64 (w1 ++ i).toInt
  | w1 :: w2 :: _ => BitVec.ofInt 64 (w1 ++ w2 ++ i).toInt

/-- Majors 0x04 to 0x0A: the immediate forms (R100 to R102). `i` is an immediate of 12 bits, `m` of 19, `k` an amount below
32, `q` one below 64. -/
def immediates (d a : BitVec 7) (i : BitVec 12) (m : BitVec 19) (k : BitVec 5) (q : BitVec 6) : List IntRule :=
  let n : Fns 32 := {}
  let l : Fns 64 := {}
  let amount (x : Nat) (_ : Operands) : Reg := BitVec.ofNat 64 x
  [ ⟨.iaddImm32 d a i, d, a, a, some 4, withImm 32 n.add (extended 12 i), quiet⟩,
    ⟨.iaddImm64 d a i, d, a, a, some 4, withImm 64 l.add (extended 12 i), quiet⟩,
    ⟨.andImm d a i, d, a, a, some 4, withImm 64 l.and (extended 12 i), quiet⟩,
    ⟨.orImm d a i, d, a, a, some 4, withImm 64 l.or (extended 12 i), quiet⟩,
    ⟨.xorImm d a i, d, a, a, some 4, withImm 64 l.xor (extended 12 i), quiet⟩,
    ⟨.shlImm32 d a k, d, a, a, some 4, withImm 32 n.shl (amount k.toNat), quiet⟩,
    ⟨.shlImm64 d a q, d, a, a, some 4, withImm 64 l.shl (amount q.toNat), quiet⟩,
    ⟨.shrImm32 d a k, d, a, a, some 4, withImm 32 n.shr (amount k.toNat), quiet⟩,
    ⟨.shrImm64 d a q, d, a, a, some 4, withImm 64 l.shr (amount q.toNat), quiet⟩,
    ⟨.sraImm32 d a k, d, a, a, some 4, withImm 32 n.sra (amount k.toNat), quiet⟩,
    ⟨.sraImm64 d a q, d, a, a, some 4, withImm 64 l.sra (amount q.toNat), quiet⟩,
    ⟨.rotlImm32 d a k, d, a, a, some 4, withImm 32 n.rotl (amount k.toNat), quiet⟩,
    ⟨.rotlImm64 d a q, d, a, a, some 4, withImm 64 l.rotl (amount q.toNat), quiet⟩,
    ⟨.movi d m, d, 0x70, 0x70, some 4, extended 19 m, quiet⟩ ]

/-- Major 0x03 (R103 to R105), in terms of the bit functions whose bits `Obligations.BitFunctions` states. -/
def bits (d a b : BitVec 7) : List IntRule :=
  let low (w : Nat) (o : Operands) : BitVec w := o.a.setWidth w
  [ ⟨.popc32 d a, d, a, a, some 6, fun o => BitVec.ofNat 64 (popCount (low 32 o)), quiet⟩,
    ⟨.popc64 d a, d, a, a, some 6, fun o => BitVec.ofNat 64 (popCount (low 64 o)), quiet⟩,
    ⟨.clz32 d a, d, a, a, some 6, fun o => BitVec.ofNat 64 (leadZeros (low 32 o)), quiet⟩,
    ⟨.clz64 d a, d, a, a, some 6, fun o => BitVec.ofNat 64 (leadZeros (low 64 o)), quiet⟩,
    ⟨.ctz32 d a, d, a, a, some 6, fun o => BitVec.ofNat 64 (trailZeros (low 32 o)), quiet⟩,
    ⟨.ctz64 d a, d, a, a, some 6, fun o => BitVec.ofNat 64 (trailZeros (low 64 o)), quiet⟩,
    ⟨.brev32 d a, d, a, a, some 6, fun o => (bitReverse (low 32 o)).setWidth 64, quiet⟩,
    ⟨.brev64 d a, d, a, a, some 6, fun o => bitReverse o.a, quiet⟩,
    ⟨.bfxI64 d a b, d, a, b, some 6, fun o => extractSigned o.a o.b, quiet⟩,
    ⟨.bfxN64 d a b, d, a, b, some 6, fun o => extractField o.a o.b, quiet⟩,
    ⟨.bfi d a b, d, a, b, some 6, fun o => insertField o.a o.b o.c, quiet⟩,
    ⟨.bilv d a b, d, a, b, some 6, fun o => interleave o.a o.b, quiet⟩,
    ⟨.bdilv d a b, d, a, b, some 6, fun o => deinterleave o.a o.b, quiet⟩,
    ⟨.perm8 d a b, d, a, b, some 6, fun o => permuteBytes o.a o.b, quiet⟩,
    ⟨.fsh32 d a b, d, a, b, some 6, fun o => BitVec.ofNat 64
      ((o.a.toNat % 2 ^ 32 * 2 ^ 32 + o.b.toNat % 2 ^ 32) * 2 ^ (o.c.toNat % 32) / 2 ^ 32 % 2 ^ 32), quiet⟩,
    ⟨.fsh64 d a b, d, a, b, some 6, fun o => BitVec.ofNat 64
      ((o.a.toNat * 2 ^ 64 + o.b.toNat) * 2 ^ (o.c.toNat % 64) / 2 ^ 64), quiet⟩ ] ++
  [ ⟨.sextI8 d a, d, a, a, some 4, fun o => BitVec.ofInt 64 (low 8 o).toInt, quiet⟩,
    ⟨.sextI16 d a, d, a, a, some 4, fun o => BitVec.ofInt 64 (low 16 o).toInt, quiet⟩,
    ⟨.sextI32 d a, d, a, a, some 4, fun o => BitVec.ofInt 64 (low 32 o).toInt, quiet⟩,
    ⟨.zextN8 d a, d, a, a, some 4, fun o => BitVec.ofNat 64 (o.a.toNat % 2 ^ 8), quiet⟩,
    ⟨.zextN16 d a, d, a, a, some 4, fun o => BitVec.ofNat 64 (o.a.toNat % 2 ^ 16), quiet⟩,
    ⟨.zextN32 d a, d, a, a, some 4, fun o => BitVec.ofNat 64 (o.a.toNat % 2 ^ 32), quiet⟩,
    ⟨.mov d a, d, a, a, some 4, fun o => o.a, quiet⟩,
    ⟨.dot4I8 d a b, d, a, b, some 6, fun o => (BitVec.ofInt 32 (o.c.toNat % 2 ^ 32 +
      ((List.range 4).map fun j => (bf o.a (8 * j) 8).toInt * (bf o.b (8 * j) 8).toInt).sum)).setWidth 64, quiet⟩,
    ⟨.dot4N8 d a b, d, a, b, some 6, fun o => (BitVec.ofNat 32 (o.c.toNat % 2 ^ 32 +
      ((List.range 4).map fun j => (bf o.a (8 * j) 8).toNat * (bf o.b (8 * j) 8).toNat).sum)).setWidth 64, quiet⟩ ]

/-- Every integer instruction but `addr`, which can trap. -/
def integers (d a b : BitVec 7) (i : BitVec 12) (m : BitVec 19) (k : BitVec 5) (q : BitVec 6) : List IntRule :=
  arithmetic d a b ++ logic d a b ++ immediates d a i m k q ++ bits d a b

/-- What an integer rule says of lanes: in each active lane the value goes to the destination and the flags into the status
word. -/
def IntRule.vectorHolds (r : IntRule) : Prop :=
  ∀ s w g ts, s.Executes (instrForm r.instr) w g ts → isScalarDst r.dst = false →
    exec r.instr s = .next (s.lanes w g ts (View.vectorResult r.dst r.lat
      (fun v => v.t.raise (r.flags (v.operands r.a r.b))) (fun v => r.value (v.operands r.a r.b))))

/-- What an integer rule says of a group whose instruction writes an s-register. -/
def IntRule.scalarHolds (r : IntRule) : Prop :=
  ∀ s w g gr pc ws, s.Together (instrForm r.instr) w g gr pc ws → isScalarDst r.dst = true →
    exec r.instr s = .next (s.uniformResult w g gr r.dst (r.value (gr.operands r.a r.b ws)) (r.flags (gr.operands r.a r.b ws)))

/-- The order of two integers that a condition code of R75 asks for. -/
def compares (c : BitVec 4) (x y : Int) : Bool :=
  (c == 0 && decide (x = y)) || (c == 1 && decide (x ≠ y)) || (c == 2 && decide (x < y)) || (c == 3 && decide (x ≤ y)) ||
  (c == 4 && decide (y < x)) || (c == 5 && decide (y ≤ x))

/-- The integer that a type code of `icmp` reads in a register (R75, R107): `.i32`, `.i64`, `.n32`, `.n64`. -/
def readAs (t : BitVec 4) (r : Reg) : Int :=
  if t = 2 then (r.setWidth 32).toInt else if t = 3 then r.toInt else if t = 6 then (r.setWidth 32).toNat else r.toNat

/-! ### Float instructions (R124 to R136) -/

/-- An instruction that computes a value in each lane and may raise flags: the instruction, its latency class, and what it
makes of a lane's thread (flags, generator) and of its result. -/
structure LaneRule where
  instr : Instr
  dst : BitVec 7
  lat : Option Nat
  thread : View → Thread
  value : View → Reg

/-- What a rule says of lanes. -/
def LaneRule.holds (r : LaneRule) : Prop :=
  ∀ s w g ts, s.Executes (instrForm r.instr) w g ts →
    exec r.instr s = .next (s.lanes w g ts (View.vectorResult r.dst r.lat r.thread r.value))

/-- A float rule: the code written and the flags raised in a lane. -/
def float (i : Instr) (d : BitVec 7) (lat : Option Nat) (f : View → Nat × FlagSet) : LaneRule :=
  ⟨i, d, lat, fun v => v.t.raise (f v).2, fun v => BitVec.ofNat 64 (f v).1⟩

/-- A rule without flags. -/
def plain (i : Instr) (d : BitVec 7) (lat : Option Nat) (f : View → Reg) : LaneRule := ⟨i, d, lat, fun v => v.t, f⟩

/-- One rounding of an exact value of R47 to a format, in a lane's mode, flags of both joined. -/
def rounded (v : View) (f : Fmt) (x : FVal × FlagSet) : Nat × FlagSet :=
  ((f.write v.t.rounding v.t.ftz x.1).1, x.2 ||| (f.write v.t.rounding v.t.ftz x.1).2)

/-- A packed pair of 16-bit elements, each rounded by itself (R132). -/
def packed (f : Fmt) (a b : BitVec 7) (op : Rnd → FVal → FVal → FVal → FVal × FlagSet) (v : View) : Nat × FlagSet :=
  let part (c : Reg) (j : Nat) : FVal := f.operand v.t.ftz (c.toNat / 2 ^ (16 * j) % 2 ^ 16)
  let one (j : Nat) : Nat × FlagSet :=
    rounded v f (op v.t.rounding (part (v.read a) j) (part (v.read b) j) (part v.fourth j))
  ((one 0).1 + 65536 * (one 1).1, (one 0).2 ||| (one 1).2)

/-- A dot product of `k` elements of `w` bits onto the fourth operand, rounded once (R133, R61). -/
def dot (f : Fmt) (k w : Nat) (a b : BitVec 7) (v : View) : Nat × FlagSet :=
  let part (c : Reg) (j : Nat) : FVal := f.operand v.t.ftz (c.toNat / 2 ^ (w * j) % 2 ^ w)
  accumulate v.t.rounding v.t.ftz (fp32.operand v.t.ftz v.fourth.toNat)
    (blockSum ((List.range k).map fun j => (part (v.read a) j, part (v.read b) j)))

/-- FP32 inputs rounded to a format and packed, the first lowest (R134). -/
def pack (f : Fmt) (v : View) (xs : List Nat) : Nat × FlagSet :=
  (xs.map fun x => rounded v f (fp32.operand v.t.ftz x, 0)).foldr (init := (0, 0)) fun r acc => (r.1 + 2 ^ f.width * acc.1, r.2 ||| acc.2)

/-- Majors 0x14 and 0x15 (R126 to R130, R132 to R134). -/
def floats (d a b : BitVec 7) : List LaneRule :=
  let x (v : View) : FVal := fp32.operand v.t.ftz (v.read a).toNat
  let y (v : View) : FVal := fp32.operand v.t.ftz (v.read b).toNat
  let z (v : View) : FVal := fp32.operand v.t.ftz v.fourth.toNat
  let lo (r : Reg) : Nat := r.toNat % 2 ^ 32
  let hi (r : Reg) : Nat := r.toNat / 2 ^ 32
  [ float (.fadd d a b) d (some 8) fun v => rounded v fp32 ((x v).add v.t.rounding (y v)),
    float (.fsub d a b) d (some 8) fun v => rounded v fp32 ((x v).add v.t.rounding (y v).neg),
    float (.fmul d a b) d (some 8) fun v => rounded v fp32 ((x v).mul (y v)),
    float (.ffma d a b) d (some 8) fun v => rounded v fp32 ((x v).fma v.t.rounding (y v) (z v)),
    float (.fmin d a b) d (some 8) fun v => minmax32 false false v.t.ftz (v.read a).toNat (v.read b).toNat,
    float (.fmax d a b) d (some 8) fun v => minmax32 true false v.t.ftz (v.read a).toNat (v.read b).toNat,
    float (.fminn d a b) d (some 8) fun v => minmax32 false true v.t.ftz (v.read a).toNat (v.read b).toNat,
    float (.fmaxn d a b) d (some 8) fun v => minmax32 true true v.t.ftz (v.read a).toNat (v.read b).toNat,
    plain (.fabs d a) d (some 8) fun v => BitVec.ofNat 64 ((v.read a).toNat % 2 ^ 31),
    plain (.fneg d a) d (some 8) fun v => BitVec.ofNat 64 (((v.read a).toNat + 2 ^ 31) % 2 ^ 32),
    plain (.fclass d a) d (some 8) fun v => BitVec.ofNat 64 (2 ^ classOf ((v.read a).setWidth 32)),
    float (.frcp d a) d none fun v => rcp32 v.t.rounding v.t.ftz (x v),
    float (.frsq d a) d none fun v => rsq32 v.t.rounding v.t.ftz (x v),
    float (.fsqrt d a) d none fun v => sqrt32 v.t.rounding v.t.ftz (x v),
    float (.fexp2 d a) d none fun v => exp2Value v.t.ftz (x v),
    float (.flog2 d a) d none fun v => log2Value v.t.ftz (x v),
    float (.fsin d a) d none fun v => sinValue v.t.ftz (x v),
    float (.fcos d a) d none fun v => cosValue v.t.ftz (x v) ] ++
  [ float (.hadd2F16 d a b) d (some 8) (packed fp16 a b fun m x y _ => x.add m y),
    float (.hadd2Bf16 d a b) d (some 8) (packed bf16 a b fun m x y _ => x.add m y),
    float (.hmul2F16 d a b) d (some 8) (packed fp16 a b fun _ x y _ => x.mul y),
    float (.hmul2Bf16 d a b) d (some 8) (packed bf16 a b fun _ x y _ => x.mul y),
    float (.hfma2F16 d a b) d (some 8) (packed fp16 a b fun m x y z => x.fma m y z),
    float (.hfma2Bf16 d a b) d (some 8) (packed bf16 a b fun m x y z => x.fma m y z),
    float (.fdot2F16 d a b) d (some 8) (dot fp16 2 16 a b),
    float (.fdot2Bf16 d a b) d (some 8) (dot bf16 2 16 a b),
    float (.f8dot4E4m3 d a b) d (some 8) (dot e4m3 4 8 a b),
    float (.f8dot4E5m2 d a b) d (some 8) (dot e5m2 4 8 a b),
    float (.fpackF16 d a b) d (some 8) fun v => pack fp16 v [lo (v.read a), lo (v.read b)],
    float (.fpackBf16 d a b) d (some 8) fun v => pack bf16 v [lo (v.read a), lo (v.read b)],
    float (.fpackE4m3 d a b) d (some 8) fun v => pack e4m3 v [lo (v.read a), hi (v.read a), lo (v.read b), hi (v.read b)],
    float (.fpackE5m2 d a b) d (some 8) fun v => pack e5m2 v [lo (v.read a), hi (v.read a), lo (v.read b), hi (v.read b)] ]

/-- Reads and writes of a thread's status registers (R35, R57, R139, R252): each writes the former value of its register to
the destination, then changes it. -/
def statuses (d a : BitVec 7) : List LaneRule :=
  [ ⟨.syswrImode d a, d, none,
      fun v => if (v.read a).toNat % 4 = 3 then v.t else { v.t with imode := BitVec.ofNat 2 (v.read a).toNat },
      fun v => BitVec.ofNat 64 v.t.imode.toNat⟩,
    ⟨.syswrSrg d a, d, none,
      fun v => { v.t with srg := if (v.read a).toNat % 2 ^ 32 = 0 then 1 else BitVec.ofNat 32 (v.read a).toNat },
      fun v => BitVec.ofNat 64 v.t.srg.toNat⟩,
    plain (.fflagsRd d) d none (fun v => BitVec.ofNat 64 v.t.tsw.toNat),
    ⟨.fflagsClr d a, d, none,
      fun v => { v.t with tsw := BitVec.ofNat 32 (v.t.tsw.toNat - (v.t.tsw.toNat &&& (v.read a).toNat) % 64) },
      fun v => BitVec.ofNat 64 v.t.tsw.toNat⟩,
    ⟨.fflagsCtl d a, d, none, fun v => { v.t with tsw := controlTsw v.t.tsw (v.read a) },
      fun v => BitVec.ofNat 64 v.t.tsw.toNat⟩ ]

/-- The special value that a selector of R36 reads: those of the placement are those at launch, for the thread's life. -/
def specialValue (s : State) (g : Nat) (sel : BitVec 8) (v : View) : Reg :=
  if sel = 0 then BitVec.ofNat 64 v.tid else if sel = 1 then BitVec.ofNat 64 (4 * v.grp.birthQuad + v.gtid)
  else if sel = 2 then BitVec.ofNat 64 (v.grp.birthQuad + v.gtid / 4) else if sel = 3 then BitVec.ofNat 64 g
  else if sel = 4 then BitVec.ofNat 64 v.grp.role else if sel = 5 then BitVec.ofNat 64 v.gtid
  else if sel = 6 then BitVec.ofNat 64 v.grp.birthSlot else if sel = 7 then BitVec.ofNat 64 v.wg.birthCore
  else if sel = 8 then BitVec.ofNat 64 (v.wg.birthCore / 4) else if sel = 9 then BitVec.ofNat 64 (v.wg.birthCore / 12)
  else if sel = 10 then BitVec.ofNat 64 s.pkg else if sel = 11 then BitVec.ofNat 64 v.wg.rank
  else if sel = 12 then BitVec.ofNat 64 s.tick else if sel = 13 then v.recidx
  else if sel = 14 then BitVec.ofNat 64 v.wg.recCount else BitVec.ofNat 64 v.wg.ctx


/-! ### Lane collectives (R117 to R123) -/

/-- A lane collective: the instruction, whether it accepts an s-register (R123), and what each member receives, from the members in
ascending position and the member itself. -/
structure CollectiveRule where
  instr : Instr
  value : List Member → Member → Reg

/-- The low 32 bits of a member's operand. -/
def low (m : Member) : BitVec 32 := m.data.setWidth 32

/-- The operand of the member at a position, else one's own (R121). -/
def fromPos (ms : List Member) (me : Member) (p : Int) : Reg := ((ms.find? fun m => (m.pos : Int) = p).map Member.data).getD me.data

/-- The least or greatest of integers; zero for none. -/
def leastOf (l : List Int) : Int := (l.min?).getD 0

/-- The greatest of integers; zero for none. -/
def greatestOf (l : List Int) : Int := (l.max?).getD 0

/-- Major 0x10 (R121, R122). -/
def collectives (d a b : BitVec 7) : List CollectiveRule :=
  [ ⟨.ballot d a b, fun ms _ => memberBits ms fun m => m.data ≠ 0⟩,
    ⟨.voteAny d a b, fun ms _ => if ∃ m ∈ ms, m.data ≠ 0 then 1 else 0⟩,
    ⟨.voteAll d a b, fun ms _ => if ∀ m ∈ ms, m.data ≠ 0 then 1 else 0⟩,
    ⟨.voteEq d a b, fun ms me => if ∀ m ∈ ms, m.data = me.data then 1 else 0⟩,
    ⟨.match32 d a b, fun ms me => memberBits ms fun m => low m = low me⟩,
    ⟨.match64 d a b, fun ms me => memberBits ms fun m => m.data = me.data⟩,
    ⟨.shflIdx d a b, fun ms me => fromPos ms me me.fourth.toNat⟩,
    ⟨.shflUp d a b, fun ms me => fromPos ms me ((me.pos : Int) - me.fourth.toNat)⟩,
    ⟨.shflDn d a b, fun ms me => fromPos ms me ((me.pos : Int) + me.fourth.toNat)⟩,
    ⟨.shflXor d a b, fun ms me => fromPos ms me (BitVec.ofNat 64 me.pos ^^^ me.fourth).toNat⟩ ] ++
  [ ⟨.reduxAdd32 d a b, fun ms _ => BitVec.ofNat 64 ((ms.map fun m => (low m).toNat).sum % 2 ^ 32)⟩,
    ⟨.reduxMinI32 d a b, fun ms _ => (BitVec.ofInt 32 (leastOf (ms.map fun m => (low m).toInt))).setWidth 64⟩,
    ⟨.reduxMinN32 d a b, fun ms _ => (BitVec.ofInt 32 (leastOf (ms.map fun m => ((low m).toNat : Int)))).setWidth 64⟩,
    ⟨.reduxMaxI32 d a b, fun ms _ => (BitVec.ofInt 32 (greatestOf (ms.map fun m => (low m).toInt))).setWidth 64⟩,
    ⟨.reduxMaxN32 d a b, fun ms _ => (BitVec.ofInt 32 (greatestOf (ms.map fun m => ((low m).toNat : Int)))).setWidth 64⟩,
    ⟨.reduxAnd d a b, fun ms _ => ((ms.map low).foldl (· &&& ·) (BitVec.allOnes 32)).setWidth 64⟩,
    ⟨.reduxOr d a b, fun ms _ => ((ms.map low).foldl (· ||| ·) 0).setWidth 64⟩,
    ⟨.reduxXor d a b, fun ms _ => ((ms.map low).foldl (· ^^^ ·) 0).setWidth 64⟩,
    ⟨.reduxAdd64 d a b, fun ms _ => BitVec.ofNat 64 (ms.map fun m => m.data.toNat).sum⟩ ]

/-- A thread arrives at a rendezvous of R118 with a legal mask word, and every thread that its mask names is live; no thread
that waits elsewhere counts on it. -/
structure Arrives (s : State) (f : Form) (b : BitVec 7) (w g : Nat) (v : View) (m : Reg) : Prop where
  alone : s.Alone f w g v
  mask : v.read b = m
  legal : maskBad m v.gtid v.grp.threads.length = false
  live : ∀ j ∈ maskMembers m, ∃ u, v.grp.threads[j]? = some u ∧ u.isLive = true
  idle : v.t.wait = .running
  free : ∀ j u n, j ≠ v.gtid → v.grp.threads[j]? = some u → u.isLive = true → u.wait.mask? = some n → v.gtid ∈ maskMembers n →
    u.pc = v.t.pc ∧ n = m

/-- Every other member of a rendezvous stands at it already. -/
def OthersStand (v : View) (m : Reg) : Prop :=
  ∀ j ∈ maskMembers m, j ≠ v.gtid → ∃ u, v.grp.threads[j]? = some u ∧ u.pc = v.t.pc ∧ u.wait.mask? = some m

/-- The arriving thread, with the queue slot that a queue destination reserves (R118). -/
def arriving (d : BitVec 7) (t : Thread) : Thread := if dstOf d = .push then t.reserve else t

/-! ### Memory instructions (R141 to R149) -/

/-- The address of a load or store, from a thread's operands (R142): its register operand and its scaled immediate, its
scaled immediate of 4 bits, or its two register operands. -/
def loadAddr (i : Instr) (v : View) : Reg :=
  match i with
  | .ld _ a _ z o => mpAddr a o z v
  | .st _ a _ z o => mpAddr a o z v
  | .ldAcq _ a _ z _ o => moAddr a o z v
  | .stRel _ a _ z _ o => moAddr a o z v
  | .ldx _ a b _ z => miAddr a b z v
  | .stx _ a b _ z => miAddr a b z v
  | _ => 0

/-- A load: instruction, destination, space code, size code; the acquire's scope if it is one. -/
structure LoadShape where
  instr : Instr
  d : BitVec 7
  sp : BitVec 2
  sz : BitVec 3
  acq : Option (BitVec 3)

/-- The loads. -/
def loads (d a b : BitVec 7) (sp : BitVec 2) (sz sc : BitVec 3) (o : BitVec 7) (k : BitVec 4) : List LoadShape :=
  [ ⟨.ld d a sp sz o, d, sp, sz, none⟩, ⟨.ldAcq d a sp sz sc k, d, sp, sz, some sc⟩, ⟨.ldx d a b sp sz, d, sp, sz, none⟩ ]

/-- The stores; the release's scope if it is one. -/
def stores (d a b : BitVec 7) (sp : BitVec 2) (sz sc : BitVec 3) (o : BitVec 7) (k : BitVec 4) : List LoadShape :=
  [ ⟨.st d a sp sz o, d, sp, sz, none⟩, ⟨.stRel d a sp sz sc k, d, sp, sz, some sc⟩, ⟨.stx d a b sp sz, d, sp, sz, none⟩ ]

/-- The bytes of an access of a size code (R74). -/
def bytesOf (sz : BitVec 3) : Nat := 2 ^ (sz.toNat % 4)

/-- The value that bytes give a load of a size code (R143): zero-extended, or sign-extended for codes 4 to 6. -/
def loaded (sz : BitVec 3) (bs : List Byte) : Reg :=
  if sz = 4 then BitVec.ofInt 64 (BitVec.ofNat 8 (leNat bs)).toInt
  else if sz = 5 then BitVec.ofInt 64 (BitVec.ofNat 16 (leNat bs)).toInt
  else if sz = 6 then BitVec.ofInt 64 (BitVec.ofNat 32 (leNat bs)).toInt
  else BitVec.ofNat 64 (leNat bs)

/-- An atomic (R147): the instruction, its destination if it has one, its operand codes, its width in bytes, and the new value
from the old one, operand B and the fourth operand, as naturals of that width. -/
structure AtomRule where
  instr : Instr
  dst : Option (BitVec 7)
  a : BitVec 7
  b : BitVec 7
  bytes : Nat
  new : Nat → Nat → Nat → Nat

/-- The number that a natural of `n` bytes stands for: signed or not. -/
def asInt (signed : Bool) (n x : Nat) : Int := if signed then (BitVec.ofNat (8 * n) x).toInt else x % 2 ^ (8 * n)

/-- The lesser, or the greater, of two words (R147). -/
def chosen (signed greater : Bool) (n : Nat) (old b _c : Nat) : Nat :=
  if greater then (if asInt signed n old < asInt signed n b then b else old)
  else (if asInt signed n b < asInt signed n old then b else old)

/-- The width of a type code of `add`, `min` and `max` (`.i32`, `.n32`, `.i64`, `.n64`). -/
def bytes4 (t : BitVec 2) : Nat := if t = 0 ∨ t = 1 then 4 else 8

/-- The width of a type code of the bitwise forms (`.n32`, `.n64`). -/
def bytes2 (t : BitVec 1) : Nat := if t = 0 then 4 else 8

/-- Majors 0x1E and 0x1F (R147, R148). -/
def atomics (d a b : BitVec 7) (t : BitVec 2) (q : BitVec 1) : List AtomRule :=
  let sg : Bool := t = 0 ∨ t = 2
  let both (i j : Instr) (n : Nat) (f : Nat → Nat → Nat → Nat) : List AtomRule := [⟨i, some d, a, b, n, f⟩, ⟨j, none, a, b, n, f⟩]
  both (.atomAdd d a b t) (.aredAdd a b t) (bytes4 t) (fun old x _ => old + x) ++
  both (.atomMin d a b t) (.aredMin a b t) (bytes4 t) (chosen sg false (bytes4 t)) ++
  both (.atomMax d a b t) (.aredMax a b t) (bytes4 t) (chosen sg true (bytes4 t)) ++
  both (.atomAnd d a b q) (.aredAnd a b q) (bytes2 q) (fun old x _ => old &&& x) ++
  both (.atomOr d a b q) (.aredOr a b q) (bytes2 q) (fun old x _ => old ||| x) ++
  both (.atomXor d a b q) (.aredXor a b q) (bytes2 q) (fun old x _ => old ^^^ x) ++
  both (.atomExch d a b q) (.aredExch a b q) (bytes2 q) (fun _ x _ => x) ++
  [⟨.atomCas d a b q, some d, a, b, bytes2 q, fun old x c => if old = x then c else old⟩] ++
  both (.atomFadd d a b) (.aredFadd a b) 4 (fun old x _ => ((fp32.write .rne false ((fp32.decode old).add .rne (fp32.decode x)).1).1)) ++
  both (.atomFmin d a b) (.aredFmin a b) 4 (fun old x _ => (minmax32 false true false old x).1) ++
  both (.atomFmax d a b) (.aredFmax a b) 4 (fun old x _ => (minmax32 true true false old x).1) ++
  both (.atomIncb d a b) (.aredIncb a b) 4 (fun old x _ => if old < x then old + 1 else old) ++
  both (.atomDecb d a b) (.aredDecb a b) 4 (fun old x _ => if x < old then old - 1 else old)

/-- No workgroup has a write-through pending: the homes hold every store made so far. -/
def Settled (s : State) : Prop := ∀ x ∈ s.wgs, x.writes = []

end Sys2Proof.Rules

namespace Sys2Proof.Rules

open Sys2Proof Sys2Proof.Machine

/-- Every word that a workgroup's L1 holds is what its home holds. -/
def Coherent (s : State) (x : Workgroup) : Prop :=
  ∀ e ∈ x.l1, e.value = BitVec.ofNat 32 (leNat (readBytes s.mem (4 * e.addr) 4))

/-- The little-endian bytes of a number (R4). -/
def bytesLe (n v : Nat) : List Byte := (List.range n).map fun j => BitVec.ofNat 8 (v / 2 ^ (8 * j))

/-- What a member supplies to a compressing store or an expanding load (R158): its base, its data or fill, whether it is active. -/
structure Supplied where
  base : Reg
  data : Reg
  active : Bool

/-- The active members of a list, in order. -/
def actives (ms : List Nat) (f : Nat → Supplied) : List Nat := ms.filter fun j => (f j).active

/-- Every other member of a rendezvous of R158 stands at it with what it supplied. -/
def OthersSupply (v : View) (m : Reg) (f : Nat → Supplied) : Prop :=
  ∀ j ∈ maskMembers m, j ≠ v.gtid → ∃ u r, v.grp.threads[j]? = some u ∧ u.pc = v.t.pc ∧ u.pcnt = 0 ∧
    u.wait = .compress m (f j).base (f j).data (f j).active r

/-- R152: what an arrival of `n` makes of an armed barrier register: the phase flips and the counts start again when the arrivals
and bytes are all there, else the arrivals are counted. -/
def arrived (x : Barrier) (n : Nat) : Barrier :=
  if x.arrive + n = x.expect ∧ x.bytesArr = x.bytesExp then { x with phase := !x.phase, arrive := 0, bytesArr := 0 }
  else { x with arrive := x.arrive + n }

/-- A sync of R155 or R157 and its scope: the instruction, its number among the forms, the scope it waits with. -/
def syncs (sc : BitVec 3) : List (Instr × Nat × BitVec 3) := [(.gsync sc, 0, sc), (.wsync sc, 1, sc), (.barSwap, 2, 2)]

end Sys2Proof.Rules

namespace Sys2Proof.Rules

open Sys2Proof Sys2Proof.Machine

/-! ### Engines (R168 to R226) -/

/-- A group-uniform instruction whose rendezvous forms, in a group of a workgroup. -/
structure Gathers (s : State) (i : Instr) (w g : Nat) (x : Workgroup) (gr : Group) : Prop where
  together : ∃ pc ws, s.Together (instrForm i) w g gr pc ws
  wg : s.wg? w = some x

/-- The live threads of a group proceed past their instruction. -/
def Passes (t : State) (w g : Nat) (gr : Group) : Prop :=
  ∀ j u, gr.threads[j]? = some u → u.isLive = true → (t.thread? ⟨w, g, j⟩).map (fun v => (v.pc, v.wait)) = some (u.nextPc, .running)

/-- A command of a group has entered the tail of a queue of its core (R168, R193, R215): the group counts it and proceeds, and
no byte of memory has changed. -/
structure Entered (s t : State) (w g core : Nat) (gr : Group) (queue : Core → List Command) (count : Group → Nat)
    (c : Core → Command) : Prop where
  queue : (t.core? core).map queue = (s.core? core).map fun k => queue k ++ [c k]
  count : (t.grp? w g).map count = some (count gr + 1)
  pass : Passes t w g gr
  mem : t.mem = s.mem
  next : t.nextId = s.nextId + 1

/-- A group takes one fault in every live thread at its instruction (R116, R168). -/
def GroupTraps (s : State) (i : Instr) (w g : Nat) (gr : Group) (x : Trap) : Prop :=
  exec i s = .next ((s.gathered w g gr).takeFault { hits := gr.liveGtids.map fun t => (⟨w, g, t⟩, x) })

/-- A group waits at its instruction for an engine (R16). -/
def GroupHolds (s : State) (i : Instr) (w g : Nat) (gr : Group) : Prop :=
  exec i s = .next ((s.gathered w g gr).groupWaits w g)

/-- The bytes of one K-step of a slab with its header area, for a number of lines (R171). -/
def slabBytes (lines t : Nat) : Nat := lines * 64 + lines * (if t = 13 then 4 else if t = 14 then 8 else 0)

/-- The block size U and the largest KB of an element type (R170). -/
def blockOf (t : Nat) : Nat := if t = 9 ∨ t = 10 then 8 else 32

/-- The fields of an operand descriptor: TYPE, KB, OFFSET, RANK, REM. -/
structure Operand where
  type : Nat
  kb : Nat
  offset : Nat
  rank : Nat
  rem : Bool

/-- The fields of a descriptor word (R170). -/
def operandOf (d : Reg) : Operand :=
  { type := (bf d 60 4).toNat, kb := (bf d 51 3).toNat, offset := (bf d 0 23).toNat, rank := (bf d 58 2).toNat, rem := d.getLsbD 57 }

/-- A legal descriptor word (R170, check 3 of R172) whose slab lies in the window of the workgroup that it names (checks 5
and 6). -/
def SlabReady (x : Workgroup) (result : Bool) (d : Reg) (lines : Nat) : Prop :=
  let o := operandOf d
  o.type ∈ [0, 4, 9, 10, 11, 12, 13, 14] ∧ (o.rem = false → o.rank = 0) ∧ bf d 23 28 = 0 ∧ o.offset % 256 = 0 ∧
  (if result then (bf d 54 2).toNat ≤ 1 else bf d 54 3 = 0) ∧ 1 ≤ o.kb ∧
  o.kb ≤ (if o.type ∈ [9, 10, 14] then 4 else 2) ∧ (o.rem = true → x.peers ≠ [] ∧ o.rank < x.launchSize) ∧
  o.offset + slabBytes lines o.type ≤ x.spadq * 196608

/-- The implemented combinations (R173): the types of A and B, and the accumulator type. -/
def implemented : List (Nat × Nat × Nat) :=
  [(0, 0, 1), (0, 4, 1), (4, 0, 1), (4, 4, 1), (9, 9, 0), (10, 10, 0), (14, 14, 0),
   (11, 11, 0), (11, 12, 0), (11, 13, 0), (12, 11, 0), (12, 12, 0), (12, 13, 0), (13, 11, 0), (13, 12, 0), (13, 13, 0)]

/-- The index vector of `mperm` in the window that its descriptor names (R182). -/
def indexBytes (s : State) (x : Workgroup) (db : Reg) : List Byte :=
  let w := if db.getLsbD 57 then (s.peerOf x (operandOf db).rank).bind s.wg? else some x
  readBytes ((w.map Workgroup.spad).getD []) (operandOf db).offset 128

/-- The second operand of a product passes the checks of R172, R181 to R183; `da` is the first. -/
def secondReady (s : State) (x : Workgroup) (da db : Reg) : Instr → Prop
  | .mma .. => SlabReady x false db 192 ∧ (operandOf da).kb = (operandOf db).kb ∧
      ((operandOf da).type, (operandOf db).type, (bf da 54 2).toNat) ∈ implemented
  | .mtrans .. => bf db 8 56 = 0 ∧ (bf db 0 7).toNat + (operandOf da).kb * blockOf (operandOf da).type ≤ 128
  | .mperm _ _ _ _ m => bf db 54 3 = 0 ∧ (operandOf db).kb = 0 ∧ (operandOf db).type = 4 ∧
      ((operandOf db).rem = false → (operandOf db).rank = 0) ∧
      bf db 23 28 = 0 ∧ (operandOf db).offset % 256 = 0 ∧
      ((operandOf db).rem = true → x.peers ≠ [] ∧ (operandOf db).rank < x.launchSize) ∧
      (operandOf db).offset + 128 ≤ x.spadq * 196608 ∧
      ∀ r, r < 128 → m.getLsbD (r / 32) = true → (indexBytes s x db).getD r 0 = 0xFF ∨
        ((indexBytes s x db).getD r 0).toNat < (operandOf da).kb * blockOf (operandOf da).type
  | _ => bf db 8 56 = 0 ∧ (bf db 0 8).toNat ≤ 191

/-- A product of one group that R172 accepts: it names an allotted tile, its descriptors are legal, and its types are
implemented. The index vector of `mperm` is read at acceptance as the windows hold it. -/
structure ProductReady (s : State) (x : Workgroup) (i : Instr) (tile : BitVec 3) (da db : Reg) : Prop where
  tile : tile.toNat < x.tilesHeld
  first : SlabReady x true da (match i with | .mma .. | .mrsum .. => 128 | _ => 192)
  second : secondReady s x da db i
  types : (match i with
    | .mma .. => True
    | _ => ((operandOf da).type, (operandOf da).type, (bf da 54 2).toNat) ∈ implemented)
  quiet : (match i with
    | .mperm .. => s.overwritten = []
    | _ => True)

/-- The products: instruction, tile, gang field, the scalar registers of its two operands. -/
def products (a b : BitVec 5) (c k : BitVec 3) (r : BitVec 4) (m : BitVec 6) : List Instr :=
  [.mma a b c k r m, .mtrans a b c k r, .mperm a b c k r, .mrsum a b c k r]

/-- The vector of indices that a product carries: `mperm`'s, read at acceptance (R182). -/
def carried (s : State) (x : Workgroup) (db : Reg) : Instr → List Byte
  | .mperm .. => indexBytes s x db
  | _ => []

/-- The bytes of a block of 32 columns of one row in an accumulator copy, by FMT (R184). -/
def rowBlock (f : Nat) : Nat :=
  if f = 2 ∨ f = 8 then 128 else if f = 9 ∨ f = 10 then 64 else if f = 13 then 34 else if f = 14 then 18 else 32

/-- An accumulator-copy descriptor that R184 accepts in a window. -/
def CopyReady (store : Bool) (window : Nat) (d : Reg) : Prop :=
  let f := (bf d 60 4).toNat
  f ∈ (if store then [0, 2, 4, 8, 9, 10, 11, 12, 13, 14] else [2, 8, 9, 10]) ∧
  (if store then (bf d 57 3).toNat ≤ 4 else bf d 57 3 = 0) ∧ d.getLsbD 56 = false ∧ bf d 23 2 = 0 ∧ bf d 0 2 = 0 ∧
  ∀ m j, m < 128 → j < 6 → (bf d 52 4).getLsbD (m / 32) = true → (bf d 46 6).getLsbD j = true →
    (bf d 0 23).toNat + m * (bf d 23 23).toNat + j * rowBlock f + rowBlock f ≤ window

/-- A command of the head of a core's matrix queue that may complete while its workgroup lives on; no byte that it reads has been
written by others since it was accepted, and nothing is on its way to its workgroup's window. -/
structure MatrixHead (s : State) (c : Command) (rest : List Command) (k : Core) (x : Workgroup) (gr : Group) : Prop where
  core : s.core? s.input.unit = some k
  queue : k.matrix = c :: rest
  order : ∀ d ∈ k.lookup, c.after d = false
  up : s.power = true ∧ s.running = true
  wg : s.wg? c.wg = some x
  live : x.anyLive = true
  counted : c.counted = [(c.wg, c.grp)]
  grp : x.groups[c.grp]? = some gr
  landed : x.inbound = []
  quiet : s.overwritten = []

/-- The integer that an element byte holds: `.i8` signed, `.n8` unsigned (R175). -/
def byteInt (t : Nat) (b : Byte) : Int := if t = 0 then b.toInt else b.toNat

/-- A tile in its canonical form, with no element beyond the 128 rows of 192. -/
def TileOk (t : Words32) : Prop := Sparse.wfFrom none t = true ∧ ∀ e ∈ t, e.1 < 24576

/-- The element of a tile at a row and column. -/
def elementAt (t : Words32) (m n : Nat) : BitVec 32 := Sparse.get t (192 * m + n)

/-- Element `k` of line `i` of a slab of a 16-bit type in a scratchpad (R171). -/
def halfAt (m : List Host.Cell) (d : Reg) (i k : Nat) : FVal :=
  ((fmtOfType (operandOf d).type).getD bf16).decode (leNat (readBytes m ((operandOf d).offset + 64 * i + 2 * k) 2))

/-- Element `k` of line `i` of a slab of an 8-bit integer type in a scratchpad (R171). -/
def intAt (m : List Host.Cell) (d : Reg) (i k : Nat) : Int :=
  byteInt (operandOf d).type (Sparse.get m ((operandOf d).offset + 64 * i + k))

/-- Whether an instruction is a general product. -/
def isMma : Instr → Bool
  | .mma .. => true
  | _ => false

/-- Whether an instruction is a product. -/
def isProduct : Instr → Bool
  | .mma .. | .mtrans .. | .mperm .. | .mrsum .. => true
  | _ => false

/-- What an integer product adds to an element of its tile, none where it leaves it (R175, R181 to R183). -/
def addend (m : List Host.Cell) (c : Command) (da db : Reg) (i j : Nat) : Option Int :=
  let k := (operandOf da).kb * 32
  match c.op with
  | .mma _ _ _ _ r z =>
    if r.getLsbD (i / 32) && z.getLsbD (j / 32) then some ((List.range k).map fun e => intAt m da i e * intAt m db j e).sum else none
  | .mtrans _ _ _ _ r =>
    let e := i - (bf db 0 7).toNat
    if r.getLsbD (i / 32) ∧ (bf db 0 7).toNat ≤ i ∧ e < k then some (intAt m da j (if db.getLsbD 7 then k - 1 - e else e)) else none
  | .mperm _ _ _ _ r =>
    let e := (c.data.getD i 0xFF).toNat
    if r.getLsbD (i / 32) ∧ e < k then some (intAt m da j e) else none
  | .mrsum _ _ _ _ r =>
    if r.getLsbD (i / 32) ∧ j = (bf db 0 8).toNat then some ((List.range k).map fun e => intAt m da i e).sum else none
  | _ => none

end Sys2Proof.Rules

namespace Sys2Proof.Rules

open Sys2Proof Sys2Proof.Machine

/-! ### Lookup engine (R193 to R210) -/

/-- A table as R33 and R210 allow it in a window: invalid and clear, or valid with the fields and entries of a build. -/
def TableOk (window : Nat) (t : Table) : Prop :=
  t = Table.reset ∨
  (t.state = .valid ∧ t.gsel ≠ 3 ∧ t.efmt ≠ 3 ∧ t.sfmt ≠ 3 ∧ 1 ≤ t.ngroups ∧ t.ngroups ≤ 1024 ∧
    t.srclen = (t.gsel.toNat + 2) * t.ngroups * (if t.sfmt = 0 then 2 else 1) ∧ t.srcbase + t.srclen ≤ window ∧
    Sparse.wfFrom none t.entries = true ∧ ∀ e ∈ t.entries, e.1 < t.ngroups * 2 ^ (t.gsel.toNat + 2))

/-- An evicted table as the next command that names it finds it (R201): rebuilt from its recorded source as it stands. -/
def afresh (spad : List Host.Cell) (t : Table) : Table :=
  if t.state = .evicted then
    { t with state := .valid, entries := (buildEntries t.gsel t.efmt t.sfmt t.ngroups (readBytes spad t.srcbase t.srclen)).1 }
  else t

/-- The tables that a mask names, ascending. -/
def named (mask : BitVec 8) : List (BitVec 3) := ([0, 1, 2, 3, 4, 5, 6, 7] : List (BitVec 3)).filter fun t => mask.getLsbD t.toNat

/-- Room in a core's lookup queue of 16 for one more command, and that many of the engine's 32 snapshot slots free (R193, R323). -/
def LookRoom (s : State) (c n : Nat) : Prop :=
  ∀ k, s.core? c = some k → k.lookup.length < 16 ∧ (n = 0 ∨ (k.lookup.map Command.slack).sum + n ≤ 32)

/-- How many of a list of tables are evicted. -/
def evictedOf (x : Workgroup) (l : List (BitVec 3)) : Nat := (l.filter fun t => (x.table t).state = .evicted).length

/-- A `tlook` that R204 accepts: its tile and tables are allotted, its descriptors legal, its tables valid or evicted, of one group
size and long enough, and every byte that it reads lies in the window. -/
structure LookReady (x : Workgroup) (acc : BitVec 3) (mask : BitVec 8) (c sc : Reg) : Prop where
  tile : acc.toNat < x.tilesHeld
  held : ∀ t ∈ named mask, t.toNat < x.tablesHeld
  code : (bf c 0 23).toNat % 64 = 0 ∧ ((bf c 48 10).toNat + 2) / 2 ≤ 64 * (bf c 23 9).toNat
  scale : bf sc 23 34 = 0 ∧ (bf sc 0 23).toNat % 8 = 0 ∧ (bf sc 57 7).toNat + (named mask).length ≤ 128
  some : mask ≠ 0 ∧ bf c 32 6 ≠ 0
  valid : ∀ t ∈ named mask, (x.table t).state = .valid ∨ (x.table t).state = .evicted
  size : ∀ t ∈ named mask, ∀ u ∈ named mask, (x.table t).gsel = (x.table u).gsel
  range : ∀ t ∈ named mask, (bf c 38 10).toNat + (bf c 48 10).toNat + 1 ≤ (x.table t).ngroups
  lines : ∀ n p, n < 192 → p ≤ (bf c 61 3).toNat → (bf c 32 6).getLsbD (n / 32) = true →
    (bf c 0 23).toNat + (p * 192 + n) * 64 * (bf c 23 9).toNat + ((bf c 48 10).toNat + 2) / 2 ≤ x.spadq * 196608
  pairs : ∀ n j, n < 192 → 16 * j ≤ (bf c 48 10).toNat → (bf c 32 6).getLsbD (n / 32) = true →
    (bf sc 0 23).toNat + (j * 192 + n) * 8 + 8 ≤ x.spadq * 196608

/-- The sum of two FP32 codes, rounded to nearest even. -/
def add32 (a b : Nat) : Nat := (fp32.write .rne false ((fp32.decode a).add .rne (fp32.decode b)).1).1

/-- The pairwise tree over 2^k leaves, in order (R205). -/
def pairwise : Nat → (Nat → Nat) → Nat
  | 0, v => v 0
  | k + 1, v => pairwise k fun l => add32 (v (2 * l)) (v (2 * l + 1))

/-- An entry of a table: entry `e` of group `g`, an FP32 code. -/
def entryOf (t : Table) (g e : Nat) : Nat := (Sparse.get t.entries (g * 2 ^ (t.gsel.toNat + 2) + e)).toNat

/-- The code of a plane, column and group in a code tile (R203). -/
def codeAt (m : List Host.Cell) (c : Reg) (p n g : Nat) : Nat :=
  (Sparse.get m ((bf c 0 23).toNat + (p * 192 + n) * 64 * (bf c 23 9).toNat + g / 2)).toNat / 16 ^ (g % 2) % 16

/-- What one block of 16 groups adds to an element, rounded once (R205). -/
def lookBlock (m : List Host.Cell) (c sc : Reg) (t : Table) (n : Nat) (acc : Nat) (blk : Nat) : Nat :=
  let groups := (bf c 48 10).toNat + 1
  let leaf (p l : Nat) : Nat :=
    if groups ≤ 16 * blk + l then 0
    else entryOf t ((bf c 38 10).toNat + 16 * blk + l)
      (if p = (bf c 61 3).toNat + 1 then 2 ^ (t.gsel.toNat + 2) - 1 else codeAt m c p n (16 * blk + l))
  let pair (o : Nat) : FVal := fp32.decode (leNat (readBytes m ((bf sc 0 23).toNat + (blk * 192 + n) * 8 + o) 4))
  let terms := (List.range ((bf c 61 3).toNat + 1)).map fun p => ((pair 0).shift p, fp32.decode (pairwise 4 (leaf p)))
  let zero := if c.getLsbD 58 then
    [(((pair 0).mul (pair 4)).1.neg, fp32.decode (pairwise 4 (leaf ((bf c 61 3).toNat + 1))))] else []
  (accumulate .rne false (fp32.decode acc) (blockSum (terms ++ zero))).1

/-- An element of a lookup's tile from its value before (R205). -/
def lookElement (m : List Host.Cell) (c sc : Reg) (t : Table) (n : Nat) (old : BitVec 32) : BitVec 32 :=
  BitVec.ofNat 32 ((List.range ((bf c 48 10).toNat / 16 + 1)).foldl (lookBlock m c sc t n) (if c.getLsbD 59 then 0 else old.toNat))

/-- A command of the head of a core's lookup queue that may complete while its workgroup lives on; no byte that it reads has been
written by others since it was accepted. -/
structure LookupHead (s : State) (c : Command) (rest : List Command) (k : Core) (x : Workgroup) (gr : Group) : Prop where
  core : s.core? s.input.unit = some k
  queue : k.lookup = c :: rest
  order : ∀ d ∈ k.matrix, c.after d = false
  up : s.power = true ∧ s.running = true
  wg : s.wg? c.wg = some x
  live : x.anyLive = true
  counted : c.counted = [(c.wg, c.grp)]
  grp : x.groups[c.grp]? = some gr
  quiet : s.overwritten = []

/-- The state image of a table (R33). -/
def imageWord (t : Table) : Nat :=
  (match t.state with | .invalid => 0 | .valid => 1 | .stale => 2 | .evicted => 3) * 2 ^ 62 + t.gsel.toNat * 2 ^ 60 +
    t.efmt.toNat * 2 ^ 58 + t.sfmt.toNat * 2 ^ 56 + t.ngroups * 2 ^ 45 + t.srclen * 2 ^ 23 + t.srcbase

/-- A table's image as bytes (R209). -/
def imageOf (t : Table) : List Byte :=
  leBytes 8 (imageWord t) ++ List.replicate 56 0 ++
    (List.range (if t.state = .invalid then 0 else t.ngroups * 2 ^ (t.gsel.toNat + 2))).flatMap fun i => leBytes 4 (Sparse.get t.entries i).toNat

end Sys2Proof.Rules

namespace Sys2Proof.Rules

open Sys2Proof Sys2Proof.Machine

/-! ### Records and engine commands (R215 to R245) -/

/-- A port of a workgroup's node that an emit may use: valid, no COMPL port, to a node of this package (R245). -/
def LocalPort (s : State) (x : Workgroup) (p : BitVec 3) (e : Port) (target : Node) : Prop :=
  (∃ n, s.node? x.graph x.node = some n ∧ n.desc.ports[p.toNat]? = some e) ∧ e.valid = true ∧ e.compl = false ∧ e.remote = false ∧
  s.node? x.graph e.node = some target

/-- The depth of a record emitted over a port to a node of this package (R246). -/
def depthOver (x : Workgroup) (e : Port) : Nat := if e.node ≤ x.node then x.depth + 1 else x.depth

/-- A record of a node's size, from a record buffer (R244, R292). -/
def recordFor (n : Node) (t : Thread) : List Byte :=
  (t.recbuf.toList.flatMap fun r => leBytes 8 r.toNat).take (if n.desc.rsize = 0 then 16 else if n.desc.rsize = 2 then 64
    else if n.desc.rsize = 3 then 128 else 32)

/-- A queue as (record, depth) pairs. -/
def held (n : Node) : List (List Byte × Nat) := n.queue.map fun r => (r.bytes, r.depth)

/-- A legal `topk` whose areas lie in the window (R235). -/
def TopkReady (window : Nat) (p q : Reg) : Prop :=
  let size := if (bf p 60 4).toNat ∈ [1, 5, 9, 10] then 2 else 4
  let cols := (bf p 48 8).toNat + 1
  let rows := (bf p 36 12).toNat + 1
  let stride := 4 * (bf p 23 13).toNat
  (bf p 60 4).toNat ∈ [1, 2, 5, 6, 8, 9, 10] ∧ p.getLsbD 59 = false ∧ cols * size ≤ stride ∧ (bf p 0 23).toNat % 4 = 0 ∧
  bf q 46 18 = 0 ∧ (bf q 23 23).toNat % 16 = 0 ∧ (bf q 0 23).toNat % 32 = 0 ∧
  (bf p 0 23).toNat + (rows - 1) * stride + cols * size ≤ window ∧ (bf q 23 23).toNat + 16 * rows ≤ window ∧
  (bf q 0 23).toNat + 32 * rows ≤ window

/-- A legal `texp` whose histogram lies in the window (R238): in MODE 1 with a canonical destination, in MODE 0 over a declared
port. -/
def TexpReady (s : State) (x : Workgroup) (p q : Reg) : Prop :=
  let n := (bf p 52 8).toNat + 1
  bf p 23 17 = 0 ∧ (bf p 0 23).toNat % 4 = 0 ∧ (bf p 0 23).toNat + 4 * n ≤ x.spadq * 196608 ∧
  ((p.getLsbD 63 = true ∧ bf p 60 3 = 0 ∧ bf q 56 8 = 0 ∧ q.toNat % 16 = 0) ∨
   (p.getLsbD 63 = false ∧ (s.emitPort x (bf p 60 3)).isSome ∧ q = 0))

/-- The barrier that an engine word names: none under NB (R217). -/
def barOf (r : BitVec 4) (nb : BitVec 1) : Option Nat := if nb = 0 then some r.toNat else none

/-- A running command of a core's copy engine, whose workgroup lives on. -/
structure CopyHead (s : State) (c : Command) (k : Core) (x : Workgroup) (gr : Group) : Prop where
  core : s.core? s.input.unit = some k
  running : k.copyRunning = some c.order
  find : (k.copy.find? fun e => e.order == c.order) = some c
  free : c.stopped = false ∧ c.dying = false
  up : s.power = true ∧ s.running = true
  wg : s.wg? c.wg = some x
  live : x.anyLive = true
  counted : c.counted = [(c.wg, c.grp)]
  grp : x.groups[c.grp]? = some gr
  settled : c.afloat = [] ∧ c.owed = 0
  quiet : s.overwritten = []

/-- The command at the head of a tambour's queue, whose workgroup lives on. -/
structure TambourHead (s : State) (c : Command) (rest : List Command) (x : Workgroup) (gr : Group) : Prop where
  queue : s.tambours[s.input.unit]? = some (c :: rest)
  free : c.stopped = false ∧ c.dying = false
  up : s.power = true ∧ s.running = true
  wg : s.wg? c.wg = some x
  live : x.anyLive = true
  counted : c.counted = [(c.wg, c.grp)]
  grp : x.groups[c.grp]? = some gr
  settled : c.afloat = []
  quiet : s.overwritten = []

/-- The bytes that a piece of a copy moves as it stands, each as its global address and its scratchpad offset. -/
def movedBytes : CopyUnit → List (Reg × Nat)
  | .run va off len _ => (List.range len).map fun j => (va + BitVec.ofNat 64 j, off + j)
  | _ => []

/-- R222: byte `k` of element (i0, i1, i2, i3) of a box moves between a global place and a scratchpad place, for plain elements in rows
(ARR 0) or in the slabs of an operand (ARR 1 and 2). -/
def plainPlace (d : CopyDesc) (i0 i1 i2 i3 k : Nat) : Reg × Nat :=
  let e := elementBytes d.stype
  let row := d.base + BitVec.ofNat 64 i1 * d.st.getD 0 0 + BitVec.ofNat 64 i2 * d.st.getD 1 0 + BitVec.ofNat 64 i3 * d.st.getD 2 0
  let km := if d.stype = 9 ∨ d.stype = 10 then 32 else 64
  let lines := if d.arr = 1 then 128 else 192
  (row + BitVec.ofNat 64 (i0 * e + k),
   if d.arr = 0 then d.soff + i0 * e + i1 * d.rs.getD 0 0 + i2 * d.rs.getD 1 0 + i3 * d.rs.getD 2 0 + k
   else d.soff + i0 / km * (lines * 64) + 64 * i1 + i0 % km * e + k)

/-- R222: byte `k` of the part of a Denusk block that element (i0, i1) needs: of its header, or of its code. -/
def blockPlace (d : CopyDesc) (i0 i1 i2 i3 k : Nat) (header : Bool) : Reg × Nat :=
  let db4 := d.stype = 14
  let row := d.base + BitVec.ofNat 64 i1 * d.st.getD 0 0 + BitVec.ofNat 64 i2 * d.st.getD 1 0 + BitVec.ofNat 64 i3 * d.st.getD 2 0
  let at_ := i0 / 32 * (if db4 then 18 else 34)
  let km := if db4 then 128 else 64
  let lines := if d.arr = 1 then 128 else 192
  let slab := d.soff + i0 / km * slabBytes lines d.stype
  if header then
    (row + BitVec.ofNat 64 (at_ + k), slab + 64 * lines + (if db4 then 8 else 4) * i1 + 2 * (i0 % km / 32) + k)
  else
    let j := if db4 then i0 % 32 / 2 else i0 % 32
    (row + BitVec.ofNat 64 (at_ + 2 + j), slab + 64 * i1 + (if db4 then i0 % km / 2 else i0 % km))

/-- R239: the records of a histogram, expert by expert, each of 16 bytes: the expert, the first row of the tile, the valid rows, the
block mask, the tile and the expert's count. -/
def tileRecords (counts : List Nat) : List (List Byte) :=
  (List.range counts.length).flatMap fun x =>
    let c := counts.getD x 0
    (List.range ((c + 127) / 128)).map fun t =>
      let v := min 128 (c - 128 * t)
      bytesLe 4 x ++ bytesLe 4 ((counts.take x).sum + 128 * t) ++ bytesLe 2 v ++ bytesLe 1 (2 ^ ((v + 31) / 32) - 1) ++ bytesLe 1 t ++
        bytesLe 4 c

/-- The records that a `texp` whose words and histogram a command carries produces (R239). -/
def produced (c : Command) : List (List Byte) :=
  (tileRecords ((List.range ((bf (c.regs.getD 0 0) 52 8).toNat + 1)).map fun i => leNat ((c.data.drop (4 * i)).take 4))).take
    ((bf (c.regs.getD 0 0) 40 12).toNat + 1)

/-- Whether a column ranks before another in a row of mapped keys (R236). -/
def ranksBefore (us : List Nat) (a b : Nat) : Prop := us.getD b 0 < us.getD a 0 ∨ (us.getD b 0 = us.getD a 0 ∧ a < b)

/-- The natural number that a key of a type maps to (R236). -/
def mapped (t : Nat) (key : Nat) : Nat :=
  let w := if t ∈ [1, 5, 9, 10] then 16 else 32
  if t ∈ [5, 6] then key
  else if t ∈ [1, 2] then key ^^^ 2 ^ (w - 1)
  else
    let nan : Bool := match ((fmtOfType t).getD fp32).decode key with
      | .nan _ => true
      | _ => false
    if nan then 0
    else if key = 2 ^ (w - 1) then key
    else if key < 2 ^ (w - 1) then key + 2 ^ (w - 1) else 2 ^ w - 1 - key


/-- The invariant of the memories: the module's and the host's lists are in their one canonical form, so that two memories with the
same bytes are the same data (DESIGN CHOICE: notes/assumptions/2). -/
def Canonical (s : State) : Prop := Memory.wf s.mem = true ∧ Memory.wf s.hostMem = true

/-! ### The mailbox -/

/-- A module's mailbox runs a command, and the module is not stopped (R387, R393). -/
structure Mailed (s : State) (op : Nat) : Prop where
  power : s.power = true
  goes : s.stopped = false
  runs : s.mbDone = false
  op : s.mbOp = op

/-- The events of the mailbox's commands. -/
def mailboxEvents : List Instr :=
  [.ctxCreate, .ctxDestroy, .queueSet, .inval, .routeSet, .portDisable, .portEnable, .portClearFailed, .pkgSet, .cxlSet, .powerSet,
    .mrExtend, .attest, .certGet, .imageLoad, .imageWrite, .reset]

/-- The events of the commands but PORT_CTL's, with their opcodes (R393). -/
def commandEvents : List (Instr × Nat) :=
  [(.ctxCreate, 1), (.ctxDestroy, 2), (.queueSet, 3), (.inval, 4), (.routeSet, 5), (.pkgSet, 7), (.cxlSet, 8), (.powerSet, 9),
    (.mrExtend, 10), (.attest, 11), (.certGet, 12), (.imageLoad, 13), (.imageWrite, 14), (.reset, 15)]

/-- The events of the management controller that concern clocks and stops. -/
def clockEvents : List Instr :=
  [.powerThrottle, .criticalTemperature, .criticalTemperatureTimeout, .lockLost, .clockModeChange, .stoptickWrite, .moduleStop,
    .stopResume, .registerWrite]

/-- The events that come about only while the other clocks run (R373). -/
def clockedEvents : List Instr :=
  [.resultArrival, .fuseTimeout, .matrixCommandComplete, .lookupCommandComplete, .copyCommandComplete, .tambourCommandComplete,
    .engineTranslationFault, .collComplete, .peerHaltedNotice, .peerResumedNotice, .collPeerLost, .launchPlacement,
    .gatherTimerExpiry, .recordAdmission, .graphEnd, .preEmption, .graphStall, .issueAging, .serviceResume, .serviceKillGroup,
    .haltRequest, .hardwareBreakpoint, .dbgdataRead, .dbgdataWrite, .sampleLatch, .samplerConfigWrite, .cevtClear, .tickCorrection,
    .tailWrite, .launchPacket, .nopPacket, .waitPacket, .waitPacketRecheck, .signalPacket, .reservedTypePacket, .hostApertureAccess,
    .hostCompletionTimeout, .attreqWrite, .attestationReportDone, .gangLaunch, .gangPrepare, .gangAck, .gangDecision,
    .gangDecisionRepeat, .gangCommit, .gangAbort, .remoteAccessArrival, .remoteRecordArrival, .remoteRecordTimeout,
    .remoteRecordRefused, .unreachableRecordTimeout, .creditReturn, .unsupportedRequest, .linkPartnerDetected, .linkDetectTimeout,
    .linkTrainDone, .linkVerifyDone, .linkRetrain, .l1Eviction, .writeThroughAck, .sliceMapChange, .bucketHandover,
    .generationRefusal, .patrolScrub, .lazyWritebackDeadline, .copyBytesLanded]

/-- A command ends with code 3, out of limits, having done nothing. -/
def Refused (s : State) (i : Instr) : Prop := exec i s = .next (s.mbEnd 3)

/-- A command's event ends it with code 0, in a machine that differs as a function says. -/
def Done (s : State) (i : Instr) (f : State) : Prop := exec i s = .next (f.mbEnd 0)

/-- A context's block of 128 bytes in host memory, and whether its fields are within their limits (R394). -/
def blockAt (s : State) (a : Reg) : List Byte := readBytes s.hostMem a.toNat 128

/-- A 384-bit word of the mailbox block, first byte first (R390). -/
def mailDigest (s : State) : BitVec 384 := BitVec.ofNat 384 (beNat (wordBytes ((List.range 6).map fun i => s.mbWord (i + 1))))


/-- The packet that is processed next is of a type (R288, R290): a queue is the one served next among the eligible, and `b` is its
next packet. -/
structure Serves (s : State) (q : HostQueue) (b : List Byte) (type : Nat) : Prop where
  power : s.power = true
  running : s.running = true
  names : (s.queues.map Prod.fst).Nodup
  served : s.noteEligible.nextQueue = some (s.input.unit, q)
  head : q.buffer.head? = some b
  type : packetType (blockWord b 0) = type

/-- The queue of the input once its next packet is done: the packet leaves, HEAD moves on, and the pass rises by the queue's share. -/
def PacketDone (s t : State) (q : HostQueue) : Prop :=
  (t.queues.lookup s.input.unit).map (fun x => (x.buffer, x.head, x.blocked, x.pass)) =
    some (q.buffer.tail, (q.head + 1) % 2 ^ 32, false, q.pass + 1048576 / s.noteEligible.effectiveTickets s.input.unit q)

/-- The words of a packet that a type does not use are zero, and in word 0 the bits outside a mask (R288). -/
def PlainPacket (b : List Byte) (mask : Reg) (used : List Nat) : Prop :=
  blockWord b 0 &&& ~~~mask = 0 ∧ ∀ i, 1 ≤ i → i ≤ 7 → i ∉ used → blockWord b i = 0

/-- A port stands in a state (R350). -/
structure PortIn (s : State) (st : LinkState) (l : Link) : Prop where
  power : s.power = true
  running : s.running = true
  port : s.links[s.input.unit]? = some l
  state : l.state = st

/-- A machine whose port of the input has passed to a state with a number of attempts, the others unchanged (R350). -/
def PortGoes (s t : State) (st : LinkState) (k : Nat) : Prop :=
  t.links = s.links.set s.input.unit { state := st, attempts := k, since := s.tick }

/-- The device event of a port that fails is raised in the ring, or dropped (R350, R395). -/
def PortFails (s t : State) (k : Nat) : Prop :=
  t = ({ s with links := s.links.set s.input.unit { state := .failed, attempts := k, since := s.tick } } : State).deviceEvent 2 s.input.unit 0


/-- What a result that arrives leaves in its place (R22, R23). -/
def Lands (t y : Thread) (a : Arrival) : Prop :=
  match a.target with
  | .named n => n < 64 → y.regs = t.regs.setIfInBounds n a.value ∧ y.queue = t.queue
  | .slot k => ∀ i, t.slotIndex k = some i → y.queue = t.queue.set i { val := a.value, pending := false } ∧ y.regs = t.regs
  | .pred n => n < 12 → y.preds.getLsbD n = a.value.getLsbD 0 ∧ y.regs = t.regs ∧ y.queue = t.queue

/-- The registers, predicates, scalars and flags of a new workgroup's threads are clear, and each stands at its role's entry (R20,
R305). -/
def EntersClear (d : NodeDesc) (w : Workgroup) : Prop :=
  ∀ gr ∈ w.groups, gr.scalars = Vector.replicate 32 0 ∧ gr.matrixCount = 0 ∧ gr.lookupCount = 0 ∧ gr.engineCount = 0 ∧
    gr.walk = none ∧ ∀ th ∈ gr.threads, th.regs = Vector.replicate 64 0 ∧ th.queue = [] ∧ th.qseq = 0 ∧ th.preds = 0 ∧ th.tsw = 0 ∧
      th.imode = d.imode ∧ th.recbuf = Vector.replicate 16 0 ∧ th.isLive = true ∧ th.wait = .running ∧
      ∃ r ∈ d.roles, th.pc = r.entry ∧ gr.allot = r.regs

/-- A gang launch of the input is led by this package (R363). -/
structure Leads (s : State) (g : GangLead) : Prop where
  power : s.power = true
  running : s.running = true
  lead : (s.gangLeads.find? fun x => x.id == s.input.unit) = some g

/-- A gang launch after an event (R363). -/
def LeadGoes (s t : State) (g : GangLead) : Prop := (t.gangLeads.find? fun x => x.id == s.input.unit) = some g

end Sys2Proof.Rules

namespace Sys2Proof.Rules

open Sys2Proof Sys2Proof.Machine

/-! ### Rounding (R42, R45 to R51, R56, R58, R59), in terms of real numbers -/

/-- The number that a finite value stands for. -/
noncomputable def real : FVal → ℝ
  | .fin n m e => (if n then -1 else 1) * m * (2 : ℝ) ^ e
  | _ => 0

/-- Where a value that is no NaN lies among the numbers and the infinities. -/
noncomputable def place : FVal → EReal
  | .inf n => if n then ⊥ else ⊤
  | v => (real v : EReal)

/-- The magnitudes that a format's significand and exponent give, with no limit above and, unless `bounded`, none below (R48). -/
def Representable (f : Fmt) (bounded : Bool) (r : ℝ) : Prop :=
  ∃ (k : Nat) (j : Int), k ≤ 2 ^ (f.frac + 1) ∧ (bounded = true → f.emin - f.frac ≤ j) ∧ r = k * (2 : ℝ) ^ j

/-- The whole numbers. -/
def Whole (r : ℝ) : Prop := ∃ k : Nat, r = k

/-- R56: the magnitude `r` that a mode picks on a grid for the magnitude `x` of a number of sign `neg`. The last digit of the one
that a tie picks is even when it is an even multiple of the distance to the other. -/
def Picks (grid : ℝ → Prop) (mode : Rnd) (neg : Bool) (x r : ℝ) : Prop :=
  let down := r ≤ x ∧ ∀ g, grid g → g ≤ x → g ≤ r
  let away := x ≤ r ∧ ∀ g, grid g → x ≤ g → r ≤ g
  let near := ∀ g, grid g → |x - r| ≤ |x - g|
  grid r ∧ match mode with
    | .rz => down
    | .rup => if neg then down else away
    | .rdn => if neg then away else down
    | .rne => near ∧ ∀ g, grid g → g ≠ r → |x - g| = |x - r| → ∃ k : Nat, r = 2 * k * |g - r|
    | .rna => near ∧ ∀ g, grid g → |x - g| = |x - r| → g ≤ r

/-- R58: the magnitude `r` that a draw picks on a grid for the magnitude `x`. -/
def PicksByDraw (grid : ℝ → Prop) (draw : BitVec 32) (x r : ℝ) : Prop :=
  ∃ lo hi, Picks grid .rz false x lo ∧ grid hi ∧ lo < hi ∧ (∀ g, grid g → lo < g → hi ≤ g) ∧
    (x = lo → r = lo) ∧
    (x ≠ lo → (((draw.toNat / 256 : Nat) : Int) < ⌊2 ^ 24 * (x - lo) / (hi - lo)⌋ → r = hi) ∧
      (⌊2 ^ 24 * (x - lo) / (hi - lo)⌋ ≤ ((draw.toNat / 256 : Nat) : Int) → r = lo))

/-- What a format makes of a magnitude `r` picked for `x`: R48's table or R51's saturation (`limit`, without the sign) above the
largest finite value, with OF and NX; else the code of `r`, with NX when it is not exact and UF when it is tiny as well; and R49's
zero under FTZ. -/
def Written (f : Fmt) (ftz neg : Bool) (limit : Nat) (x r : ℝ) (tiny : Prop) (c : Nat × FlagSet) : Prop :=
  (real (f.decode f.maxCode) < r → c = (f.signed neg limit, flagOF ||| flagNX)) ∧
  (r ≤ real (f.decode f.maxCode) → ∃ k fl, k ≤ f.maxCode ∧ real (f.decode k) = r ∧
    (r = x → fl = 0) ∧ (r ≠ x → ¬tiny → fl = flagNX) ∧ (r ≠ x → tiny → fl = flagUF ||| flagNX) ∧
    c = if ftz = true ∧ f.kind = .ieee ∧ 0 < k ∧ k < 2 ^ f.frac then (f.signed neg 0, flagUF ||| flagNX) else (f.signed neg k, fl))

/-- R48 and R51: what overflow writes, without the sign: the code after the largest finite value is that of infinity. -/
def beyond (f : Fmt) (mode : Rnd) (neg : Bool) : Nat :=
  f.maxCode + if f.kind = .ieee ∧ (mode = .rne ∨ mode = .rna ∨ (mode = .rup ∧ neg = false) ∨ (mode = .rdn ∧ neg = true)) then 1 else 0

/-- `round_fmt` of the number of sign `neg` and magnitude `x`, not zero. -/
def RoundsTo (f : Fmt) (mode : Rnd) (ftz neg : Bool) (x : ℝ) (c : Nat × FlagSet) : Prop :=
  ∃ r t, Picks (Representable f true) mode neg x r ∧ Picks (Representable f false) mode neg x t ∧
    Written f ftz neg (beyond f mode neg) x r (t < (2 : ℝ) ^ f.emin) c

/-- The formats of R45. -/
def formats : List Fmt := [fp32, fp16, bf16, e4m3, e5m2]

/-- A comparison that a condition code of R131 asks for, between values that are no NaN. -/
def Ordered (c : BitVec 4) (x y : FVal) : Prop :=
  (c = 0 ∧ place x = place y) ∨ (c = 1 ∧ place x ≠ place y) ∨ (c = 2 ∧ place x < place y) ∨ (c = 3 ∧ place x ≤ place y) ∨
  (c = 4 ∧ place y < place x) ∨ (c = 5 ∧ place y ≤ place x) ∨ c = 7

/-- The least and the greatest number of an integer type of `w` bits. -/
def intRange (w : Nat) (signed : Bool) : Int × Int := if signed then (-(2 ^ (w - 1)), 2 ^ (w - 1) - 1) else (0, 2 ^ w - 1)

/-- The integer types of R75: code, width, whether signed. -/
def intTypes : List (BitVec 4 × Nat × Bool) :=
  [(0, 8, true), (1, 16, true), (2, 32, true), (3, 64, true), (4, 8, false), (5, 16, false), (6, 32, false), (7, 64, false)]

/-- R59: the magnitude `k` picked for a number of sign `neg` and magnitude `x`, saturated to an integer type: its code and its
flags. -/
def toInt (w : Nat) (signed neg : Bool) (k : Nat) (exact : Bool) : Nat × FlagSet :=
  let n : Int := if neg then -k else k
  let c := max (intRange w signed).1 (min n (intRange w signed).2)
  ((c % 2 ^ w).toNat, if c ≠ n then flagNV else if exact then 0 else flagNX)

/-- The instructions that every lane of an issue executes by itself and none can trap on. -/
def laneForms (d a b : BitVec 7) (i : BitVec 12) (m : BitVec 19) (k : BitVec 5) (q : BitVec 6) (p c t l x y : BitVec 4) (n : BitVec 1) :
    List Instr :=
  (integers d a b i m k q).map IntRule.instr ++ (floats d a b).map LaneRule.instr ++ (statuses d a).map LaneRule.instr ++
    [.icmp p c a b t, .pset p l x y, .isel d a b p n]

/-- Those of them that name float types. -/
def typedForms (d a b : BitVec 7) (p c t u y : BitVec 4) (r : BitVec 3) : List Instr :=
  [.fcmp p c a b t, .frnd d a t u r, .fcvti d a t y r, .icvtf d a y t r, .fcvt d a t u r]

/-- The lanes of an issue complete: each thread goes on at the group after its own, and nothing but the threads changes. -/
def LanesComplete (s : State) (i : Instr) (w g : Nat) (ts : List Nat) : Prop :=
  ∃ f : View → Thread, exec i s = .next (s.lanes w g ts f) ∧
    ∀ v, (f v).pc = v.t.nextPc ∧ (f v).wait = .running ∧ (f v).words = Words.none ∧ (f v).life = v.t.life

end Sys2Proof.Rules
end

