-- ==== Sys2Proof/Laws/Decode.lean ====
section
/-! SUPPORT. Fields of a word built by concatenation, and what the decoder's tests of type pairs exclude. -/

namespace Sys2Proof

/-- A field of the low part of a word. -/
theorem bf_append_low {n m : Nat} (x : BitVec n) (y : BitVec m) (lo len : Nat) (h : lo + len ≤ m) :
    bf (x ++ y) lo len = bf y lo len := by
  apply BitVec.eq_of_getLsbD_eq
  intro i hi
  simp [bf, BitVec.getLsbD_append, hi]
  intro h2
  omega

/-- A field of the high part of a word. -/
theorem bf_append_high {n m : Nat} (x : BitVec n) (y : BitVec m) (lo len : Nat) (h : m ≤ lo) :
    bf (x ++ y) lo len = bf x (lo - m) len := by
  apply BitVec.eq_of_getLsbD_eq
  intro i hi
  have : ¬ (lo + i < m) := by omega
  simp [bf, BitVec.getLsbD_append, hi, this]
  congr 1
  omega

/-- A whole word as a field. -/
theorem bf_full {n : Nat} (x : BitVec n) : bf x 0 n = x := by
  apply BitVec.eq_of_getLsbD_eq
  intro i hi
  simp [bf, hi]

/-- What holds of the two words of one bit holds of every one. -/
theorem bv1_all {p : BitVec 1 → Prop} (h0 : p 0#1) (h1 : p 1#1) (t : BitVec 1) : p t := by
  have : t = 0#1 ∨ t = 1#1 := by decide +revert
  rcases this with rfl | rfl <;> assumption

/-- What holds of the four words of two bits holds of every one. -/
theorem bv2_all {p : BitVec 2 → Prop} (h0 : p 0#2) (h1 : p 1#2) (h2 : p 2#2) (h3 : p 3#2) (t : BitVec 2) : p t := by
  have : t = 0#2 ∨ t = 1#2 ∨ t = 2#2 ∨ t = 3#2 := by decide +revert
  rcases this with rfl | rfl | rfl | rfl <;> assumption

/-- The type pairs of `fcvt` are not those of `frnd`. -/
theorem not_frnd_of_fcvt (s t : BitVec 4) : isFcvtPair s t = true → isFrndPair s t = false ∧ True ∧ True := by decide +revert

/-- The type pairs of `fcvti` are neither those of `frnd` nor those of `fcvt`. -/
theorem not_frnd_of_fcvti (s t : BitVec 4) : isFcvtiPair s t = true → isFrndPair s t = false ∧ isFcvtPair s t = false ∧ True := by
  decide +revert

/-- The type pairs of `icvtf` are those of no other conversion. -/
theorem not_frnd_of_icvtf (s t : BitVec 4) :
    isIcvtfPair s t = true → isFrndPair s t = false ∧ isFcvtPair s t = false ∧ isFcvtiPair s t = false := by decide +revert

end Sys2Proof
end

