-- ==== Sys2Proof/Laws/PerInstr.lean ====
section
/-! SUPPORT. The family RoundTrip: of each constructor, that the decoder gives back what the encoder lays out, with every operand
at every value. Events have no encoding. -/

set_option linter.unusedSimpArgs false
set_option linter.unusedVariables false

namespace Sys2Proof.Laws.RoundTrip

open Sys2Proof

/-- The decoder reads a canonical instruction back from its word, whatever payload of a hint or prefix `ir` holds. -/
def Statement (i : Instr) : Prop := i.canonical = true → ∀ ir w : Word, encode i ir = some w → decodeWord w = .ok i

theorem iadd32 (d a b : BitVec 7) : Statement (.iadd32 d a b) := by
  intro hc ir w e
  have e : some (0x1#6 ++ d ++ a ++ b ++ 0x0#5) = some w := e
  obtain rfl := Option.some.inj e
  unfold decodeWord
  rw [show bf (0x1#6 ++ d ++ a ++ b ++ 0x0#5 : Word) 26 6 = 0x1#6 by
    simp (disch := decide) only [bf_append_high, bf_append_low, bf_full, Nat.reduceSub]]
  change decodeInt32 _ = _
  simp (disch := decide) only [decodeInt32, bf_append_high, bf_append_low, bf_full, Nat.reduceSub, Nat.sub_self]
  try rfl

theorem iadd64 (d a b : BitVec 7) : Statement (.iadd64 d a b) := by
  intro hc ir w e
  have e : some (0x2#6 ++ d ++ a ++ b ++ 0x0#5) = some w := e
  obtain rfl := Option.some.inj e
  unfold decodeWord
  rw [show bf (0x2#6 ++ d ++ a ++ b ++ 0x0#5 : Word) 26 6 = 0x2#6 by
    simp (disch := decide) only [bf_append_high, bf_append_low, bf_full, Nat.reduceSub]]
  change decodeInt64 _ = _
  simp (disch := decide) only [decodeInt64, bf_append_high, bf_append_low, bf_full, Nat.reduceSub, Nat.sub_self]
  try rfl

theorem isub32 (d a b : BitVec 7) : Statement (.isub32 d a b) := by
  intro hc ir w e
  have e : some (0x1#6 ++ d ++ a ++ b ++ 0x1#5) = some w := e
  obtain rfl := Option.some.inj e
  unfold decodeWord
  rw [show bf (0x1#6 ++ d ++ a ++ b ++ 0x1#5 : Word) 26 6 = 0x1#6 by
    simp (disch := decide) only [bf_append_high, bf_append_low, bf_full, Nat.reduceSub]]
  change decodeInt32 _ = _
  simp (disch := decide) only [decodeInt32, bf_append_high, bf_append_low, bf_full, Nat.reduceSub, Nat.sub_self]
  try rfl

theorem isub64 (d a b : BitVec 7) : Statement (.isub64 d a b) := by
  intro hc ir w e
  have e : some (0x2#6 ++ d ++ a ++ b ++ 0x1#5) = some w := e
  obtain rfl := Option.some.inj e
  unfold decodeWord
  rw [show bf (0x2#6 ++ d ++ a ++ b ++ 0x1#5 : Word) 26 6 = 0x2#6 by
    simp (disch := decide) only [bf_append_high, bf_append_low, bf_full, Nat.reduceSub]]
  change decodeInt64 _ = _
  simp (disch := decide) only [decodeInt64, bf_append_high, bf_append_low, bf_full, Nat.reduceSub, Nat.sub_self]
  try rfl

theorem imul32 (d a b : BitVec 7) : Statement (.imul32 d a b) := by
  intro hc ir w e
  have e : some (0x1#6 ++ d ++ a ++ b ++ 0x2#5) = some w := e
  obtain rfl := Option.some.inj e
  unfold decodeWord
  rw [show bf (0x1#6 ++ d ++ a ++ b ++ 0x2#5 : Word) 26 6 = 0x1#6 by
    simp (disch := decide) only [bf_append_high, bf_append_low, bf_full, Nat.reduceSub]]
  change decodeInt32 _ = _
  simp (disch := decide) only [decodeInt32, bf_append_high, bf_append_low, bf_full, Nat.reduceSub, Nat.sub_self]
  try rfl

theorem imul64 (d a b : BitVec 7) : Statement (.imul64 d a b) := by
  intro hc ir w e
  have e : some (0x2#6 ++ d ++ a ++ b ++ 0x2#5) = some w := e
  obtain rfl := Option.some.inj e
  unfold decodeWord
  rw [show bf (0x2#6 ++ d ++ a ++ b ++ 0x2#5 : Word) 26 6 = 0x2#6 by
    simp (disch := decide) only [bf_append_high, bf_append_low, bf_full, Nat.reduceSub]]
  change decodeInt64 _ = _
  simp (disch := decide) only [decodeInt64, bf_append_high, bf_append_low, bf_full, Nat.reduceSub, Nat.sub_self]
  try rfl

theorem imulh32 (d a b : BitVec 7) : Statement (.imulh32 d a b) := by
  intro hc ir w e
  have e : some (0x1#6 ++ d ++ a ++ b ++ 0x3#5) = some w := e
  obtain rfl := Option.some.inj e
  unfold decodeWord
  rw [show bf (0x1#6 ++ d ++ a ++ b ++ 0x3#5 : Word) 26 6 = 0x1#6 by
    simp (disch := decide) only [bf_append_high, bf_append_low, bf_full, Nat.reduceSub]]
  change decodeInt32 _ = _
  simp (disch := decide) only [decodeInt32, bf_append_high, bf_append_low, bf_full, Nat.reduceSub, Nat.sub_self]
  try rfl

theorem imulh64 (d a b : BitVec 7) : Statement (.imulh64 d a b) := by
  intro hc ir w e
  have e : some (0x2#6 ++ d ++ a ++ b ++ 0x3#5) = some w := e
  obtain rfl := Option.some.inj e
  unfold decodeWord
  rw [show bf (0x2#6 ++ d ++ a ++ b ++ 0x3#5 : Word) 26 6 = 0x2#6 by
    simp (disch := decide) only [bf_append_high, bf_append_low, bf_full, Nat.reduceSub]]
  change decodeInt64 _ = _
  simp (disch := decide) only [decodeInt64, bf_append_high, bf_append_low, bf_full, Nat.reduceSub, Nat.sub_self]
  try rfl

theorem imulhn32 (d a b : BitVec 7) : Statement (.imulhn32 d a b) := by
  intro hc ir w e
  have e : some (0x1#6 ++ d ++ a ++ b ++ 0x4#5) = some w := e
  obtain rfl := Option.some.inj e
  unfold decodeWord
  rw [show bf (0x1#6 ++ d ++ a ++ b ++ 0x4#5 : Word) 26 6 = 0x1#6 by
    simp (disch := decide) only [bf_append_high, bf_append_low, bf_full, Nat.reduceSub]]
  change decodeInt32 _ = _
  simp (disch := decide) only [decodeInt32, bf_append_high, bf_append_low, bf_full, Nat.reduceSub, Nat.sub_self]
  try rfl

theorem imulhn64 (d a b : BitVec 7) : Statement (.imulhn64 d a b) := by
  intro hc ir w e
  have e : some (0x2#6 ++ d ++ a ++ b ++ 0x4#5) = some w := e
  obtain rfl := Option.some.inj e
  unfold decodeWord
  rw [show bf (0x2#6 ++ d ++ a ++ b ++ 0x4#5 : Word) 26 6 = 0x2#6 by
    simp (disch := decide) only [bf_append_high, bf_append_low, bf_full, Nat.reduceSub]]
  change decodeInt64 _ = _
  simp (disch := decide) only [decodeInt64, bf_append_high, bf_append_low, bf_full, Nat.reduceSub, Nat.sub_self]
  try rfl

theorem idiv32 (d a b : BitVec 7) : Statement (.idiv32 d a b) := by
  intro hc ir w e
  have e : some (0x1#6 ++ d ++ a ++ b ++ 0x5#5) = some w := e
  obtain rfl := Option.some.inj e
  unfold decodeWord
  rw [show bf (0x1#6 ++ d ++ a ++ b ++ 0x5#5 : Word) 26 6 = 0x1#6 by
    simp (disch := decide) only [bf_append_high, bf_append_low, bf_full, Nat.reduceSub]]
  change decodeInt32 _ = _
  simp (disch := decide) only [decodeInt32, bf_append_high, bf_append_low, bf_full, Nat.reduceSub, Nat.sub_self]
  try rfl

theorem idiv64 (d a b : BitVec 7) : Statement (.idiv64 d a b) := by
  intro hc ir w e
  have e : some (0x2#6 ++ d ++ a ++ b ++ 0x5#5) = some w := e
  obtain rfl := Option.some.inj e
  unfold decodeWord
  rw [show bf (0x2#6 ++ d ++ a ++ b ++ 0x5#5 : Word) 26 6 = 0x2#6 by
    simp (disch := decide) only [bf_append_high, bf_append_low, bf_full, Nat.reduceSub]]
  change decodeInt64 _ = _
  simp (disch := decide) only [decodeInt64, bf_append_high, bf_append_low, bf_full, Nat.reduceSub, Nat.sub_self]
  try rfl

theorem idivn32 (d a b : BitVec 7) : Statement (.idivn32 d a b) := by
  intro hc ir w e
  have e : some (0x1#6 ++ d ++ a ++ b ++ 0x6#5) = some w := e
  obtain rfl := Option.some.inj e
  unfold decodeWord
  rw [show bf (0x1#6 ++ d ++ a ++ b ++ 0x6#5 : Word) 26 6 = 0x1#6 by
    simp (disch := decide) only [bf_append_high, bf_append_low, bf_full, Nat.reduceSub]]
  change decodeInt32 _ = _
  simp (disch := decide) only [decodeInt32, bf_append_high, bf_append_low, bf_full, Nat.reduceSub, Nat.sub_self]
  try rfl

theorem idivn64 (d a b : BitVec 7) : Statement (.idivn64 d a b) := by
  intro hc ir w e
  have e : some (0x2#6 ++ d ++ a ++ b ++ 0x6#5) = some w := e
  obtain rfl := Option.some.inj e
  unfold decodeWord
  rw [show bf (0x2#6 ++ d ++ a ++ b ++ 0x6#5 : Word) 26 6 = 0x2#6 by
    simp (disch := decide) only [bf_append_high, bf_append_low, bf_full, Nat.reduceSub]]
  change decodeInt64 _ = _
  simp (disch := decide) only [decodeInt64, bf_append_high, bf_append_low, bf_full, Nat.reduceSub, Nat.sub_self]
  try rfl

theorem irem32 (d a b : BitVec 7) : Statement (.irem32 d a b) := by
  intro hc ir w e
  have e : some (0x1#6 ++ d ++ a ++ b ++ 0x7#5) = some w := e
  obtain rfl := Option.some.inj e
  unfold decodeWord
  rw [show bf (0x1#6 ++ d ++ a ++ b ++ 0x7#5 : Word) 26 6 = 0x1#6 by
    simp (disch := decide) only [bf_append_high, bf_append_low, bf_full, Nat.reduceSub]]
  change decodeInt32 _ = _
  simp (disch := decide) only [decodeInt32, bf_append_high, bf_append_low, bf_full, Nat.reduceSub, Nat.sub_self]
  try rfl

theorem irem64 (d a b : BitVec 7) : Statement (.irem64 d a b) := by
  intro hc ir w e
  have e : some (0x2#6 ++ d ++ a ++ b ++ 0x7#5) = some w := e
  obtain rfl := Option.some.inj e
  unfold decodeWord
  rw [show bf (0x2#6 ++ d ++ a ++ b ++ 0x7#5 : Word) 26 6 = 0x2#6 by
    simp (disch := decide) only [bf_append_high, bf_append_low, bf_full, Nat.reduceSub]]
  change decodeInt64 _ = _
  simp (disch := decide) only [decodeInt64, bf_append_high, bf_append_low, bf_full, Nat.reduceSub, Nat.sub_self]
  try rfl

theorem iremn32 (d a b : BitVec 7) : Statement (.iremn32 d a b) := by
  intro hc ir w e
  have e : some (0x1#6 ++ d ++ a ++ b ++ 0x8#5) = some w := e
  obtain rfl := Option.some.inj e
  unfold decodeWord
  rw [show bf (0x1#6 ++ d ++ a ++ b ++ 0x8#5 : Word) 26 6 = 0x1#6 by
    simp (disch := decide) only [bf_append_high, bf_append_low, bf_full, Nat.reduceSub]]
  change decodeInt32 _ = _
  simp (disch := decide) only [decodeInt32, bf_append_high, bf_append_low, bf_full, Nat.reduceSub, Nat.sub_self]
  try rfl

theorem iremn64 (d a b : BitVec 7) : Statement (.iremn64 d a b) := by
  intro hc ir w e
  have e : some (0x2#6 ++ d ++ a ++ b ++ 0x8#5) = some w := e
  obtain rfl := Option.some.inj e
  unfold decodeWord
  rw [show bf (0x2#6 ++ d ++ a ++ b ++ 0x8#5 : Word) 26 6 = 0x2#6 by
    simp (disch := decide) only [bf_append_high, bf_append_low, bf_full, Nat.reduceSub]]
  change decodeInt64 _ = _
  simp (disch := decide) only [decodeInt64, bf_append_high, bf_append_low, bf_full, Nat.reduceSub, Nat.sub_self]
  try rfl

theorem iminI32 (d a b : BitVec 7) : Statement (.iminI32 d a b) := by
  intro hc ir w e
  have e : some (0x1#6 ++ d ++ a ++ b ++ 0x9#5) = some w := e
  obtain rfl := Option.some.inj e
  unfold decodeWord
  rw [show bf (0x1#6 ++ d ++ a ++ b ++ 0x9#5 : Word) 26 6 = 0x1#6 by
    simp (disch := decide) only [bf_append_high, bf_append_low, bf_full, Nat.reduceSub]]
  change decodeInt32 _ = _
  simp (disch := decide) only [decodeInt32, bf_append_high, bf_append_low, bf_full, Nat.reduceSub, Nat.sub_self]
  try rfl

theorem iminI64 (d a b : BitVec 7) : Statement (.iminI64 d a b) := by
  intro hc ir w e
  have e : some (0x2#6 ++ d ++ a ++ b ++ 0x9#5) = some w := e
  obtain rfl := Option.some.inj e
  unfold decodeWord
  rw [show bf (0x2#6 ++ d ++ a ++ b ++ 0x9#5 : Word) 26 6 = 0x2#6 by
    simp (disch := decide) only [bf_append_high, bf_append_low, bf_full, Nat.reduceSub]]
  change decodeInt64 _ = _
  simp (disch := decide) only [decodeInt64, bf_append_high, bf_append_low, bf_full, Nat.reduceSub, Nat.sub_self]
  try rfl

theorem iminN32 (d a b : BitVec 7) : Statement (.iminN32 d a b) := by
  intro hc ir w e
  have e : some (0x1#6 ++ d ++ a ++ b ++ 0xA#5) = some w := e
  obtain rfl := Option.some.inj e
  unfold decodeWord
  rw [show bf (0x1#6 ++ d ++ a ++ b ++ 0xA#5 : Word) 26 6 = 0x1#6 by
    simp (disch := decide) only [bf_append_high, bf_append_low, bf_full, Nat.reduceSub]]
  change decodeInt32 _ = _
  simp (disch := decide) only [decodeInt32, bf_append_high, bf_append_low, bf_full, Nat.reduceSub, Nat.sub_self]
  try rfl

theorem iminN64 (d a b : BitVec 7) : Statement (.iminN64 d a b) := by
  intro hc ir w e
  have e : some (0x2#6 ++ d ++ a ++ b ++ 0xA#5) = some w := e
  obtain rfl := Option.some.inj e
  unfold decodeWord
  rw [show bf (0x2#6 ++ d ++ a ++ b ++ 0xA#5 : Word) 26 6 = 0x2#6 by
    simp (disch := decide) only [bf_append_high, bf_append_low, bf_full, Nat.reduceSub]]
  change decodeInt64 _ = _
  simp (disch := decide) only [decodeInt64, bf_append_high, bf_append_low, bf_full, Nat.reduceSub, Nat.sub_self]
  try rfl

theorem imaxI32 (d a b : BitVec 7) : Statement (.imaxI32 d a b) := by
  intro hc ir w e
  have e : some (0x1#6 ++ d ++ a ++ b ++ 0xB#5) = some w := e
  obtain rfl := Option.some.inj e
  unfold decodeWord
  rw [show bf (0x1#6 ++ d ++ a ++ b ++ 0xB#5 : Word) 26 6 = 0x1#6 by
    simp (disch := decide) only [bf_append_high, bf_append_low, bf_full, Nat.reduceSub]]
  change decodeInt32 _ = _
  simp (disch := decide) only [decodeInt32, bf_append_high, bf_append_low, bf_full, Nat.reduceSub, Nat.sub_self]
  try rfl

theorem imaxI64 (d a b : BitVec 7) : Statement (.imaxI64 d a b) := by
  intro hc ir w e
  have e : some (0x2#6 ++ d ++ a ++ b ++ 0xB#5) = some w := e
  obtain rfl := Option.some.inj e
  unfold decodeWord
  rw [show bf (0x2#6 ++ d ++ a ++ b ++ 0xB#5 : Word) 26 6 = 0x2#6 by
    simp (disch := decide) only [bf_append_high, bf_append_low, bf_full, Nat.reduceSub]]
  change decodeInt64 _ = _
  simp (disch := decide) only [decodeInt64, bf_append_high, bf_append_low, bf_full, Nat.reduceSub, Nat.sub_self]
  try rfl

theorem imaxN32 (d a b : BitVec 7) : Statement (.imaxN32 d a b) := by
  intro hc ir w e
  have e : some (0x1#6 ++ d ++ a ++ b ++ 0xC#5) = some w := e
  obtain rfl := Option.some.inj e
  unfold decodeWord
  rw [show bf (0x1#6 ++ d ++ a ++ b ++ 0xC#5 : Word) 26 6 = 0x1#6 by
    simp (disch := decide) only [bf_append_high, bf_append_low, bf_full, Nat.reduceSub]]
  change decodeInt32 _ = _
  simp (disch := decide) only [decodeInt32, bf_append_high, bf_append_low, bf_full, Nat.reduceSub, Nat.sub_self]
  try rfl

theorem imaxN64 (d a b : BitVec 7) : Statement (.imaxN64 d a b) := by
  intro hc ir w e
  have e : some (0x2#6 ++ d ++ a ++ b ++ 0xC#5) = some w := e
  obtain rfl := Option.some.inj e
  unfold decodeWord
  rw [show bf (0x2#6 ++ d ++ a ++ b ++ 0xC#5 : Word) 26 6 = 0x2#6 by
    simp (disch := decide) only [bf_append_high, bf_append_low, bf_full, Nat.reduceSub]]
  change decodeInt64 _ = _
  simp (disch := decide) only [decodeInt64, bf_append_high, bf_append_low, bf_full, Nat.reduceSub, Nat.sub_self]
  try rfl

theorem iabs32 (d a : BitVec 7) : Statement (.iabs32 d a) := by
  intro hc ir w e
  have e : some (0x1#6 ++ d ++ a ++ 0xD#12) = some w := e
  obtain rfl := Option.some.inj e
  unfold decodeWord
  rw [show bf (0x1#6 ++ d ++ a ++ 0xD#12 : Word) 26 6 = 0x1#6 by
    simp (disch := decide) only [bf_append_high, bf_append_low, bf_full, Nat.reduceSub]]
  change decodeInt32 _ = _
  simp (disch := decide) only [decodeInt32, bf_append_high, bf_append_low, bf_full, Nat.reduceSub, Nat.sub_self]
  try rfl

theorem iabs64 (d a : BitVec 7) : Statement (.iabs64 d a) := by
  intro hc ir w e
  have e : some (0x2#6 ++ d ++ a ++ 0xD#12) = some w := e
  obtain rfl := Option.some.inj e
  unfold decodeWord
  rw [show bf (0x2#6 ++ d ++ a ++ 0xD#12 : Word) 26 6 = 0x2#6 by
    simp (disch := decide) only [bf_append_high, bf_append_low, bf_full, Nat.reduceSub]]
  change decodeInt64 _ = _
  simp (disch := decide) only [decodeInt64, bf_append_high, bf_append_low, bf_full, Nat.reduceSub, Nat.sub_self]
  try rfl

theorem and32 (d a b : BitVec 7) : Statement (.and32 d a b) := by
  intro hc ir w e
  have e : some (0x1#6 ++ d ++ a ++ b ++ 0xE#5) = some w := e
  obtain rfl := Option.some.inj e
  unfold decodeWord
  rw [show bf (0x1#6 ++ d ++ a ++ b ++ 0xE#5 : Word) 26 6 = 0x1#6 by
    simp (disch := decide) only [bf_append_high, bf_append_low, bf_full, Nat.reduceSub]]
  change decodeInt32 _ = _
  simp (disch := decide) only [decodeInt32, bf_append_high, bf_append_low, bf_full, Nat.reduceSub, Nat.sub_self]
  try rfl

theorem and64 (d a b : BitVec 7) : Statement (.and64 d a b) := by
  intro hc ir w e
  have e : some (0x2#6 ++ d ++ a ++ b ++ 0xE#5) = some w := e
  obtain rfl := Option.some.inj e
  unfold decodeWord
  rw [show bf (0x2#6 ++ d ++ a ++ b ++ 0xE#5 : Word) 26 6 = 0x2#6 by
    simp (disch := decide) only [bf_append_high, bf_append_low, bf_full, Nat.reduceSub]]
  change decodeInt64 _ = _
  simp (disch := decide) only [decodeInt64, bf_append_high, bf_append_low, bf_full, Nat.reduceSub, Nat.sub_self]
  try rfl

theorem or32 (d a b : BitVec 7) : Statement (.or32 d a b) := by
  intro hc ir w e
  have e : some (0x1#6 ++ d ++ a ++ b ++ 0xF#5) = some w := e
  obtain rfl := Option.some.inj e
  unfold decodeWord
  rw [show bf (0x1#6 ++ d ++ a ++ b ++ 0xF#5 : Word) 26 6 = 0x1#6 by
    simp (disch := decide) only [bf_append_high, bf_append_low, bf_full, Nat.reduceSub]]
  change decodeInt32 _ = _
  simp (disch := decide) only [decodeInt32, bf_append_high, bf_append_low, bf_full, Nat.reduceSub, Nat.sub_self]
  try rfl

theorem or64 (d a b : BitVec 7) : Statement (.or64 d a b) := by
  intro hc ir w e
  have e : some (0x2#6 ++ d ++ a ++ b ++ 0xF#5) = some w := e
  obtain rfl := Option.some.inj e
  unfold decodeWord
  rw [show bf (0x2#6 ++ d ++ a ++ b ++ 0xF#5 : Word) 26 6 = 0x2#6 by
    simp (disch := decide) only [bf_append_high, bf_append_low, bf_full, Nat.reduceSub]]
  change decodeInt64 _ = _
  simp (disch := decide) only [decodeInt64, bf_append_high, bf_append_low, bf_full, Nat.reduceSub, Nat.sub_self]
  try rfl

theorem xor32 (d a b : BitVec 7) : Statement (.xor32 d a b) := by
  intro hc ir w e
  have e : some (0x1#6 ++ d ++ a ++ b ++ 0x10#5) = some w := e
  obtain rfl := Option.some.inj e
  unfold decodeWord
  rw [show bf (0x1#6 ++ d ++ a ++ b ++ 0x10#5 : Word) 26 6 = 0x1#6 by
    simp (disch := decide) only [bf_append_high, bf_append_low, bf_full, Nat.reduceSub]]
  change decodeInt32 _ = _
  simp (disch := decide) only [decodeInt32, bf_append_high, bf_append_low, bf_full, Nat.reduceSub, Nat.sub_self]
  try rfl

theorem xor64 (d a b : BitVec 7) : Statement (.xor64 d a b) := by
  intro hc ir w e
  have e : some (0x2#6 ++ d ++ a ++ b ++ 0x10#5) = some w := e
  obtain rfl := Option.some.inj e
  unfold decodeWord
  rw [show bf (0x2#6 ++ d ++ a ++ b ++ 0x10#5 : Word) 26 6 = 0x2#6 by
    simp (disch := decide) only [bf_append_high, bf_append_low, bf_full, Nat.reduceSub]]
  change decodeInt64 _ = _
  simp (disch := decide) only [decodeInt64, bf_append_high, bf_append_low, bf_full, Nat.reduceSub, Nat.sub_self]
  try rfl

theorem andn32 (d a b : BitVec 7) : Statement (.andn32 d a b) := by
  intro hc ir w e
  have e : some (0x1#6 ++ d ++ a ++ b ++ 0x11#5) = some w := e
  obtain rfl := Option.some.inj e
  unfold decodeWord
  rw [show bf (0x1#6 ++ d ++ a ++ b ++ 0x11#5 : Word) 26 6 = 0x1#6 by
    simp (disch := decide) only [bf_append_high, bf_append_low, bf_full, Nat.reduceSub]]
  change decodeInt32 _ = _
  simp (disch := decide) only [decodeInt32, bf_append_high, bf_append_low, bf_full, Nat.reduceSub, Nat.sub_self]
  try rfl

theorem andn64 (d a b : BitVec 7) : Statement (.andn64 d a b) := by
  intro hc ir w e
  have e : some (0x2#6 ++ d ++ a ++ b ++ 0x11#5) = some w := e
  obtain rfl := Option.some.inj e
  unfold decodeWord
  rw [show bf (0x2#6 ++ d ++ a ++ b ++ 0x11#5 : Word) 26 6 = 0x2#6 by
    simp (disch := decide) only [bf_append_high, bf_append_low, bf_full, Nat.reduceSub]]
  change decodeInt64 _ = _
  simp (disch := decide) only [decodeInt64, bf_append_high, bf_append_low, bf_full, Nat.reduceSub, Nat.sub_self]
  try rfl

theorem shl32 (d a b : BitVec 7) : Statement (.shl32 d a b) := by
  intro hc ir w e
  have e : some (0x1#6 ++ d ++ a ++ b ++ 0x12#5) = some w := e
  obtain rfl := Option.some.inj e
  unfold decodeWord
  rw [show bf (0x1#6 ++ d ++ a ++ b ++ 0x12#5 : Word) 26 6 = 0x1#6 by
    simp (disch := decide) only [bf_append_high, bf_append_low, bf_full, Nat.reduceSub]]
  change decodeInt32 _ = _
  simp (disch := decide) only [decodeInt32, bf_append_high, bf_append_low, bf_full, Nat.reduceSub, Nat.sub_self]
  try rfl

theorem shl64 (d a b : BitVec 7) : Statement (.shl64 d a b) := by
  intro hc ir w e
  have e : some (0x2#6 ++ d ++ a ++ b ++ 0x12#5) = some w := e
  obtain rfl := Option.some.inj e
  unfold decodeWord
  rw [show bf (0x2#6 ++ d ++ a ++ b ++ 0x12#5 : Word) 26 6 = 0x2#6 by
    simp (disch := decide) only [bf_append_high, bf_append_low, bf_full, Nat.reduceSub]]
  change decodeInt64 _ = _
  simp (disch := decide) only [decodeInt64, bf_append_high, bf_append_low, bf_full, Nat.reduceSub, Nat.sub_self]
  try rfl

theorem shr32 (d a b : BitVec 7) : Statement (.shr32 d a b) := by
  intro hc ir w e
  have e : some (0x1#6 ++ d ++ a ++ b ++ 0x13#5) = some w := e
  obtain rfl := Option.some.inj e
  unfold decodeWord
  rw [show bf (0x1#6 ++ d ++ a ++ b ++ 0x13#5 : Word) 26 6 = 0x1#6 by
    simp (disch := decide) only [bf_append_high, bf_append_low, bf_full, Nat.reduceSub]]
  change decodeInt32 _ = _
  simp (disch := decide) only [decodeInt32, bf_append_high, bf_append_low, bf_full, Nat.reduceSub, Nat.sub_self]
  try rfl

theorem shr64 (d a b : BitVec 7) : Statement (.shr64 d a b) := by
  intro hc ir w e
  have e : some (0x2#6 ++ d ++ a ++ b ++ 0x13#5) = some w := e
  obtain rfl := Option.some.inj e
  unfold decodeWord
  rw [show bf (0x2#6 ++ d ++ a ++ b ++ 0x13#5 : Word) 26 6 = 0x2#6 by
    simp (disch := decide) only [bf_append_high, bf_append_low, bf_full, Nat.reduceSub]]
  change decodeInt64 _ = _
  simp (disch := decide) only [decodeInt64, bf_append_high, bf_append_low, bf_full, Nat.reduceSub, Nat.sub_self]
  try rfl

theorem sra32 (d a b : BitVec 7) : Statement (.sra32 d a b) := by
  intro hc ir w e
  have e : some (0x1#6 ++ d ++ a ++ b ++ 0x14#5) = some w := e
  obtain rfl := Option.some.inj e
  unfold decodeWord
  rw [show bf (0x1#6 ++ d ++ a ++ b ++ 0x14#5 : Word) 26 6 = 0x1#6 by
    simp (disch := decide) only [bf_append_high, bf_append_low, bf_full, Nat.reduceSub]]
  change decodeInt32 _ = _
  simp (disch := decide) only [decodeInt32, bf_append_high, bf_append_low, bf_full, Nat.reduceSub, Nat.sub_self]
  try rfl

theorem sra64 (d a b : BitVec 7) : Statement (.sra64 d a b) := by
  intro hc ir w e
  have e : some (0x2#6 ++ d ++ a ++ b ++ 0x14#5) = some w := e
  obtain rfl := Option.some.inj e
  unfold decodeWord
  rw [show bf (0x2#6 ++ d ++ a ++ b ++ 0x14#5 : Word) 26 6 = 0x2#6 by
    simp (disch := decide) only [bf_append_high, bf_append_low, bf_full, Nat.reduceSub]]
  change decodeInt64 _ = _
  simp (disch := decide) only [decodeInt64, bf_append_high, bf_append_low, bf_full, Nat.reduceSub, Nat.sub_self]
  try rfl

theorem rotl32 (d a b : BitVec 7) : Statement (.rotl32 d a b) := by
  intro hc ir w e
  have e : some (0x1#6 ++ d ++ a ++ b ++ 0x15#5) = some w := e
  obtain rfl := Option.some.inj e
  unfold decodeWord
  rw [show bf (0x1#6 ++ d ++ a ++ b ++ 0x15#5 : Word) 26 6 = 0x1#6 by
    simp (disch := decide) only [bf_append_high, bf_append_low, bf_full, Nat.reduceSub]]
  change decodeInt32 _ = _
  simp (disch := decide) only [decodeInt32, bf_append_high, bf_append_low, bf_full, Nat.reduceSub, Nat.sub_self]
  try rfl

theorem rotl64 (d a b : BitVec 7) : Statement (.rotl64 d a b) := by
  intro hc ir w e
  have e : some (0x2#6 ++ d ++ a ++ b ++ 0x15#5) = some w := e
  obtain rfl := Option.some.inj e
  unfold decodeWord
  rw [show bf (0x2#6 ++ d ++ a ++ b ++ 0x15#5 : Word) 26 6 = 0x2#6 by
    simp (disch := decide) only [bf_append_high, bf_append_low, bf_full, Nat.reduceSub]]
  change decodeInt64 _ = _
  simp (disch := decide) only [decodeInt64, bf_append_high, bf_append_low, bf_full, Nat.reduceSub, Nat.sub_self]
  try rfl

theorem imad32 (d a b : BitVec 7) : Statement (.imad32 d a b) := by
  intro hc ir w e
  have e : some (0x1#6 ++ d ++ a ++ b ++ 0x16#5) = some w := e
  obtain rfl := Option.some.inj e
  unfold decodeWord
  rw [show bf (0x1#6 ++ d ++ a ++ b ++ 0x16#5 : Word) 26 6 = 0x1#6 by
    simp (disch := decide) only [bf_append_high, bf_append_low, bf_full, Nat.reduceSub]]
  change decodeInt32 _ = _
  simp (disch := decide) only [decodeInt32, bf_append_high, bf_append_low, bf_full, Nat.reduceSub, Nat.sub_self]
  try rfl

theorem imad64 (d a b : BitVec 7) : Statement (.imad64 d a b) := by
  intro hc ir w e
  have e : some (0x2#6 ++ d ++ a ++ b ++ 0x16#5) = some w := e
  obtain rfl := Option.some.inj e
  unfold decodeWord
  rw [show bf (0x2#6 ++ d ++ a ++ b ++ 0x16#5 : Word) 26 6 = 0x2#6 by
    simp (disch := decide) only [bf_append_high, bf_append_low, bf_full, Nat.reduceSub]]
  change decodeInt64 _ = _
  simp (disch := decide) only [decodeInt64, bf_append_high, bf_append_low, bf_full, Nat.reduceSub, Nat.sub_self]
  try rfl

theorem iaddImm32 (d a : BitVec 7) (i : BitVec 12) : Statement (.iaddImm32 d a i) := by
  intro hc ir w e
  have e : some (0x4#6 ++ d ++ a ++ i) = some w := e
  obtain rfl := Option.some.inj e
  unfold decodeWord
  rw [show bf (0x4#6 ++ d ++ a ++ i : Word) 26 6 = 0x4#6 by
    simp (disch := decide) only [bf_append_high, bf_append_low, bf_full, Nat.reduceSub]]
  change decodeIaddImm32 _ = _
  simp (disch := decide) only [decodeIaddImm32, bf_append_high, bf_append_low, bf_full, Nat.reduceSub, Nat.sub_self]
  try rfl

theorem iaddImm64 (d a : BitVec 7) (i : BitVec 12) : Statement (.iaddImm64 d a i) := by
  intro hc ir w e
  have e : some (0x5#6 ++ d ++ a ++ i) = some w := e
  obtain rfl := Option.some.inj e
  unfold decodeWord
  rw [show bf (0x5#6 ++ d ++ a ++ i : Word) 26 6 = 0x5#6 by
    simp (disch := decide) only [bf_append_high, bf_append_low, bf_full, Nat.reduceSub]]
  change decodeIaddImm64 _ = _
  simp (disch := decide) only [decodeIaddImm64, bf_append_high, bf_append_low, bf_full, Nat.reduceSub, Nat.sub_self]
  try rfl

theorem andImm (d a : BitVec 7) (i : BitVec 12) : Statement (.andImm d a i) := by
  intro hc ir w e
  have e : some (0x6#6 ++ d ++ a ++ i) = some w := e
  obtain rfl := Option.some.inj e
  unfold decodeWord
  rw [show bf (0x6#6 ++ d ++ a ++ i : Word) 26 6 = 0x6#6 by
    simp (disch := decide) only [bf_append_high, bf_append_low, bf_full, Nat.reduceSub]]
  change decodeAndImm _ = _
  simp (disch := decide) only [decodeAndImm, bf_append_high, bf_append_low, bf_full, Nat.reduceSub, Nat.sub_self]
  try rfl

theorem orImm (d a : BitVec 7) (i : BitVec 12) : Statement (.orImm d a i) := by
  intro hc ir w e
  have e : some (0x7#6 ++ d ++ a ++ i) = some w := e
  obtain rfl := Option.some.inj e
  unfold decodeWord
  rw [show bf (0x7#6 ++ d ++ a ++ i : Word) 26 6 = 0x7#6 by
    simp (disch := decide) only [bf_append_high, bf_append_low, bf_full, Nat.reduceSub]]
  change decodeOrImm _ = _
  simp (disch := decide) only [decodeOrImm, bf_append_high, bf_append_low, bf_full, Nat.reduceSub, Nat.sub_self]
  try rfl

theorem xorImm (d a : BitVec 7) (i : BitVec 12) : Statement (.xorImm d a i) := by
  intro hc ir w e
  have e : some (0x8#6 ++ d ++ a ++ i) = some w := e
  obtain rfl := Option.some.inj e
  unfold decodeWord
  rw [show bf (0x8#6 ++ d ++ a ++ i : Word) 26 6 = 0x8#6 by
    simp (disch := decide) only [bf_append_high, bf_append_low, bf_full, Nat.reduceSub]]
  change decodeXorImm _ = _
  simp (disch := decide) only [decodeXorImm, bf_append_high, bf_append_low, bf_full, Nat.reduceSub, Nat.sub_self]
  try rfl

theorem shlImm32 (d a : BitVec 7) (k : BitVec 5) : Statement (.shlImm32 d a k) := by
  intro hc ir w e
  have e : some (0x9#6 ++ d ++ a ++ 0x0#7 ++ k) = some w := e
  obtain rfl := Option.some.inj e
  unfold decodeWord
  rw [show bf (0x9#6 ++ d ++ a ++ 0x0#7 ++ k : Word) 26 6 = 0x9#6 by
    simp (disch := decide) only [bf_append_high, bf_append_low, bf_full, Nat.reduceSub]]
  change decodeShiftImm _ = _
  simp (disch := decide) only [decodeShiftImm, bf_append_high, bf_append_low, bf_full, Nat.reduceSub, Nat.sub_self]
  try rfl

theorem shlImm64 (d a : BitVec 7) (k : BitVec 6) : Statement (.shlImm64 d a k) := by
  intro hc ir w e
  have e : some (0x9#6 ++ d ++ a ++ 0x8#6 ++ k) = some w := e
  obtain rfl := Option.some.inj e
  unfold decodeWord
  rw [show bf (0x9#6 ++ d ++ a ++ 0x8#6 ++ k : Word) 26 6 = 0x9#6 by
    simp (disch := decide) only [bf_append_high, bf_append_low, bf_full, Nat.reduceSub]]
  change decodeShiftImm _ = _
  simp (disch := decide) only [decodeShiftImm, bf_append_high, bf_append_low, bf_full, Nat.reduceSub, Nat.sub_self]
  try rfl

theorem shrImm32 (d a : BitVec 7) (k : BitVec 5) : Statement (.shrImm32 d a k) := by
  intro hc ir w e
  have e : some (0x9#6 ++ d ++ a ++ 0x20#7 ++ k) = some w := e
  obtain rfl := Option.some.inj e
  unfold decodeWord
  rw [show bf (0x9#6 ++ d ++ a ++ 0x20#7 ++ k : Word) 26 6 = 0x9#6 by
    simp (disch := decide) only [bf_append_high, bf_append_low, bf_full, Nat.reduceSub]]
  change decodeShiftImm _ = _
  simp (disch := decide) only [decodeShiftImm, bf_append_high, bf_append_low, bf_full, Nat.reduceSub, Nat.sub_self]
  try rfl

theorem shrImm64 (d a : BitVec 7) (k : BitVec 6) : Statement (.shrImm64 d a k) := by
  intro hc ir w e
  have e : some (0x9#6 ++ d ++ a ++ 0x18#6 ++ k) = some w := e
  obtain rfl := Option.some.inj e
  unfold decodeWord
  rw [show bf (0x9#6 ++ d ++ a ++ 0x18#6 ++ k : Word) 26 6 = 0x9#6 by
    simp (disch := decide) only [bf_append_high, bf_append_low, bf_full, Nat.reduceSub]]
  change decodeShiftImm _ = _
  simp (disch := decide) only [decodeShiftImm, bf_append_high, bf_append_low, bf_full, Nat.reduceSub, Nat.sub_self]
  try rfl

theorem sraImm32 (d a : BitVec 7) (k : BitVec 5) : Statement (.sraImm32 d a k) := by
  intro hc ir w e
  have e : some (0x9#6 ++ d ++ a ++ 0x40#7 ++ k) = some w := e
  obtain rfl := Option.some.inj e
  unfold decodeWord
  rw [show bf (0x9#6 ++ d ++ a ++ 0x40#7 ++ k : Word) 26 6 = 0x9#6 by
    simp (disch := decide) only [bf_append_high, bf_append_low, bf_full, Nat.reduceSub]]
  change decodeShiftImm _ = _
  simp (disch := decide) only [decodeShiftImm, bf_append_high, bf_append_low, bf_full, Nat.reduceSub, Nat.sub_self]
  try rfl

theorem sraImm64 (d a : BitVec 7) (k : BitVec 6) : Statement (.sraImm64 d a k) := by
  intro hc ir w e
  have e : some (0x9#6 ++ d ++ a ++ 0x28#6 ++ k) = some w := e
  obtain rfl := Option.some.inj e
  unfold decodeWord
  rw [show bf (0x9#6 ++ d ++ a ++ 0x28#6 ++ k : Word) 26 6 = 0x9#6 by
    simp (disch := decide) only [bf_append_high, bf_append_low, bf_full, Nat.reduceSub]]
  change decodeShiftImm _ = _
  simp (disch := decide) only [decodeShiftImm, bf_append_high, bf_append_low, bf_full, Nat.reduceSub, Nat.sub_self]
  try rfl

theorem rotlImm32 (d a : BitVec 7) (k : BitVec 5) : Statement (.rotlImm32 d a k) := by
  intro hc ir w e
  have e : some (0x9#6 ++ d ++ a ++ 0x60#7 ++ k) = some w := e
  obtain rfl := Option.some.inj e
  unfold decodeWord
  rw [show bf (0x9#6 ++ d ++ a ++ 0x60#7 ++ k : Word) 26 6 = 0x9#6 by
    simp (disch := decide) only [bf_append_high, bf_append_low, bf_full, Nat.reduceSub]]
  change decodeShiftImm _ = _
  simp (disch := decide) only [decodeShiftImm, bf_append_high, bf_append_low, bf_full, Nat.reduceSub, Nat.sub_self]
  try rfl

theorem rotlImm64 (d a : BitVec 7) (k : BitVec 6) : Statement (.rotlImm64 d a k) := by
  intro hc ir w e
  have e : some (0x9#6 ++ d ++ a ++ 0x38#6 ++ k) = some w := e
  obtain rfl := Option.some.inj e
  unfold decodeWord
  rw [show bf (0x9#6 ++ d ++ a ++ 0x38#6 ++ k : Word) 26 6 = 0x9#6 by
    simp (disch := decide) only [bf_append_high, bf_append_low, bf_full, Nat.reduceSub]]
  change decodeShiftImm _ = _
  simp (disch := decide) only [decodeShiftImm, bf_append_high, bf_append_low, bf_full, Nat.reduceSub, Nat.sub_self]
  try rfl

theorem movi (d : BitVec 7) (i : BitVec 19) : Statement (.movi d i) := by
  intro hc ir w e
  have e : some (0xA#6 ++ d ++ i) = some w := e
  obtain rfl := Option.some.inj e
  unfold decodeWord
  rw [show bf (0xA#6 ++ d ++ i : Word) 26 6 = 0xA#6 by
    simp (disch := decide) only [bf_append_high, bf_append_low, bf_full, Nat.reduceSub]]
  change decodeMovi _ = _
  simp (disch := decide) only [decodeMovi, bf_append_high, bf_append_low, bf_full, Nat.reduceSub, Nat.sub_self]
  try rfl

theorem popc32 (d a : BitVec 7) : Statement (.popc32 d a) := by
  intro hc ir w e
  have e : some (0x3#6 ++ d ++ a ++ 0x0#12) = some w := e
  obtain rfl := Option.some.inj e
  unfold decodeWord
  rw [show bf (0x3#6 ++ d ++ a ++ 0x0#12 : Word) 26 6 = 0x3#6 by
    simp (disch := decide) only [bf_append_high, bf_append_low, bf_full, Nat.reduceSub]]
  change decodeBits _ = _
  simp (disch := decide) only [decodeBits, bf_append_high, bf_append_low, bf_full, Nat.reduceSub, Nat.sub_self]
  try rfl

theorem popc64 (d a : BitVec 7) : Statement (.popc64 d a) := by
  intro hc ir w e
  have e : some (0x3#6 ++ d ++ a ++ 0x1#12) = some w := e
  obtain rfl := Option.some.inj e
  unfold decodeWord
  rw [show bf (0x3#6 ++ d ++ a ++ 0x1#12 : Word) 26 6 = 0x3#6 by
    simp (disch := decide) only [bf_append_high, bf_append_low, bf_full, Nat.reduceSub]]
  change decodeBits _ = _
  simp (disch := decide) only [decodeBits, bf_append_high, bf_append_low, bf_full, Nat.reduceSub, Nat.sub_self]
  try rfl

theorem clz32 (d a : BitVec 7) : Statement (.clz32 d a) := by
  intro hc ir w e
  have e : some (0x3#6 ++ d ++ a ++ 0x2#12) = some w := e
  obtain rfl := Option.some.inj e
  unfold decodeWord
  rw [show bf (0x3#6 ++ d ++ a ++ 0x2#12 : Word) 26 6 = 0x3#6 by
    simp (disch := decide) only [bf_append_high, bf_append_low, bf_full, Nat.reduceSub]]
  change decodeBits _ = _
  simp (disch := decide) only [decodeBits, bf_append_high, bf_append_low, bf_full, Nat.reduceSub, Nat.sub_self]
  try rfl

theorem clz64 (d a : BitVec 7) : Statement (.clz64 d a) := by
  intro hc ir w e
  have e : some (0x3#6 ++ d ++ a ++ 0x3#12) = some w := e
  obtain rfl := Option.some.inj e
  unfold decodeWord
  rw [show bf (0x3#6 ++ d ++ a ++ 0x3#12 : Word) 26 6 = 0x3#6 by
    simp (disch := decide) only [bf_append_high, bf_append_low, bf_full, Nat.reduceSub]]
  change decodeBits _ = _
  simp (disch := decide) only [decodeBits, bf_append_high, bf_append_low, bf_full, Nat.reduceSub, Nat.sub_self]
  try rfl

theorem ctz32 (d a : BitVec 7) : Statement (.ctz32 d a) := by
  intro hc ir w e
  have e : some (0x3#6 ++ d ++ a ++ 0x4#12) = some w := e
  obtain rfl := Option.some.inj e
  unfold decodeWord
  rw [show bf (0x3#6 ++ d ++ a ++ 0x4#12 : Word) 26 6 = 0x3#6 by
    simp (disch := decide) only [bf_append_high, bf_append_low, bf_full, Nat.reduceSub]]
  change decodeBits _ = _
  simp (disch := decide) only [decodeBits, bf_append_high, bf_append_low, bf_full, Nat.reduceSub, Nat.sub_self]
  try rfl

theorem ctz64 (d a : BitVec 7) : Statement (.ctz64 d a) := by
  intro hc ir w e
  have e : some (0x3#6 ++ d ++ a ++ 0x5#12) = some w := e
  obtain rfl := Option.some.inj e
  unfold decodeWord
  rw [show bf (0x3#6 ++ d ++ a ++ 0x5#12 : Word) 26 6 = 0x3#6 by
    simp (disch := decide) only [bf_append_high, bf_append_low, bf_full, Nat.reduceSub]]
  change decodeBits _ = _
  simp (disch := decide) only [decodeBits, bf_append_high, bf_append_low, bf_full, Nat.reduceSub, Nat.sub_self]
  try rfl

theorem brev32 (d a : BitVec 7) : Statement (.brev32 d a) := by
  intro hc ir w e
  have e : some (0x3#6 ++ d ++ a ++ 0x6#12) = some w := e
  obtain rfl := Option.some.inj e
  unfold decodeWord
  rw [show bf (0x3#6 ++ d ++ a ++ 0x6#12 : Word) 26 6 = 0x3#6 by
    simp (disch := decide) only [bf_append_high, bf_append_low, bf_full, Nat.reduceSub]]
  change decodeBits _ = _
  simp (disch := decide) only [decodeBits, bf_append_high, bf_append_low, bf_full, Nat.reduceSub, Nat.sub_self]
  try rfl

theorem brev64 (d a : BitVec 7) : Statement (.brev64 d a) := by
  intro hc ir w e
  have e : some (0x3#6 ++ d ++ a ++ 0x7#12) = some w := e
  obtain rfl := Option.some.inj e
  unfold decodeWord
  rw [show bf (0x3#6 ++ d ++ a ++ 0x7#12 : Word) 26 6 = 0x3#6 by
    simp (disch := decide) only [bf_append_high, bf_append_low, bf_full, Nat.reduceSub]]
  change decodeBits _ = _
  simp (disch := decide) only [decodeBits, bf_append_high, bf_append_low, bf_full, Nat.reduceSub, Nat.sub_self]
  try rfl

theorem bfxI64 (d a b : BitVec 7) : Statement (.bfxI64 d a b) := by
  intro hc ir w e
  have e : some (0x3#6 ++ d ++ a ++ b ++ 0x8#5) = some w := e
  obtain rfl := Option.some.inj e
  unfold decodeWord
  rw [show bf (0x3#6 ++ d ++ a ++ b ++ 0x8#5 : Word) 26 6 = 0x3#6 by
    simp (disch := decide) only [bf_append_high, bf_append_low, bf_full, Nat.reduceSub]]
  change decodeBits _ = _
  simp (disch := decide) only [decodeBits, bf_append_high, bf_append_low, bf_full, Nat.reduceSub, Nat.sub_self]
  try rfl

theorem bfxN64 (d a b : BitVec 7) : Statement (.bfxN64 d a b) := by
  intro hc ir w e
  have e : some (0x3#6 ++ d ++ a ++ b ++ 0x9#5) = some w := e
  obtain rfl := Option.some.inj e
  unfold decodeWord
  rw [show bf (0x3#6 ++ d ++ a ++ b ++ 0x9#5 : Word) 26 6 = 0x3#6 by
    simp (disch := decide) only [bf_append_high, bf_append_low, bf_full, Nat.reduceSub]]
  change decodeBits _ = _
  simp (disch := decide) only [decodeBits, bf_append_high, bf_append_low, bf_full, Nat.reduceSub, Nat.sub_self]
  try rfl

theorem bfi (d a b : BitVec 7) : Statement (.bfi d a b) := by
  intro hc ir w e
  have e : some (0x3#6 ++ d ++ a ++ b ++ 0xA#5) = some w := e
  obtain rfl := Option.some.inj e
  unfold decodeWord
  rw [show bf (0x3#6 ++ d ++ a ++ b ++ 0xA#5 : Word) 26 6 = 0x3#6 by
    simp (disch := decide) only [bf_append_high, bf_append_low, bf_full, Nat.reduceSub]]
  change decodeBits _ = _
  simp (disch := decide) only [decodeBits, bf_append_high, bf_append_low, bf_full, Nat.reduceSub, Nat.sub_self]
  try rfl

theorem bilv (d a b : BitVec 7) : Statement (.bilv d a b) := by
  intro hc ir w e
  have e : some (0x3#6 ++ d ++ a ++ b ++ 0xB#5) = some w := e
  obtain rfl := Option.some.inj e
  unfold decodeWord
  rw [show bf (0x3#6 ++ d ++ a ++ b ++ 0xB#5 : Word) 26 6 = 0x3#6 by
    simp (disch := decide) only [bf_append_high, bf_append_low, bf_full, Nat.reduceSub]]
  change decodeBits _ = _
  simp (disch := decide) only [decodeBits, bf_append_high, bf_append_low, bf_full, Nat.reduceSub, Nat.sub_self]
  try rfl

theorem bdilv (d a b : BitVec 7) : Statement (.bdilv d a b) := by
  intro hc ir w e
  have e : some (0x3#6 ++ d ++ a ++ b ++ 0xC#5) = some w := e
  obtain rfl := Option.some.inj e
  unfold decodeWord
  rw [show bf (0x3#6 ++ d ++ a ++ b ++ 0xC#5 : Word) 26 6 = 0x3#6 by
    simp (disch := decide) only [bf_append_high, bf_append_low, bf_full, Nat.reduceSub]]
  change decodeBits _ = _
  simp (disch := decide) only [decodeBits, bf_append_high, bf_append_low, bf_full, Nat.reduceSub, Nat.sub_self]
  try rfl

theorem perm8 (d a b : BitVec 7) : Statement (.perm8 d a b) := by
  intro hc ir w e
  have e : some (0x3#6 ++ d ++ a ++ b ++ 0xD#5) = some w := e
  obtain rfl := Option.some.inj e
  unfold decodeWord
  rw [show bf (0x3#6 ++ d ++ a ++ b ++ 0xD#5 : Word) 26 6 = 0x3#6 by
    simp (disch := decide) only [bf_append_high, bf_append_low, bf_full, Nat.reduceSub]]
  change decodeBits _ = _
  simp (disch := decide) only [decodeBits, bf_append_high, bf_append_low, bf_full, Nat.reduceSub, Nat.sub_self]
  try rfl

theorem fsh32 (d a b : BitVec 7) : Statement (.fsh32 d a b) := by
  intro hc ir w e
  have e : some (0x3#6 ++ d ++ a ++ b ++ 0xE#5) = some w := e
  obtain rfl := Option.some.inj e
  unfold decodeWord
  rw [show bf (0x3#6 ++ d ++ a ++ b ++ 0xE#5 : Word) 26 6 = 0x3#6 by
    simp (disch := decide) only [bf_append_high, bf_append_low, bf_full, Nat.reduceSub]]
  change decodeBits _ = _
  simp (disch := decide) only [decodeBits, bf_append_high, bf_append_low, bf_full, Nat.reduceSub, Nat.sub_self]
  try rfl

theorem fsh64 (d a b : BitVec 7) : Statement (.fsh64 d a b) := by
  intro hc ir w e
  have e : some (0x3#6 ++ d ++ a ++ b ++ 0xF#5) = some w := e
  obtain rfl := Option.some.inj e
  unfold decodeWord
  rw [show bf (0x3#6 ++ d ++ a ++ b ++ 0xF#5 : Word) 26 6 = 0x3#6 by
    simp (disch := decide) only [bf_append_high, bf_append_low, bf_full, Nat.reduceSub]]
  change decodeBits _ = _
  simp (disch := decide) only [decodeBits, bf_append_high, bf_append_low, bf_full, Nat.reduceSub, Nat.sub_self]
  try rfl

theorem sextI8 (d a : BitVec 7) : Statement (.sextI8 d a) := by
  intro hc ir w e
  have e : some (0x3#6 ++ d ++ a ++ 0x10#12) = some w := e
  obtain rfl := Option.some.inj e
  unfold decodeWord
  rw [show bf (0x3#6 ++ d ++ a ++ 0x10#12 : Word) 26 6 = 0x3#6 by
    simp (disch := decide) only [bf_append_high, bf_append_low, bf_full, Nat.reduceSub]]
  change decodeBits _ = _
  simp (disch := decide) only [decodeBits, bf_append_high, bf_append_low, bf_full, Nat.reduceSub, Nat.sub_self]
  try rfl

theorem sextI16 (d a : BitVec 7) : Statement (.sextI16 d a) := by
  intro hc ir w e
  have e : some (0x3#6 ++ d ++ a ++ 0x11#12) = some w := e
  obtain rfl := Option.some.inj e
  unfold decodeWord
  rw [show bf (0x3#6 ++ d ++ a ++ 0x11#12 : Word) 26 6 = 0x3#6 by
    simp (disch := decide) only [bf_append_high, bf_append_low, bf_full, Nat.reduceSub]]
  change decodeBits _ = _
  simp (disch := decide) only [decodeBits, bf_append_high, bf_append_low, bf_full, Nat.reduceSub, Nat.sub_self]
  try rfl

theorem sextI32 (d a : BitVec 7) : Statement (.sextI32 d a) := by
  intro hc ir w e
  have e : some (0x3#6 ++ d ++ a ++ 0x12#12) = some w := e
  obtain rfl := Option.some.inj e
  unfold decodeWord
  rw [show bf (0x3#6 ++ d ++ a ++ 0x12#12 : Word) 26 6 = 0x3#6 by
    simp (disch := decide) only [bf_append_high, bf_append_low, bf_full, Nat.reduceSub]]
  change decodeBits _ = _
  simp (disch := decide) only [decodeBits, bf_append_high, bf_append_low, bf_full, Nat.reduceSub, Nat.sub_self]
  try rfl

theorem zextN8 (d a : BitVec 7) : Statement (.zextN8 d a) := by
  intro hc ir w e
  have e : some (0x3#6 ++ d ++ a ++ 0x13#12) = some w := e
  obtain rfl := Option.some.inj e
  unfold decodeWord
  rw [show bf (0x3#6 ++ d ++ a ++ 0x13#12 : Word) 26 6 = 0x3#6 by
    simp (disch := decide) only [bf_append_high, bf_append_low, bf_full, Nat.reduceSub]]
  change decodeBits _ = _
  simp (disch := decide) only [decodeBits, bf_append_high, bf_append_low, bf_full, Nat.reduceSub, Nat.sub_self]
  try rfl

theorem zextN16 (d a : BitVec 7) : Statement (.zextN16 d a) := by
  intro hc ir w e
  have e : some (0x3#6 ++ d ++ a ++ 0x14#12) = some w := e
  obtain rfl := Option.some.inj e
  unfold decodeWord
  rw [show bf (0x3#6 ++ d ++ a ++ 0x14#12 : Word) 26 6 = 0x3#6 by
    simp (disch := decide) only [bf_append_high, bf_append_low, bf_full, Nat.reduceSub]]
  change decodeBits _ = _
  simp (disch := decide) only [decodeBits, bf_append_high, bf_append_low, bf_full, Nat.reduceSub, Nat.sub_self]
  try rfl

theorem zextN32 (d a : BitVec 7) : Statement (.zextN32 d a) := by
  intro hc ir w e
  have e : some (0x3#6 ++ d ++ a ++ 0x15#12) = some w := e
  obtain rfl := Option.some.inj e
  unfold decodeWord
  rw [show bf (0x3#6 ++ d ++ a ++ 0x15#12 : Word) 26 6 = 0x3#6 by
    simp (disch := decide) only [bf_append_high, bf_append_low, bf_full, Nat.reduceSub]]
  change decodeBits _ = _
  simp (disch := decide) only [decodeBits, bf_append_high, bf_append_low, bf_full, Nat.reduceSub, Nat.sub_self]
  try rfl

theorem mov (d a : BitVec 7) : Statement (.mov d a) := by
  intro hc ir w e
  have e : some (0x3#6 ++ d ++ a ++ 0x16#12) = some w := e
  obtain rfl := Option.some.inj e
  unfold decodeWord
  rw [show bf (0x3#6 ++ d ++ a ++ 0x16#12 : Word) 26 6 = 0x3#6 by
    simp (disch := decide) only [bf_append_high, bf_append_low, bf_full, Nat.reduceSub]]
  change decodeBits _ = _
  simp (disch := decide) only [decodeBits, bf_append_high, bf_append_low, bf_full, Nat.reduceSub, Nat.sub_self]
  try rfl

theorem addr (d a b : BitVec 7) : Statement (.addr d a b) := by
  intro hc ir w e
  have e : some (0x3#6 ++ d ++ a ++ b ++ 0x17#5) = some w := e
  obtain rfl := Option.some.inj e
  unfold decodeWord
  rw [show bf (0x3#6 ++ d ++ a ++ b ++ 0x17#5 : Word) 26 6 = 0x3#6 by
    simp (disch := decide) only [bf_append_high, bf_append_low, bf_full, Nat.reduceSub]]
  change decodeBits _ = _
  simp (disch := decide) only [decodeBits, bf_append_high, bf_append_low, bf_full, Nat.reduceSub, Nat.sub_self]
  try rfl

theorem dot4I8 (d a b : BitVec 7) : Statement (.dot4I8 d a b) := by
  intro hc ir w e
  have e : some (0x3#6 ++ d ++ a ++ b ++ 0x18#5) = some w := e
  obtain rfl := Option.some.inj e
  unfold decodeWord
  rw [show bf (0x3#6 ++ d ++ a ++ b ++ 0x18#5 : Word) 26 6 = 0x3#6 by
    simp (disch := decide) only [bf_append_high, bf_append_low, bf_full, Nat.reduceSub]]
  change decodeBits _ = _
  simp (disch := decide) only [decodeBits, bf_append_high, bf_append_low, bf_full, Nat.reduceSub, Nat.sub_self]
  try rfl

theorem dot4N8 (d a b : BitVec 7) : Statement (.dot4N8 d a b) := by
  intro hc ir w e
  have e : some (0x3#6 ++ d ++ a ++ b ++ 0x19#5) = some w := e
  obtain rfl := Option.some.inj e
  unfold decodeWord
  rw [show bf (0x3#6 ++ d ++ a ++ b ++ 0x19#5 : Word) 26 6 = 0x3#6 by
    simp (disch := decide) only [bf_append_high, bf_append_low, bf_full, Nat.reduceSub]]
  change decodeBits _ = _
  simp (disch := decide) only [decodeBits, bf_append_high, bf_append_low, bf_full, Nat.reduceSub, Nat.sub_self]
  try rfl

theorem icmp (p c : BitVec 4) (a b : BitVec 7) (t : BitVec 4) : Statement (.icmp p c a b t) := by
  intro hc ir w he
  have hw := Option.some.inj (show some (0xB#6 ++ p ++ c ++ a ++ b ++ t) = some w from he)
  clear he
  have m : bf w 26 6 = 0xB#6 := by subst hw; simp (disch := decide) only [bf_append_high, bf_append_low, bf_full, Nat.reduceSub, Nat.sub_self]
  unfold decodeWord
  rw [m]
  change decodeCompare _ = _
  have h1 : bf w 22 4 = p := by subst hw; simp (disch := decide) only [bf_append_high, bf_append_low, bf_full, Nat.reduceSub, Nat.sub_self]
  have h2 : bf w 18 4 = c := by subst hw; simp (disch := decide) only [bf_append_high, bf_append_low, bf_full, Nat.reduceSub, Nat.sub_self]
  have h3 : bf w 11 7 = a := by subst hw; simp (disch := decide) only [bf_append_high, bf_append_low, bf_full, Nat.reduceSub, Nat.sub_self]
  have h4 : bf w 4 7 = b := by subst hw; simp (disch := decide) only [bf_append_high, bf_append_low, bf_full, Nat.reduceSub, Nat.sub_self]
  have h5 : bf w 0 4 = t := by subst hw; simp (disch := decide) only [bf_append_high, bf_append_low, bf_full, Nat.reduceSub, Nat.sub_self]
  unfold decodeCompare
  rw [h1, h2, h3, h4, h5]
  exact if_neg (by simpa [Instr.canonical] using hc)

theorem fcmp (p c : BitVec 4) (a b : BitVec 7) (t : BitVec 4) : Statement (.fcmp p c a b t) := by
  intro hc ir w he
  have hw := Option.some.inj (show some (0xB#6 ++ p ++ c ++ a ++ b ++ t) = some w from he)
  clear he
  have m : bf w 26 6 = 0xB#6 := by subst hw; simp (disch := decide) only [bf_append_high, bf_append_low, bf_full, Nat.reduceSub, Nat.sub_self]
  unfold decodeWord
  rw [m]
  change decodeCompare _ = _
  have h1 : bf w 22 4 = p := by subst hw; simp (disch := decide) only [bf_append_high, bf_append_low, bf_full, Nat.reduceSub, Nat.sub_self]
  have h2 : bf w 18 4 = c := by subst hw; simp (disch := decide) only [bf_append_high, bf_append_low, bf_full, Nat.reduceSub, Nat.sub_self]
  have h3 : bf w 11 7 = a := by subst hw; simp (disch := decide) only [bf_append_high, bf_append_low, bf_full, Nat.reduceSub, Nat.sub_self]
  have h4 : bf w 4 7 = b := by subst hw; simp (disch := decide) only [bf_append_high, bf_append_low, bf_full, Nat.reduceSub, Nat.sub_self]
  have h5 : bf w 0 4 = t := by subst hw; simp (disch := decide) only [bf_append_high, bf_append_low, bf_full, Nat.reduceSub, Nat.sub_self]
  unfold decodeCompare
  rw [h1, h2, h3, h4, h5]
  exact if_pos hc

theorem pset (p l a b : BitVec 4) : Statement (.pset p l a b) := by
  intro hc ir w e
  have e : some (0xC#6 ++ p ++ l ++ a ++ b ++ 0x0#10) = some w := e
  obtain rfl := Option.some.inj e
  unfold decodeWord
  rw [show bf (0xC#6 ++ p ++ l ++ a ++ b ++ 0x0#10 : Word) 26 6 = 0xC#6 by
    simp (disch := decide) only [bf_append_high, bf_append_low, bf_full, Nat.reduceSub]]
  change decodePset _ = _
  simp (disch := decide) only [decodePset, bf_append_high, bf_append_low, bf_full, Nat.reduceSub, Nat.sub_self]
  try rfl

theorem isel (d a b : BitVec 7) (p : BitVec 4) (n : BitVec 1) : Statement (.isel d a b p n) := by
  intro hc ir w e
  have e : some (0x17#6 ++ d ++ a ++ b ++ p ++ n) = some w := e
  obtain rfl := Option.some.inj e
  unfold decodeWord
  rw [show bf (0x17#6 ++ d ++ a ++ b ++ p ++ n : Word) 26 6 = 0x17#6 by
    simp (disch := decide) only [bf_append_high, bf_append_low, bf_full, Nat.reduceSub]]
  change decodeIsel _ = _
  simp (disch := decide) only [decodeIsel, bf_append_high, bf_append_low, bf_full, Nat.reduceSub, Nat.sub_self]
  try rfl

theorem bra (p : BitVec 4) (n : BitVec 1) (o : BitVec 20) : Statement (.bra p n o) := by
  intro hc ir w e
  have e : some (0xD#6 ++ p ++ n ++ 0x0#1 ++ o) = some w := e
  obtain rfl := Option.some.inj e
  unfold decodeWord
  rw [show bf (0xD#6 ++ p ++ n ++ 0x0#1 ++ o : Word) 26 6 = 0xD#6 by
    simp (disch := decide) only [bf_append_high, bf_append_low, bf_full, Nat.reduceSub]]
  change decodeBra _ = _
  simp (disch := decide) only [decodeBra, bf_append_high, bf_append_low, bf_full, Nat.reduceSub, Nat.sub_self]
  try rfl

theorem call (p : BitVec 4) (n : BitVec 1) (o : BitVec 20) : Statement (.call p n o) := by
  intro hc ir w e
  have e : some (0xE#6 ++ p ++ n ++ 0x0#1 ++ o) = some w := e
  obtain rfl := Option.some.inj e
  unfold decodeWord
  rw [show bf (0xE#6 ++ p ++ n ++ 0x0#1 ++ o : Word) 26 6 = 0xE#6 by
    simp (disch := decide) only [bf_append_high, bf_append_low, bf_full, Nat.reduceSub]]
  change decodeCall _ = _
  simp (disch := decide) only [decodeCall, bf_append_high, bf_append_low, bf_full, Nat.reduceSub, Nat.sub_self]
  try rfl

theorem brx (a : BitVec 7) : Statement (.brx a) := by
  intro hc ir w e
  have e : some (0xF#6 ++ 0x0#7 ++ a ++ 0x1#12) = some w := e
  obtain rfl := Option.some.inj e
  unfold decodeWord
  rw [show bf (0xF#6 ++ 0x0#7 ++ a ++ 0x1#12 : Word) 26 6 = 0xF#6 by
    simp (disch := decide) only [bf_append_high, bf_append_low, bf_full, Nat.reduceSub]]
  change decodeControl _ = _
  simp (disch := decide) only [decodeControl, bf_append_high, bf_append_low, bf_full, Nat.reduceSub, Nat.sub_self]
  try rfl

theorem ret (a : BitVec 7) : Statement (.ret a) := by
  intro hc ir w e
  have e : some (0xF#6 ++ 0x0#7 ++ a ++ 0x2#12) = some w := e
  obtain rfl := Option.some.inj e
  unfold decodeWord
  rw [show bf (0xF#6 ++ 0x0#7 ++ a ++ 0x2#12 : Word) 26 6 = 0xF#6 by
    simp (disch := decide) only [bf_append_high, bf_append_low, bf_full, Nat.reduceSub]]
  change decodeControl _ = _
  simp (disch := decide) only [decodeControl, bf_append_high, bf_append_low, bf_full, Nat.reduceSub, Nat.sub_self]
  try rfl

theorem fuse (a : BitVec 7) : Statement (.fuse a) := by
  intro hc ir w e
  have e : some (0xF#6 ++ 0x0#7 ++ a ++ 0x5#12) = some w := e
  obtain rfl := Option.some.inj e
  unfold decodeWord
  rw [show bf (0xF#6 ++ 0x0#7 ++ a ++ 0x5#12 : Word) 26 6 = 0xF#6 by
    simp (disch := decide) only [bf_append_high, bf_append_low, bf_full, Nat.reduceSub]]
  change decodeControl _ = _
  simp (disch := decide) only [decodeControl, bf_append_high, bf_append_low, bf_full, Nat.reduceSub, Nat.sub_self]
  try rfl

theorem tick (d : BitVec 7) : Statement (.tick d) := by
  intro hc ir w e
  have e : some (0xF#6 ++ d ++ 0x6#19) = some w := e
  obtain rfl := Option.some.inj e
  unfold decodeWord
  rw [show bf (0xF#6 ++ d ++ 0x6#19 : Word) 26 6 = 0xF#6 by
    simp (disch := decide) only [bf_append_high, bf_append_low, bf_full, Nat.reduceSub]]
  change decodeControl _ = _
  simp (disch := decide) only [decodeControl, bf_append_high, bf_append_low, bf_full, Nat.reduceSub, Nat.sub_self]
  try rfl

theorem ballot (d a b : BitVec 7) : Statement (.ballot d a b) := by
  intro hc ir w e
  have e : some (0x10#6 ++ d ++ a ++ b ++ 0x0#5) = some w := e
  obtain rfl := Option.some.inj e
  unfold decodeWord
  rw [show bf (0x10#6 ++ d ++ a ++ b ++ 0x0#5 : Word) 26 6 = 0x10#6 by
    simp (disch := decide) only [bf_append_high, bf_append_low, bf_full, Nat.reduceSub]]
  change decodeLane _ = _
  simp (disch := decide) only [decodeLane, bf_append_high, bf_append_low, bf_full, Nat.reduceSub, Nat.sub_self]
  try rfl

theorem voteAny (d a b : BitVec 7) : Statement (.voteAny d a b) := by
  intro hc ir w e
  have e : some (0x10#6 ++ d ++ a ++ b ++ 0x1#5) = some w := e
  obtain rfl := Option.some.inj e
  unfold decodeWord
  rw [show bf (0x10#6 ++ d ++ a ++ b ++ 0x1#5 : Word) 26 6 = 0x10#6 by
    simp (disch := decide) only [bf_append_high, bf_append_low, bf_full, Nat.reduceSub]]
  change decodeLane _ = _
  simp (disch := decide) only [decodeLane, bf_append_high, bf_append_low, bf_full, Nat.reduceSub, Nat.sub_self]
  try rfl

theorem voteAll (d a b : BitVec 7) : Statement (.voteAll d a b) := by
  intro hc ir w e
  have e : some (0x10#6 ++ d ++ a ++ b ++ 0x2#5) = some w := e
  obtain rfl := Option.some.inj e
  unfold decodeWord
  rw [show bf (0x10#6 ++ d ++ a ++ b ++ 0x2#5 : Word) 26 6 = 0x10#6 by
    simp (disch := decide) only [bf_append_high, bf_append_low, bf_full, Nat.reduceSub]]
  change decodeLane _ = _
  simp (disch := decide) only [decodeLane, bf_append_high, bf_append_low, bf_full, Nat.reduceSub, Nat.sub_self]
  try rfl

theorem voteEq (d a b : BitVec 7) : Statement (.voteEq d a b) := by
  intro hc ir w e
  have e : some (0x10#6 ++ d ++ a ++ b ++ 0x3#5) = some w := e
  obtain rfl := Option.some.inj e
  unfold decodeWord
  rw [show bf (0x10#6 ++ d ++ a ++ b ++ 0x3#5 : Word) 26 6 = 0x10#6 by
    simp (disch := decide) only [bf_append_high, bf_append_low, bf_full, Nat.reduceSub]]
  change decodeLane _ = _
  simp (disch := decide) only [decodeLane, bf_append_high, bf_append_low, bf_full, Nat.reduceSub, Nat.sub_self]
  try rfl

theorem match32 (d a b : BitVec 7) : Statement (.match32 d a b) := by
  intro hc ir w e
  have e : some (0x10#6 ++ d ++ a ++ b ++ 0x4#5) = some w := e
  obtain rfl := Option.some.inj e
  unfold decodeWord
  rw [show bf (0x10#6 ++ d ++ a ++ b ++ 0x4#5 : Word) 26 6 = 0x10#6 by
    simp (disch := decide) only [bf_append_high, bf_append_low, bf_full, Nat.reduceSub]]
  change decodeLane _ = _
  simp (disch := decide) only [decodeLane, bf_append_high, bf_append_low, bf_full, Nat.reduceSub, Nat.sub_self]
  try rfl

theorem match64 (d a b : BitVec 7) : Statement (.match64 d a b) := by
  intro hc ir w e
  have e : some (0x10#6 ++ d ++ a ++ b ++ 0x5#5) = some w := e
  obtain rfl := Option.some.inj e
  unfold decodeWord
  rw [show bf (0x10#6 ++ d ++ a ++ b ++ 0x5#5 : Word) 26 6 = 0x10#6 by
    simp (disch := decide) only [bf_append_high, bf_append_low, bf_full, Nat.reduceSub]]
  change decodeLane _ = _
  simp (disch := decide) only [decodeLane, bf_append_high, bf_append_low, bf_full, Nat.reduceSub, Nat.sub_self]
  try rfl

theorem shflIdx (d a b : BitVec 7) : Statement (.shflIdx d a b) := by
  intro hc ir w e
  have e : some (0x10#6 ++ d ++ a ++ b ++ 0x6#5) = some w := e
  obtain rfl := Option.some.inj e
  unfold decodeWord
  rw [show bf (0x10#6 ++ d ++ a ++ b ++ 0x6#5 : Word) 26 6 = 0x10#6 by
    simp (disch := decide) only [bf_append_high, bf_append_low, bf_full, Nat.reduceSub]]
  change decodeLane _ = _
  simp (disch := decide) only [decodeLane, bf_append_high, bf_append_low, bf_full, Nat.reduceSub, Nat.sub_self]
  try rfl

theorem shflUp (d a b : BitVec 7) : Statement (.shflUp d a b) := by
  intro hc ir w e
  have e : some (0x10#6 ++ d ++ a ++ b ++ 0x7#5) = some w := e
  obtain rfl := Option.some.inj e
  unfold decodeWord
  rw [show bf (0x10#6 ++ d ++ a ++ b ++ 0x7#5 : Word) 26 6 = 0x10#6 by
    simp (disch := decide) only [bf_append_high, bf_append_low, bf_full, Nat.reduceSub]]
  change decodeLane _ = _
  simp (disch := decide) only [decodeLane, bf_append_high, bf_append_low, bf_full, Nat.reduceSub, Nat.sub_self]
  try rfl

theorem shflDn (d a b : BitVec 7) : Statement (.shflDn d a b) := by
  intro hc ir w e
  have e : some (0x10#6 ++ d ++ a ++ b ++ 0x8#5) = some w := e
  obtain rfl := Option.some.inj e
  unfold decodeWord
  rw [show bf (0x10#6 ++ d ++ a ++ b ++ 0x8#5 : Word) 26 6 = 0x10#6 by
    simp (disch := decide) only [bf_append_high, bf_append_low, bf_full, Nat.reduceSub]]
  change decodeLane _ = _
  simp (disch := decide) only [decodeLane, bf_append_high, bf_append_low, bf_full, Nat.reduceSub, Nat.sub_self]
  try rfl

theorem shflXor (d a b : BitVec 7) : Statement (.shflXor d a b) := by
  intro hc ir w e
  have e : some (0x10#6 ++ d ++ a ++ b ++ 0x9#5) = some w := e
  obtain rfl := Option.some.inj e
  unfold decodeWord
  rw [show bf (0x10#6 ++ d ++ a ++ b ++ 0x9#5 : Word) 26 6 = 0x10#6 by
    simp (disch := decide) only [bf_append_high, bf_append_low, bf_full, Nat.reduceSub]]
  change decodeLane _ = _
  simp (disch := decide) only [decodeLane, bf_append_high, bf_append_low, bf_full, Nat.reduceSub, Nat.sub_self]
  try rfl

theorem reduxAdd32 (d a b : BitVec 7) : Statement (.reduxAdd32 d a b) := by
  intro hc ir w e
  have e : some (0x10#6 ++ d ++ a ++ b ++ 0xA#5) = some w := e
  obtain rfl := Option.some.inj e
  unfold decodeWord
  rw [show bf (0x10#6 ++ d ++ a ++ b ++ 0xA#5 : Word) 26 6 = 0x10#6 by
    simp (disch := decide) only [bf_append_high, bf_append_low, bf_full, Nat.reduceSub]]
  change decodeLane _ = _
  simp (disch := decide) only [decodeLane, bf_append_high, bf_append_low, bf_full, Nat.reduceSub, Nat.sub_self]
  try rfl

theorem reduxMinI32 (d a b : BitVec 7) : Statement (.reduxMinI32 d a b) := by
  intro hc ir w e
  have e : some (0x10#6 ++ d ++ a ++ b ++ 0xB#5) = some w := e
  obtain rfl := Option.some.inj e
  unfold decodeWord
  rw [show bf (0x10#6 ++ d ++ a ++ b ++ 0xB#5 : Word) 26 6 = 0x10#6 by
    simp (disch := decide) only [bf_append_high, bf_append_low, bf_full, Nat.reduceSub]]
  change decodeLane _ = _
  simp (disch := decide) only [decodeLane, bf_append_high, bf_append_low, bf_full, Nat.reduceSub, Nat.sub_self]
  try rfl

theorem reduxMinN32 (d a b : BitVec 7) : Statement (.reduxMinN32 d a b) := by
  intro hc ir w e
  have e : some (0x10#6 ++ d ++ a ++ b ++ 0xC#5) = some w := e
  obtain rfl := Option.some.inj e
  unfold decodeWord
  rw [show bf (0x10#6 ++ d ++ a ++ b ++ 0xC#5 : Word) 26 6 = 0x10#6 by
    simp (disch := decide) only [bf_append_high, bf_append_low, bf_full, Nat.reduceSub]]
  change decodeLane _ = _
  simp (disch := decide) only [decodeLane, bf_append_high, bf_append_low, bf_full, Nat.reduceSub, Nat.sub_self]
  try rfl

theorem reduxMaxI32 (d a b : BitVec 7) : Statement (.reduxMaxI32 d a b) := by
  intro hc ir w e
  have e : some (0x10#6 ++ d ++ a ++ b ++ 0xD#5) = some w := e
  obtain rfl := Option.some.inj e
  unfold decodeWord
  rw [show bf (0x10#6 ++ d ++ a ++ b ++ 0xD#5 : Word) 26 6 = 0x10#6 by
    simp (disch := decide) only [bf_append_high, bf_append_low, bf_full, Nat.reduceSub]]
  change decodeLane _ = _
  simp (disch := decide) only [decodeLane, bf_append_high, bf_append_low, bf_full, Nat.reduceSub, Nat.sub_self]
  try rfl

theorem reduxMaxN32 (d a b : BitVec 7) : Statement (.reduxMaxN32 d a b) := by
  intro hc ir w e
  have e : some (0x10#6 ++ d ++ a ++ b ++ 0xE#5) = some w := e
  obtain rfl := Option.some.inj e
  unfold decodeWord
  rw [show bf (0x10#6 ++ d ++ a ++ b ++ 0xE#5 : Word) 26 6 = 0x10#6 by
    simp (disch := decide) only [bf_append_high, bf_append_low, bf_full, Nat.reduceSub]]
  change decodeLane _ = _
  simp (disch := decide) only [decodeLane, bf_append_high, bf_append_low, bf_full, Nat.reduceSub, Nat.sub_self]
  try rfl

theorem reduxAnd (d a b : BitVec 7) : Statement (.reduxAnd d a b) := by
  intro hc ir w e
  have e : some (0x10#6 ++ d ++ a ++ b ++ 0xF#5) = some w := e
  obtain rfl := Option.some.inj e
  unfold decodeWord
  rw [show bf (0x10#6 ++ d ++ a ++ b ++ 0xF#5 : Word) 26 6 = 0x10#6 by
    simp (disch := decide) only [bf_append_high, bf_append_low, bf_full, Nat.reduceSub]]
  change decodeLane _ = _
  simp (disch := decide) only [decodeLane, bf_append_high, bf_append_low, bf_full, Nat.reduceSub, Nat.sub_self]
  try rfl

theorem reduxOr (d a b : BitVec 7) : Statement (.reduxOr d a b) := by
  intro hc ir w e
  have e : some (0x10#6 ++ d ++ a ++ b ++ 0x10#5) = some w := e
  obtain rfl := Option.some.inj e
  unfold decodeWord
  rw [show bf (0x10#6 ++ d ++ a ++ b ++ 0x10#5 : Word) 26 6 = 0x10#6 by
    simp (disch := decide) only [bf_append_high, bf_append_low, bf_full, Nat.reduceSub]]
  change decodeLane _ = _
  simp (disch := decide) only [decodeLane, bf_append_high, bf_append_low, bf_full, Nat.reduceSub, Nat.sub_self]
  try rfl

theorem reduxXor (d a b : BitVec 7) : Statement (.reduxXor d a b) := by
  intro hc ir w e
  have e : some (0x10#6 ++ d ++ a ++ b ++ 0x11#5) = some w := e
  obtain rfl := Option.some.inj e
  unfold decodeWord
  rw [show bf (0x10#6 ++ d ++ a ++ b ++ 0x11#5 : Word) 26 6 = 0x10#6 by
    simp (disch := decide) only [bf_append_high, bf_append_low, bf_full, Nat.reduceSub]]
  change decodeLane _ = _
  simp (disch := decide) only [decodeLane, bf_append_high, bf_append_low, bf_full, Nat.reduceSub, Nat.sub_self]
  try rfl

theorem reduxAdd64 (d a b : BitVec 7) : Statement (.reduxAdd64 d a b) := by
  intro hc ir w e
  have e : some (0x10#6 ++ d ++ a ++ b ++ 0x12#5) = some w := e
  obtain rfl := Option.some.inj e
  unfold decodeWord
  rw [show bf (0x10#6 ++ d ++ a ++ b ++ 0x12#5 : Word) 26 6 = 0x10#6 by
    simp (disch := decide) only [bf_append_high, bf_append_low, bf_full, Nat.reduceSub]]
  change decodeLane _ = _
  simp (disch := decide) only [decodeLane, bf_append_high, bf_append_low, bf_full, Nat.reduceSub, Nat.sub_self]
  try rfl

theorem sysrd (d : BitVec 7) (s : BitVec 8) : Statement (.sysrd d s) := by
  intro hc ir w e
  have e : some (0x11#6 ++ d ++ 0x0#11 ++ s) = some w := e
  obtain rfl := Option.some.inj e
  unfold decodeWord
  rw [show bf (0x11#6 ++ d ++ 0x0#11 ++ s : Word) 26 6 = 0x11#6 by
    simp (disch := decide) only [bf_append_high, bf_append_low, bf_full, Nat.reduceSub]]
  change decodeSystem _ = _
  simp (disch := decide) only [decodeSystem, bf_append_high, bf_append_low, bf_full, Nat.reduceSub, Nat.sub_self]
  try rfl

theorem syswrImode (d a : BitVec 7) : Statement (.syswrImode d a) := by
  intro hc ir w he
  have hw := Option.some.inj (show some (0x11#6 ++ d ++ a ++ 0x120#12) = some w from he)
  clear he
  have m : bf w 26 6 = 0x11#6 := by subst hw; simp (disch := decide) only [bf_append_high, bf_append_low, bf_full, Nat.reduceSub, Nat.sub_self]
  unfold decodeWord
  rw [m]
  change decodeSystem _ = _
  have h1 : bf w 19 7 = d := by subst hw; simp (disch := decide) only [bf_append_high, bf_append_low, bf_full, Nat.reduceSub, Nat.sub_self]
  have h2 : bf w 12 7 = a := by subst hw; simp (disch := decide) only [bf_append_high, bf_append_low, bf_full, Nat.reduceSub, Nat.sub_self]
  have h3 : bf w 0 12 = 0x120#12 := by subst hw; simp (disch := decide) only [bf_append_high, bf_append_low, bf_full, Nat.reduceSub, Nat.sub_self]
  have n1 : ¬ bf w 8 11 = 0x0#11 := by
    intro h
    have h := congrArg (fun x => BitVec.getLsbD x 0) h
    have k := congrArg (fun x => BitVec.getLsbD x 8) h3
    simp [bf] at h k
    rw [h] at k
    exact absurd k (by decide)
  unfold decodeSystem
  rw [h1, h2, h3, if_neg n1]
  rfl

theorem syswrSrg (d a : BitVec 7) : Statement (.syswrSrg d a) := by
  intro hc ir w he
  have hw := Option.some.inj (show some (0x11#6 ++ d ++ a ++ 0x121#12) = some w from he)
  clear he
  have m : bf w 26 6 = 0x11#6 := by subst hw; simp (disch := decide) only [bf_append_high, bf_append_low, bf_full, Nat.reduceSub, Nat.sub_self]
  unfold decodeWord
  rw [m]
  change decodeSystem _ = _
  have h1 : bf w 19 7 = d := by subst hw; simp (disch := decide) only [bf_append_high, bf_append_low, bf_full, Nat.reduceSub, Nat.sub_self]
  have h2 : bf w 12 7 = a := by subst hw; simp (disch := decide) only [bf_append_high, bf_append_low, bf_full, Nat.reduceSub, Nat.sub_self]
  have h3 : bf w 0 12 = 0x121#12 := by subst hw; simp (disch := decide) only [bf_append_high, bf_append_low, bf_full, Nat.reduceSub, Nat.sub_self]
  have n1 : ¬ bf w 8 11 = 0x0#11 := by
    intro h
    have h := congrArg (fun x => BitVec.getLsbD x 0) h
    have k := congrArg (fun x => BitVec.getLsbD x 8) h3
    simp [bf] at h k
    rw [h] at k
    exact absurd k (by decide)
  unfold decodeSystem
  rw [h1, h2, h3, if_neg n1]
  rfl

theorem fflagsRd (d : BitVec 7) : Statement (.fflagsRd d) := by
  intro hc ir w e
  have e : some (0x11#6 ++ d ++ 0x200#19) = some w := e
  obtain rfl := Option.some.inj e
  unfold decodeWord
  rw [show bf (0x11#6 ++ d ++ 0x200#19 : Word) 26 6 = 0x11#6 by
    simp (disch := decide) only [bf_append_high, bf_append_low, bf_full, Nat.reduceSub]]
  change decodeSystem _ = _
  simp (disch := decide) only [decodeSystem, bf_append_high, bf_append_low, bf_full, Nat.reduceSub, Nat.sub_self]
  try rfl

theorem fflagsClr (d a : BitVec 7) : Statement (.fflagsClr d a) := by
  intro hc ir w he
  have hw := Option.some.inj (show some (0x11#6 ++ d ++ a ++ 0x201#12) = some w from he)
  clear he
  have m : bf w 26 6 = 0x11#6 := by subst hw; simp (disch := decide) only [bf_append_high, bf_append_low, bf_full, Nat.reduceSub, Nat.sub_self]
  unfold decodeWord
  rw [m]
  change decodeSystem _ = _
  have h1 : bf w 19 7 = d := by subst hw; simp (disch := decide) only [bf_append_high, bf_append_low, bf_full, Nat.reduceSub, Nat.sub_self]
  have h2 : bf w 12 7 = a := by subst hw; simp (disch := decide) only [bf_append_high, bf_append_low, bf_full, Nat.reduceSub, Nat.sub_self]
  have h3 : bf w 0 12 = 0x201#12 := by subst hw; simp (disch := decide) only [bf_append_high, bf_append_low, bf_full, Nat.reduceSub, Nat.sub_self]
  have n1 : ¬ bf w 8 11 = 0x0#11 := by
    intro h
    have h := congrArg (fun x => BitVec.getLsbD x 1) h
    have k := congrArg (fun x => BitVec.getLsbD x 9) h3
    simp [bf] at h k
    rw [h] at k
    exact absurd k (by decide)
  have n2 : ¬ bf w 0 19 = 0x200#19 := by
    intro h
    have h := congrArg (fun x => BitVec.getLsbD x 0) h
    have k := congrArg (fun x => BitVec.getLsbD x 0) h3
    simp [bf] at h k
    rw [h] at k
    exact absurd k (by decide)
  unfold decodeSystem
  rw [h1, h2, h3, if_neg n1, if_neg n2]
  rfl

theorem fflagsCtl (d a : BitVec 7) : Statement (.fflagsCtl d a) := by
  intro hc ir w he
  have hw := Option.some.inj (show some (0x11#6 ++ d ++ a ++ 0x202#12) = some w from he)
  clear he
  have m : bf w 26 6 = 0x11#6 := by subst hw; simp (disch := decide) only [bf_append_high, bf_append_low, bf_full, Nat.reduceSub, Nat.sub_self]
  unfold decodeWord
  rw [m]
  change decodeSystem _ = _
  have h1 : bf w 19 7 = d := by subst hw; simp (disch := decide) only [bf_append_high, bf_append_low, bf_full, Nat.reduceSub, Nat.sub_self]
  have h2 : bf w 12 7 = a := by subst hw; simp (disch := decide) only [bf_append_high, bf_append_low, bf_full, Nat.reduceSub, Nat.sub_self]
  have h3 : bf w 0 12 = 0x202#12 := by subst hw; simp (disch := decide) only [bf_append_high, bf_append_low, bf_full, Nat.reduceSub, Nat.sub_self]
  have n1 : ¬ bf w 8 11 = 0x0#11 := by
    intro h
    have h := congrArg (fun x => BitVec.getLsbD x 1) h
    have k := congrArg (fun x => BitVec.getLsbD x 9) h3
    simp [bf] at h k
    rw [h] at k
    exact absurd k (by decide)
  have n2 : ¬ bf w 0 19 = 0x200#19 := by
    intro h
    have h := congrArg (fun x => BitVec.getLsbD x 1) h
    have k := congrArg (fun x => BitVec.getLsbD x 1) h3
    simp [bf] at h k
    rw [h] at k
    exact absurd k (by decide)
  unfold decodeSystem
  rw [h1, h2, h3, if_neg n1, if_neg n2]
  rfl

theorem fadd (d a b : BitVec 7) : Statement (.fadd d a b) := by
  intro hc ir w e
  have e : some (0x14#6 ++ d ++ a ++ b ++ 0x0#5) = some w := e
  obtain rfl := Option.some.inj e
  unfold decodeWord
  rw [show bf (0x14#6 ++ d ++ a ++ b ++ 0x0#5 : Word) 26 6 = 0x14#6 by
    simp (disch := decide) only [bf_append_high, bf_append_low, bf_full, Nat.reduceSub]]
  change decodeFloat _ = _
  simp (disch := decide) only [decodeFloat, bf_append_high, bf_append_low, bf_full, Nat.reduceSub, Nat.sub_self]
  try rfl

theorem fsub (d a b : BitVec 7) : Statement (.fsub d a b) := by
  intro hc ir w e
  have e : some (0x14#6 ++ d ++ a ++ b ++ 0x1#5) = some w := e
  obtain rfl := Option.some.inj e
  unfold decodeWord
  rw [show bf (0x14#6 ++ d ++ a ++ b ++ 0x1#5 : Word) 26 6 = 0x14#6 by
    simp (disch := decide) only [bf_append_high, bf_append_low, bf_full, Nat.reduceSub]]
  change decodeFloat _ = _
  simp (disch := decide) only [decodeFloat, bf_append_high, bf_append_low, bf_full, Nat.reduceSub, Nat.sub_self]
  try rfl

theorem fmul (d a b : BitVec 7) : Statement (.fmul d a b) := by
  intro hc ir w e
  have e : some (0x14#6 ++ d ++ a ++ b ++ 0x2#5) = some w := e
  obtain rfl := Option.some.inj e
  unfold decodeWord
  rw [show bf (0x14#6 ++ d ++ a ++ b ++ 0x2#5 : Word) 26 6 = 0x14#6 by
    simp (disch := decide) only [bf_append_high, bf_append_low, bf_full, Nat.reduceSub]]
  change decodeFloat _ = _
  simp (disch := decide) only [decodeFloat, bf_append_high, bf_append_low, bf_full, Nat.reduceSub, Nat.sub_self]
  try rfl

theorem ffma (d a b : BitVec 7) : Statement (.ffma d a b) := by
  intro hc ir w e
  have e : some (0x14#6 ++ d ++ a ++ b ++ 0x3#5) = some w := e
  obtain rfl := Option.some.inj e
  unfold decodeWord
  rw [show bf (0x14#6 ++ d ++ a ++ b ++ 0x3#5 : Word) 26 6 = 0x14#6 by
    simp (disch := decide) only [bf_append_high, bf_append_low, bf_full, Nat.reduceSub]]
  change decodeFloat _ = _
  simp (disch := decide) only [decodeFloat, bf_append_high, bf_append_low, bf_full, Nat.reduceSub, Nat.sub_self]
  try rfl

theorem fmin (d a b : BitVec 7) : Statement (.fmin d a b) := by
  intro hc ir w e
  have e : some (0x14#6 ++ d ++ a ++ b ++ 0x4#5) = some w := e
  obtain rfl := Option.some.inj e
  unfold decodeWord
  rw [show bf (0x14#6 ++ d ++ a ++ b ++ 0x4#5 : Word) 26 6 = 0x14#6 by
    simp (disch := decide) only [bf_append_high, bf_append_low, bf_full, Nat.reduceSub]]
  change decodeFloat _ = _
  simp (disch := decide) only [decodeFloat, bf_append_high, bf_append_low, bf_full, Nat.reduceSub, Nat.sub_self]
  try rfl

theorem fmax (d a b : BitVec 7) : Statement (.fmax d a b) := by
  intro hc ir w e
  have e : some (0x14#6 ++ d ++ a ++ b ++ 0x5#5) = some w := e
  obtain rfl := Option.some.inj e
  unfold decodeWord
  rw [show bf (0x14#6 ++ d ++ a ++ b ++ 0x5#5 : Word) 26 6 = 0x14#6 by
    simp (disch := decide) only [bf_append_high, bf_append_low, bf_full, Nat.reduceSub]]
  change decodeFloat _ = _
  simp (disch := decide) only [decodeFloat, bf_append_high, bf_append_low, bf_full, Nat.reduceSub, Nat.sub_self]
  try rfl

theorem fminn (d a b : BitVec 7) : Statement (.fminn d a b) := by
  intro hc ir w e
  have e : some (0x14#6 ++ d ++ a ++ b ++ 0x6#5) = some w := e
  obtain rfl := Option.some.inj e
  unfold decodeWord
  rw [show bf (0x14#6 ++ d ++ a ++ b ++ 0x6#5 : Word) 26 6 = 0x14#6 by
    simp (disch := decide) only [bf_append_high, bf_append_low, bf_full, Nat.reduceSub]]
  change decodeFloat _ = _
  simp (disch := decide) only [decodeFloat, bf_append_high, bf_append_low, bf_full, Nat.reduceSub, Nat.sub_self]
  try rfl

theorem fmaxn (d a b : BitVec 7) : Statement (.fmaxn d a b) := by
  intro hc ir w e
  have e : some (0x14#6 ++ d ++ a ++ b ++ 0x7#5) = some w := e
  obtain rfl := Option.some.inj e
  unfold decodeWord
  rw [show bf (0x14#6 ++ d ++ a ++ b ++ 0x7#5 : Word) 26 6 = 0x14#6 by
    simp (disch := decide) only [bf_append_high, bf_append_low, bf_full, Nat.reduceSub]]
  change decodeFloat _ = _
  simp (disch := decide) only [decodeFloat, bf_append_high, bf_append_low, bf_full, Nat.reduceSub, Nat.sub_self]
  try rfl

theorem fabs (d a : BitVec 7) : Statement (.fabs d a) := by
  intro hc ir w e
  have e : some (0x14#6 ++ d ++ a ++ 0x8#12) = some w := e
  obtain rfl := Option.some.inj e
  unfold decodeWord
  rw [show bf (0x14#6 ++ d ++ a ++ 0x8#12 : Word) 26 6 = 0x14#6 by
    simp (disch := decide) only [bf_append_high, bf_append_low, bf_full, Nat.reduceSub]]
  change decodeFloat _ = _
  simp (disch := decide) only [decodeFloat, bf_append_high, bf_append_low, bf_full, Nat.reduceSub, Nat.sub_self]
  try rfl

theorem fneg (d a : BitVec 7) : Statement (.fneg d a) := by
  intro hc ir w e
  have e : some (0x14#6 ++ d ++ a ++ 0x9#12) = some w := e
  obtain rfl := Option.some.inj e
  unfold decodeWord
  rw [show bf (0x14#6 ++ d ++ a ++ 0x9#12 : Word) 26 6 = 0x14#6 by
    simp (disch := decide) only [bf_append_high, bf_append_low, bf_full, Nat.reduceSub]]
  change decodeFloat _ = _
  simp (disch := decide) only [decodeFloat, bf_append_high, bf_append_low, bf_full, Nat.reduceSub, Nat.sub_self]
  try rfl

theorem frcp (d a : BitVec 7) : Statement (.frcp d a) := by
  intro hc ir w e
  have e : some (0x14#6 ++ d ++ a ++ 0xA#12) = some w := e
  obtain rfl := Option.some.inj e
  unfold decodeWord
  rw [show bf (0x14#6 ++ d ++ a ++ 0xA#12 : Word) 26 6 = 0x14#6 by
    simp (disch := decide) only [bf_append_high, bf_append_low, bf_full, Nat.reduceSub]]
  change decodeFloat _ = _
  simp (disch := decide) only [decodeFloat, bf_append_high, bf_append_low, bf_full, Nat.reduceSub, Nat.sub_self]
  try rfl

theorem frsq (d a : BitVec 7) : Statement (.frsq d a) := by
  intro hc ir w e
  have e : some (0x14#6 ++ d ++ a ++ 0xB#12) = some w := e
  obtain rfl := Option.some.inj e
  unfold decodeWord
  rw [show bf (0x14#6 ++ d ++ a ++ 0xB#12 : Word) 26 6 = 0x14#6 by
    simp (disch := decide) only [bf_append_high, bf_append_low, bf_full, Nat.reduceSub]]
  change decodeFloat _ = _
  simp (disch := decide) only [decodeFloat, bf_append_high, bf_append_low, bf_full, Nat.reduceSub, Nat.sub_self]
  try rfl

theorem fsqrt (d a : BitVec 7) : Statement (.fsqrt d a) := by
  intro hc ir w e
  have e : some (0x14#6 ++ d ++ a ++ 0xC#12) = some w := e
  obtain rfl := Option.some.inj e
  unfold decodeWord
  rw [show bf (0x14#6 ++ d ++ a ++ 0xC#12 : Word) 26 6 = 0x14#6 by
    simp (disch := decide) only [bf_append_high, bf_append_low, bf_full, Nat.reduceSub]]
  change decodeFloat _ = _
  simp (disch := decide) only [decodeFloat, bf_append_high, bf_append_low, bf_full, Nat.reduceSub, Nat.sub_self]
  try rfl

theorem fexp2 (d a : BitVec 7) : Statement (.fexp2 d a) := by
  intro hc ir w e
  have e : some (0x14#6 ++ d ++ a ++ 0xD#12) = some w := e
  obtain rfl := Option.some.inj e
  unfold decodeWord
  rw [show bf (0x14#6 ++ d ++ a ++ 0xD#12 : Word) 26 6 = 0x14#6 by
    simp (disch := decide) only [bf_append_high, bf_append_low, bf_full, Nat.reduceSub]]
  change decodeFloat _ = _
  simp (disch := decide) only [decodeFloat, bf_append_high, bf_append_low, bf_full, Nat.reduceSub, Nat.sub_self]
  try rfl

theorem flog2 (d a : BitVec 7) : Statement (.flog2 d a) := by
  intro hc ir w e
  have e : some (0x14#6 ++ d ++ a ++ 0xE#12) = some w := e
  obtain rfl := Option.some.inj e
  unfold decodeWord
  rw [show bf (0x14#6 ++ d ++ a ++ 0xE#12 : Word) 26 6 = 0x14#6 by
    simp (disch := decide) only [bf_append_high, bf_append_low, bf_full, Nat.reduceSub]]
  change decodeFloat _ = _
  simp (disch := decide) only [decodeFloat, bf_append_high, bf_append_low, bf_full, Nat.reduceSub, Nat.sub_self]
  try rfl

theorem fsin (d a : BitVec 7) : Statement (.fsin d a) := by
  intro hc ir w e
  have e : some (0x14#6 ++ d ++ a ++ 0xF#12) = some w := e
  obtain rfl := Option.some.inj e
  unfold decodeWord
  rw [show bf (0x14#6 ++ d ++ a ++ 0xF#12 : Word) 26 6 = 0x14#6 by
    simp (disch := decide) only [bf_append_high, bf_append_low, bf_full, Nat.reduceSub]]
  change decodeFloat _ = _
  simp (disch := decide) only [decodeFloat, bf_append_high, bf_append_low, bf_full, Nat.reduceSub, Nat.sub_self]
  try rfl

theorem fcos (d a : BitVec 7) : Statement (.fcos d a) := by
  intro hc ir w e
  have e : some (0x14#6 ++ d ++ a ++ 0x10#12) = some w := e
  obtain rfl := Option.some.inj e
  unfold decodeWord
  rw [show bf (0x14#6 ++ d ++ a ++ 0x10#12 : Word) 26 6 = 0x14#6 by
    simp (disch := decide) only [bf_append_high, bf_append_low, bf_full, Nat.reduceSub]]
  change decodeFloat _ = _
  simp (disch := decide) only [decodeFloat, bf_append_high, bf_append_low, bf_full, Nat.reduceSub, Nat.sub_self]
  try rfl

theorem fclass (d a : BitVec 7) : Statement (.fclass d a) := by
  intro hc ir w e
  have e : some (0x14#6 ++ d ++ a ++ 0x11#12) = some w := e
  obtain rfl := Option.some.inj e
  unfold decodeWord
  rw [show bf (0x14#6 ++ d ++ a ++ 0x11#12 : Word) 26 6 = 0x14#6 by
    simp (disch := decide) only [bf_append_high, bf_append_low, bf_full, Nat.reduceSub]]
  change decodeFloat _ = _
  simp (disch := decide) only [decodeFloat, bf_append_high, bf_append_low, bf_full, Nat.reduceSub, Nat.sub_self]
  try rfl

theorem hadd2F16 (d a b : BitVec 7) : Statement (.hadd2F16 d a b) := by
  intro hc ir w e
  have e : some (0x15#6 ++ d ++ a ++ b ++ 0x0#5) = some w := e
  obtain rfl := Option.some.inj e
  unfold decodeWord
  rw [show bf (0x15#6 ++ d ++ a ++ b ++ 0x0#5 : Word) 26 6 = 0x15#6 by
    simp (disch := decide) only [bf_append_high, bf_append_low, bf_full, Nat.reduceSub]]
  change decodePacked _ = _
  simp (disch := decide) only [decodePacked, bf_append_high, bf_append_low, bf_full, Nat.reduceSub, Nat.sub_self]
  try rfl

theorem hadd2Bf16 (d a b : BitVec 7) : Statement (.hadd2Bf16 d a b) := by
  intro hc ir w e
  have e : some (0x15#6 ++ d ++ a ++ b ++ 0x1#5) = some w := e
  obtain rfl := Option.some.inj e
  unfold decodeWord
  rw [show bf (0x15#6 ++ d ++ a ++ b ++ 0x1#5 : Word) 26 6 = 0x15#6 by
    simp (disch := decide) only [bf_append_high, bf_append_low, bf_full, Nat.reduceSub]]
  change decodePacked _ = _
  simp (disch := decide) only [decodePacked, bf_append_high, bf_append_low, bf_full, Nat.reduceSub, Nat.sub_self]
  try rfl

theorem hmul2F16 (d a b : BitVec 7) : Statement (.hmul2F16 d a b) := by
  intro hc ir w e
  have e : some (0x15#6 ++ d ++ a ++ b ++ 0x2#5) = some w := e
  obtain rfl := Option.some.inj e
  unfold decodeWord
  rw [show bf (0x15#6 ++ d ++ a ++ b ++ 0x2#5 : Word) 26 6 = 0x15#6 by
    simp (disch := decide) only [bf_append_high, bf_append_low, bf_full, Nat.reduceSub]]
  change decodePacked _ = _
  simp (disch := decide) only [decodePacked, bf_append_high, bf_append_low, bf_full, Nat.reduceSub, Nat.sub_self]
  try rfl

theorem hmul2Bf16 (d a b : BitVec 7) : Statement (.hmul2Bf16 d a b) := by
  intro hc ir w e
  have e : some (0x15#6 ++ d ++ a ++ b ++ 0x3#5) = some w := e
  obtain rfl := Option.some.inj e
  unfold decodeWord
  rw [show bf (0x15#6 ++ d ++ a ++ b ++ 0x3#5 : Word) 26 6 = 0x15#6 by
    simp (disch := decide) only [bf_append_high, bf_append_low, bf_full, Nat.reduceSub]]
  change decodePacked _ = _
  simp (disch := decide) only [decodePacked, bf_append_high, bf_append_low, bf_full, Nat.reduceSub, Nat.sub_self]
  try rfl

theorem hfma2F16 (d a b : BitVec 7) : Statement (.hfma2F16 d a b) := by
  intro hc ir w e
  have e : some (0x15#6 ++ d ++ a ++ b ++ 0x4#5) = some w := e
  obtain rfl := Option.some.inj e
  unfold decodeWord
  rw [show bf (0x15#6 ++ d ++ a ++ b ++ 0x4#5 : Word) 26 6 = 0x15#6 by
    simp (disch := decide) only [bf_append_high, bf_append_low, bf_full, Nat.reduceSub]]
  change decodePacked _ = _
  simp (disch := decide) only [decodePacked, bf_append_high, bf_append_low, bf_full, Nat.reduceSub, Nat.sub_self]
  try rfl

theorem hfma2Bf16 (d a b : BitVec 7) : Statement (.hfma2Bf16 d a b) := by
  intro hc ir w e
  have e : some (0x15#6 ++ d ++ a ++ b ++ 0x5#5) = some w := e
  obtain rfl := Option.some.inj e
  unfold decodeWord
  rw [show bf (0x15#6 ++ d ++ a ++ b ++ 0x5#5 : Word) 26 6 = 0x15#6 by
    simp (disch := decide) only [bf_append_high, bf_append_low, bf_full, Nat.reduceSub]]
  change decodePacked _ = _
  simp (disch := decide) only [decodePacked, bf_append_high, bf_append_low, bf_full, Nat.reduceSub, Nat.sub_self]
  try rfl

theorem fdot2F16 (d a b : BitVec 7) : Statement (.fdot2F16 d a b) := by
  intro hc ir w e
  have e : some (0x15#6 ++ d ++ a ++ b ++ 0x6#5) = some w := e
  obtain rfl := Option.some.inj e
  unfold decodeWord
  rw [show bf (0x15#6 ++ d ++ a ++ b ++ 0x6#5 : Word) 26 6 = 0x15#6 by
    simp (disch := decide) only [bf_append_high, bf_append_low, bf_full, Nat.reduceSub]]
  change decodePacked _ = _
  simp (disch := decide) only [decodePacked, bf_append_high, bf_append_low, bf_full, Nat.reduceSub, Nat.sub_self]
  try rfl

theorem fdot2Bf16 (d a b : BitVec 7) : Statement (.fdot2Bf16 d a b) := by
  intro hc ir w e
  have e : some (0x15#6 ++ d ++ a ++ b ++ 0x7#5) = some w := e
  obtain rfl := Option.some.inj e
  unfold decodeWord
  rw [show bf (0x15#6 ++ d ++ a ++ b ++ 0x7#5 : Word) 26 6 = 0x15#6 by
    simp (disch := decide) only [bf_append_high, bf_append_low, bf_full, Nat.reduceSub]]
  change decodePacked _ = _
  simp (disch := decide) only [decodePacked, bf_append_high, bf_append_low, bf_full, Nat.reduceSub, Nat.sub_self]
  try rfl

theorem f8dot4E4m3 (d a b : BitVec 7) : Statement (.f8dot4E4m3 d a b) := by
  intro hc ir w e
  have e : some (0x15#6 ++ d ++ a ++ b ++ 0x8#5) = some w := e
  obtain rfl := Option.some.inj e
  unfold decodeWord
  rw [show bf (0x15#6 ++ d ++ a ++ b ++ 0x8#5 : Word) 26 6 = 0x15#6 by
    simp (disch := decide) only [bf_append_high, bf_append_low, bf_full, Nat.reduceSub]]
  change decodePacked _ = _
  simp (disch := decide) only [decodePacked, bf_append_high, bf_append_low, bf_full, Nat.reduceSub, Nat.sub_self]
  try rfl

theorem f8dot4E5m2 (d a b : BitVec 7) : Statement (.f8dot4E5m2 d a b) := by
  intro hc ir w e
  have e : some (0x15#6 ++ d ++ a ++ b ++ 0x9#5) = some w := e
  obtain rfl := Option.some.inj e
  unfold decodeWord
  rw [show bf (0x15#6 ++ d ++ a ++ b ++ 0x9#5 : Word) 26 6 = 0x15#6 by
    simp (disch := decide) only [bf_append_high, bf_append_low, bf_full, Nat.reduceSub]]
  change decodePacked _ = _
  simp (disch := decide) only [decodePacked, bf_append_high, bf_append_low, bf_full, Nat.reduceSub, Nat.sub_self]
  try rfl

theorem fpackF16 (d a b : BitVec 7) : Statement (.fpackF16 d a b) := by
  intro hc ir w e
  have e : some (0x15#6 ++ d ++ a ++ b ++ 0xA#5) = some w := e
  obtain rfl := Option.some.inj e
  unfold decodeWord
  rw [show bf (0x15#6 ++ d ++ a ++ b ++ 0xA#5 : Word) 26 6 = 0x15#6 by
    simp (disch := decide) only [bf_append_high, bf_append_low, bf_full, Nat.reduceSub]]
  change decodePacked _ = _
  simp (disch := decide) only [decodePacked, bf_append_high, bf_append_low, bf_full, Nat.reduceSub, Nat.sub_self]
  try rfl

theorem fpackBf16 (d a b : BitVec 7) : Statement (.fpackBf16 d a b) := by
  intro hc ir w e
  have e : some (0x15#6 ++ d ++ a ++ b ++ 0xB#5) = some w := e
  obtain rfl := Option.some.inj e
  unfold decodeWord
  rw [show bf (0x15#6 ++ d ++ a ++ b ++ 0xB#5 : Word) 26 6 = 0x15#6 by
    simp (disch := decide) only [bf_append_high, bf_append_low, bf_full, Nat.reduceSub]]
  change decodePacked _ = _
  simp (disch := decide) only [decodePacked, bf_append_high, bf_append_low, bf_full, Nat.reduceSub, Nat.sub_self]
  try rfl

theorem fpackE4m3 (d a b : BitVec 7) : Statement (.fpackE4m3 d a b) := by
  intro hc ir w e
  have e : some (0x15#6 ++ d ++ a ++ b ++ 0xC#5) = some w := e
  obtain rfl := Option.some.inj e
  unfold decodeWord
  rw [show bf (0x15#6 ++ d ++ a ++ b ++ 0xC#5 : Word) 26 6 = 0x15#6 by
    simp (disch := decide) only [bf_append_high, bf_append_low, bf_full, Nat.reduceSub]]
  change decodePacked _ = _
  simp (disch := decide) only [decodePacked, bf_append_high, bf_append_low, bf_full, Nat.reduceSub, Nat.sub_self]
  try rfl

theorem fpackE5m2 (d a b : BitVec 7) : Statement (.fpackE5m2 d a b) := by
  intro hc ir w e
  have e : some (0x15#6 ++ d ++ a ++ b ++ 0xD#5) = some w := e
  obtain rfl := Option.some.inj e
  unfold decodeWord
  rw [show bf (0x15#6 ++ d ++ a ++ b ++ 0xD#5 : Word) 26 6 = 0x15#6 by
    simp (disch := decide) only [bf_append_high, bf_append_low, bf_full, Nat.reduceSub]]
  change decodePacked _ = _
  simp (disch := decide) only [decodePacked, bf_append_high, bf_append_low, bf_full, Nat.reduceSub, Nat.sub_self]
  try rfl

theorem frnd (d a : BitVec 7) (s t : BitVec 4) (r : BitVec 3) : Statement (.frnd d a s t r) := by
  intro hc ir w he
  have hw := Option.some.inj (show some (0x16#6 ++ d ++ a ++ s ++ t ++ r ++ 0x0#1) = some w from he)
  clear he
  have m : bf w 26 6 = 0x16#6 := by subst hw; simp (disch := decide) only [bf_append_high, bf_append_low, bf_full, Nat.reduceSub, Nat.sub_self]
  unfold decodeWord
  rw [m]
  change decodeConvert _ = _
  have h1 : bf w 19 7 = d := by subst hw; simp (disch := decide) only [bf_append_high, bf_append_low, bf_full, Nat.reduceSub, Nat.sub_self]
  have h2 : bf w 12 7 = a := by subst hw; simp (disch := decide) only [bf_append_high, bf_append_low, bf_full, Nat.reduceSub, Nat.sub_self]
  have h3 : bf w 8 4 = s := by subst hw; simp (disch := decide) only [bf_append_high, bf_append_low, bf_full, Nat.reduceSub, Nat.sub_self]
  have h4 : bf w 4 4 = t := by subst hw; simp (disch := decide) only [bf_append_high, bf_append_low, bf_full, Nat.reduceSub, Nat.sub_self]
  have h5 : bf w 1 3 = r := by subst hw; simp (disch := decide) only [bf_append_high, bf_append_low, bf_full, Nat.reduceSub, Nat.sub_self]
  have h6 : bf w 0 1 = 0x0#1 := by subst hw; simp (disch := decide) only [bf_append_high, bf_append_low, bf_full, Nat.reduceSub, Nat.sub_self]
  unfold decodeConvert
  rw [h1, h2, h3, h4, h5, h6]
  change isFrndPair s t = true at hc
  clear m h1 h2 h3 h4 h5 h6 hw
  exact if_pos hc

theorem fcvt (d a : BitVec 7) (s t : BitVec 4) (r : BitVec 3) : Statement (.fcvt d a s t r) := by
  intro hc ir w he
  have hw := Option.some.inj (show some (0x16#6 ++ d ++ a ++ s ++ t ++ r ++ 0x0#1) = some w from he)
  clear he
  have m : bf w 26 6 = 0x16#6 := by subst hw; simp (disch := decide) only [bf_append_high, bf_append_low, bf_full, Nat.reduceSub, Nat.sub_self]
  unfold decodeWord
  rw [m]
  change decodeConvert _ = _
  have h1 : bf w 19 7 = d := by subst hw; simp (disch := decide) only [bf_append_high, bf_append_low, bf_full, Nat.reduceSub, Nat.sub_self]
  have h2 : bf w 12 7 = a := by subst hw; simp (disch := decide) only [bf_append_high, bf_append_low, bf_full, Nat.reduceSub, Nat.sub_self]
  have h3 : bf w 8 4 = s := by subst hw; simp (disch := decide) only [bf_append_high, bf_append_low, bf_full, Nat.reduceSub, Nat.sub_self]
  have h4 : bf w 4 4 = t := by subst hw; simp (disch := decide) only [bf_append_high, bf_append_low, bf_full, Nat.reduceSub, Nat.sub_self]
  have h5 : bf w 1 3 = r := by subst hw; simp (disch := decide) only [bf_append_high, bf_append_low, bf_full, Nat.reduceSub, Nat.sub_self]
  have h6 : bf w 0 1 = 0x0#1 := by subst hw; simp (disch := decide) only [bf_append_high, bf_append_low, bf_full, Nat.reduceSub, Nat.sub_self]
  unfold decodeConvert
  rw [h1, h2, h3, h4, h5, h6]
  change isFcvtPair s t = true at hc
  clear m h1 h2 h3 h4 h5 h6 hw
  obtain ⟨q1, q2, q3⟩ := not_frnd_of_fcvt s t hc
  simp only [q1, q2, q3, hc, if_true, Bool.false_eq_true, if_false]

theorem fcvti (d a : BitVec 7) (s t : BitVec 4) (r : BitVec 3) : Statement (.fcvti d a s t r) := by
  intro hc ir w he
  have hw := Option.some.inj (show some (0x16#6 ++ d ++ a ++ s ++ t ++ r ++ 0x0#1) = some w from he)
  clear he
  have m : bf w 26 6 = 0x16#6 := by subst hw; simp (disch := decide) only [bf_append_high, bf_append_low, bf_full, Nat.reduceSub, Nat.sub_self]
  unfold decodeWord
  rw [m]
  change decodeConvert _ = _
  have h1 : bf w 19 7 = d := by subst hw; simp (disch := decide) only [bf_append_high, bf_append_low, bf_full, Nat.reduceSub, Nat.sub_self]
  have h2 : bf w 12 7 = a := by subst hw; simp (disch := decide) only [bf_append_high, bf_append_low, bf_full, Nat.reduceSub, Nat.sub_self]
  have h3 : bf w 8 4 = s := by subst hw; simp (disch := decide) only [bf_append_high, bf_append_low, bf_full, Nat.reduceSub, Nat.sub_self]
  have h4 : bf w 4 4 = t := by subst hw; simp (disch := decide) only [bf_append_high, bf_append_low, bf_full, Nat.reduceSub, Nat.sub_self]
  have h5 : bf w 1 3 = r := by subst hw; simp (disch := decide) only [bf_append_high, bf_append_low, bf_full, Nat.reduceSub, Nat.sub_self]
  have h6 : bf w 0 1 = 0x0#1 := by subst hw; simp (disch := decide) only [bf_append_high, bf_append_low, bf_full, Nat.reduceSub, Nat.sub_self]
  unfold decodeConvert
  rw [h1, h2, h3, h4, h5, h6]
  change isFcvtiPair s t = true at hc
  clear m h1 h2 h3 h4 h5 h6 hw
  obtain ⟨q1, q2, q3⟩ := not_frnd_of_fcvti s t hc
  simp only [q1, q2, q3, hc, if_true, Bool.false_eq_true, if_false]

theorem icvtf (d a : BitVec 7) (s t : BitVec 4) (r : BitVec 3) : Statement (.icvtf d a s t r) := by
  intro hc ir w he
  have hw := Option.some.inj (show some (0x16#6 ++ d ++ a ++ s ++ t ++ r ++ 0x0#1) = some w from he)
  clear he
  have m : bf w 26 6 = 0x16#6 := by subst hw; simp (disch := decide) only [bf_append_high, bf_append_low, bf_full, Nat.reduceSub, Nat.sub_self]
  unfold decodeWord
  rw [m]
  change decodeConvert _ = _
  have h1 : bf w 19 7 = d := by subst hw; simp (disch := decide) only [bf_append_high, bf_append_low, bf_full, Nat.reduceSub, Nat.sub_self]
  have h2 : bf w 12 7 = a := by subst hw; simp (disch := decide) only [bf_append_high, bf_append_low, bf_full, Nat.reduceSub, Nat.sub_self]
  have h3 : bf w 8 4 = s := by subst hw; simp (disch := decide) only [bf_append_high, bf_append_low, bf_full, Nat.reduceSub, Nat.sub_self]
  have h4 : bf w 4 4 = t := by subst hw; simp (disch := decide) only [bf_append_high, bf_append_low, bf_full, Nat.reduceSub, Nat.sub_self]
  have h5 : bf w 1 3 = r := by subst hw; simp (disch := decide) only [bf_append_high, bf_append_low, bf_full, Nat.reduceSub, Nat.sub_self]
  have h6 : bf w 0 1 = 0x0#1 := by subst hw; simp (disch := decide) only [bf_append_high, bf_append_low, bf_full, Nat.reduceSub, Nat.sub_self]
  unfold decodeConvert
  rw [h1, h2, h3, h4, h5, h6]
  change isIcvtfPair s t = true at hc
  clear m h1 h2 h3 h4 h5 h6 hw
  obtain ⟨q1, q2, q3⟩ := not_frnd_of_icvtf s t hc
  simp only [q1, q2, q3, hc, if_true, Bool.false_eq_true, if_false]

theorem ld (d a : BitVec 7) (s : BitVec 2) (z : BitVec 3) (o : BitVec 7) : Statement (.ld d a s z o) := by
  intro hc ir w e
  have e : some (0x18#6 ++ d ++ a ++ s ++ z ++ o) = some w := e
  obtain rfl := Option.some.inj e
  unfold decodeWord
  rw [show bf (0x18#6 ++ d ++ a ++ s ++ z ++ o : Word) 26 6 = 0x18#6 by
    simp (disch := decide) only [bf_append_high, bf_append_low, bf_full, Nat.reduceSub]]
  change decodeLd _ = _
  simp (disch := decide) only [decodeLd, bf_append_high, bf_append_low, bf_full, Nat.reduceSub, Nat.sub_self]
  try rfl

theorem st (d a : BitVec 7) (s : BitVec 2) (z : BitVec 3) (o : BitVec 7) : Statement (.st d a s z o) := by
  intro hc ir w e
  have e : some (0x19#6 ++ d ++ a ++ s ++ z ++ o) = some w := e
  obtain rfl := Option.some.inj e
  unfold decodeWord
  rw [show bf (0x19#6 ++ d ++ a ++ s ++ z ++ o : Word) 26 6 = 0x19#6 by
    simp (disch := decide) only [bf_append_high, bf_append_low, bf_full, Nat.reduceSub]]
  change decodeSt _ = _
  simp (disch := decide) only [decodeSt, bf_append_high, bf_append_low, bf_full, Nat.reduceSub, Nat.sub_self]
  try rfl

theorem ldAcq (d a : BitVec 7) (s : BitVec 2) (z c : BitVec 3) (o : BitVec 4) : Statement (.ldAcq d a s z c o) := by
  intro hc ir w e
  have e : some (0x1A#6 ++ d ++ a ++ s ++ z ++ c ++ o) = some w := e
  obtain rfl := Option.some.inj e
  unfold decodeWord
  rw [show bf (0x1A#6 ++ d ++ a ++ s ++ z ++ c ++ o : Word) 26 6 = 0x1A#6 by
    simp (disch := decide) only [bf_append_high, bf_append_low, bf_full, Nat.reduceSub]]
  change decodeLdAcq _ = _
  simp (disch := decide) only [decodeLdAcq, bf_append_high, bf_append_low, bf_full, Nat.reduceSub, Nat.sub_self]
  try rfl

theorem stRel (d a : BitVec 7) (s : BitVec 2) (z c : BitVec 3) (o : BitVec 4) : Statement (.stRel d a s z c o) := by
  intro hc ir w e
  have e : some (0x1B#6 ++ d ++ a ++ s ++ z ++ c ++ o) = some w := e
  obtain rfl := Option.some.inj e
  unfold decodeWord
  rw [show bf (0x1B#6 ++ d ++ a ++ s ++ z ++ c ++ o : Word) 26 6 = 0x1B#6 by
    simp (disch := decide) only [bf_append_high, bf_append_low, bf_full, Nat.reduceSub]]
  change decodeStRel _ = _
  simp (disch := decide) only [decodeStRel, bf_append_high, bf_append_low, bf_full, Nat.reduceSub, Nat.sub_self]
  try rfl

theorem ldx (d a b : BitVec 7) (s : BitVec 2) (z : BitVec 3) : Statement (.ldx d a b s z) := by
  intro hc ir w e
  have e : some (0x1C#6 ++ d ++ a ++ b ++ s ++ z) = some w := e
  obtain rfl := Option.some.inj e
  unfold decodeWord
  rw [show bf (0x1C#6 ++ d ++ a ++ b ++ s ++ z : Word) 26 6 = 0x1C#6 by
    simp (disch := decide) only [bf_append_high, bf_append_low, bf_full, Nat.reduceSub]]
  change decodeLdx _ = _
  simp (disch := decide) only [decodeLdx, bf_append_high, bf_append_low, bf_full, Nat.reduceSub, Nat.sub_self]
  try rfl

theorem stx (d a b : BitVec 7) (s : BitVec 2) (z : BitVec 3) : Statement (.stx d a b s z) := by
  intro hc ir w e
  have e : some (0x1D#6 ++ d ++ a ++ b ++ s ++ z) = some w := e
  obtain rfl := Option.some.inj e
  unfold decodeWord
  rw [show bf (0x1D#6 ++ d ++ a ++ b ++ s ++ z : Word) 26 6 = 0x1D#6 by
    simp (disch := decide) only [bf_append_high, bf_append_low, bf_full, Nat.reduceSub]]
  change decodeStx _ = _
  simp (disch := decide) only [decodeStx, bf_append_high, bf_append_low, bf_full, Nat.reduceSub, Nat.sub_self]
  try rfl

theorem atomAdd (d a b : BitVec 7) (t : BitVec 2) : Statement (.atomAdd d a b t) := by
  intro hc ir w he
  have hw := Option.some.inj (show some (0x1E#6 ++ d ++ a ++ b ++ (0x0#3 ++ t)) = some w from he)
  clear he
  have m : bf w 26 6 = 0x1E#6 := by subst hw; simp (disch := decide) only [bf_append_high, bf_append_low, bf_full, Nat.reduceSub, Nat.sub_self]
  unfold decodeWord
  rw [m]
  change decodeAtom _ = _
  have hd : bf w 19 7 = d := by subst hw; simp (disch := decide) only [bf_append_high, bf_append_low, bf_full, Nat.reduceSub, Nat.sub_self]
  have ha : bf w 12 7 = a := by subst hw; simp (disch := decide) only [bf_append_high, bf_append_low, bf_full, Nat.reduceSub, Nat.sub_self]
  have hb : bf w 5 7 = b := by subst hw; simp (disch := decide) only [bf_append_high, bf_append_low, bf_full, Nat.reduceSub, Nat.sub_self]
  have ht : bf w 0 2 = t := by subst hw; simp (disch := decide) only [bf_append_high, bf_append_low, bf_full, Nat.reduceSub, Nat.sub_self]
  have h5 : bf w 0 5 = 0x0#3 ++ t := by subst hw; simp (disch := decide) only [bf_append_low, bf_full]
  have h4 : bf w 1 4 = bf (0x0#3 ++ t) 1 4 := by subst hw; exact bf_append_low _ _ _ _ (by decide)
  have h3 : bf w 2 3 = bf (0x0#3 ++ t) 2 3 := by subst hw; exact bf_append_low _ _ _ _ (by decide)
  unfold decodeAtom
  rw [hd, ha, hb, ht, h5, h4, h3]
  clear m hd ha hb ht h5 h4 h3 hw hc
  revert t
  exact bv2_all (by rfl) (by rfl) (by rfl) (by rfl)

theorem atomMin (d a b : BitVec 7) (t : BitVec 2) : Statement (.atomMin d a b t) := by
  intro hc ir w he
  have hw := Option.some.inj (show some (0x1E#6 ++ d ++ a ++ b ++ (0x1#3 ++ t)) = some w from he)
  clear he
  have m : bf w 26 6 = 0x1E#6 := by subst hw; simp (disch := decide) only [bf_append_high, bf_append_low, bf_full, Nat.reduceSub, Nat.sub_self]
  unfold decodeWord
  rw [m]
  change decodeAtom _ = _
  have hd : bf w 19 7 = d := by subst hw; simp (disch := decide) only [bf_append_high, bf_append_low, bf_full, Nat.reduceSub, Nat.sub_self]
  have ha : bf w 12 7 = a := by subst hw; simp (disch := decide) only [bf_append_high, bf_append_low, bf_full, Nat.reduceSub, Nat.sub_self]
  have hb : bf w 5 7 = b := by subst hw; simp (disch := decide) only [bf_append_high, bf_append_low, bf_full, Nat.reduceSub, Nat.sub_self]
  have ht : bf w 0 2 = t := by subst hw; simp (disch := decide) only [bf_append_high, bf_append_low, bf_full, Nat.reduceSub, Nat.sub_self]
  have h5 : bf w 0 5 = 0x1#3 ++ t := by subst hw; simp (disch := decide) only [bf_append_low, bf_full]
  have h4 : bf w 1 4 = bf (0x1#3 ++ t) 1 4 := by subst hw; exact bf_append_low _ _ _ _ (by decide)
  have h3 : bf w 2 3 = bf (0x1#3 ++ t) 2 3 := by subst hw; exact bf_append_low _ _ _ _ (by decide)
  unfold decodeAtom
  rw [hd, ha, hb, ht, h5, h4, h3]
  clear m hd ha hb ht h5 h4 h3 hw hc
  revert t
  exact bv2_all (by rfl) (by rfl) (by rfl) (by rfl)

theorem atomMax (d a b : BitVec 7) (t : BitVec 2) : Statement (.atomMax d a b t) := by
  intro hc ir w he
  have hw := Option.some.inj (show some (0x1E#6 ++ d ++ a ++ b ++ (0x2#3 ++ t)) = some w from he)
  clear he
  have m : bf w 26 6 = 0x1E#6 := by subst hw; simp (disch := decide) only [bf_append_high, bf_append_low, bf_full, Nat.reduceSub, Nat.sub_self]
  unfold decodeWord
  rw [m]
  change decodeAtom _ = _
  have hd : bf w 19 7 = d := by subst hw; simp (disch := decide) only [bf_append_high, bf_append_low, bf_full, Nat.reduceSub, Nat.sub_self]
  have ha : bf w 12 7 = a := by subst hw; simp (disch := decide) only [bf_append_high, bf_append_low, bf_full, Nat.reduceSub, Nat.sub_self]
  have hb : bf w 5 7 = b := by subst hw; simp (disch := decide) only [bf_append_high, bf_append_low, bf_full, Nat.reduceSub, Nat.sub_self]
  have ht : bf w 0 2 = t := by subst hw; simp (disch := decide) only [bf_append_high, bf_append_low, bf_full, Nat.reduceSub, Nat.sub_self]
  have h5 : bf w 0 5 = 0x2#3 ++ t := by subst hw; simp (disch := decide) only [bf_append_low, bf_full]
  have h4 : bf w 1 4 = bf (0x2#3 ++ t) 1 4 := by subst hw; exact bf_append_low _ _ _ _ (by decide)
  have h3 : bf w 2 3 = bf (0x2#3 ++ t) 2 3 := by subst hw; exact bf_append_low _ _ _ _ (by decide)
  unfold decodeAtom
  rw [hd, ha, hb, ht, h5, h4, h3]
  clear m hd ha hb ht h5 h4 h3 hw hc
  revert t
  exact bv2_all (by rfl) (by rfl) (by rfl) (by rfl)

theorem atomAnd (d a b : BitVec 7) (t : BitVec 1) : Statement (.atomAnd d a b t) := by
  intro hc ir w he
  have hw := Option.some.inj (show some (0x1E#6 ++ d ++ a ++ b ++ (0x6#4 ++ t)) = some w from he)
  clear he
  have m : bf w 26 6 = 0x1E#6 := by subst hw; simp (disch := decide) only [bf_append_high, bf_append_low, bf_full, Nat.reduceSub, Nat.sub_self]
  unfold decodeWord
  rw [m]
  change decodeAtom _ = _
  have hd : bf w 19 7 = d := by subst hw; simp (disch := decide) only [bf_append_high, bf_append_low, bf_full, Nat.reduceSub, Nat.sub_self]
  have ha : bf w 12 7 = a := by subst hw; simp (disch := decide) only [bf_append_high, bf_append_low, bf_full, Nat.reduceSub, Nat.sub_self]
  have hb : bf w 5 7 = b := by subst hw; simp (disch := decide) only [bf_append_high, bf_append_low, bf_full, Nat.reduceSub, Nat.sub_self]
  have ht : bf w 0 1 = t := by subst hw; simp (disch := decide) only [bf_append_high, bf_append_low, bf_full, Nat.reduceSub, Nat.sub_self]
  have h5 : bf w 0 5 = 0x6#4 ++ t := by subst hw; simp (disch := decide) only [bf_append_low, bf_full]
  have h4 : bf w 1 4 = bf (0x6#4 ++ t) 1 4 := by subst hw; exact bf_append_low _ _ _ _ (by decide)
  have h3 : bf w 2 3 = bf (0x6#4 ++ t) 2 3 := by subst hw; exact bf_append_low _ _ _ _ (by decide)
  unfold decodeAtom
  rw [hd, ha, hb, ht, h5, h4, h3]
  clear m hd ha hb ht h5 h4 h3 hw hc
  revert t
  exact bv1_all (by rfl) (by rfl)

theorem atomOr (d a b : BitVec 7) (t : BitVec 1) : Statement (.atomOr d a b t) := by
  intro hc ir w he
  have hw := Option.some.inj (show some (0x1E#6 ++ d ++ a ++ b ++ (0x7#4 ++ t)) = some w from he)
  clear he
  have m : bf w 26 6 = 0x1E#6 := by subst hw; simp (disch := decide) only [bf_append_high, bf_append_low, bf_full, Nat.reduceSub, Nat.sub_self]
  unfold decodeWord
  rw [m]
  change decodeAtom _ = _
  have hd : bf w 19 7 = d := by subst hw; simp (disch := decide) only [bf_append_high, bf_append_low, bf_full, Nat.reduceSub, Nat.sub_self]
  have ha : bf w 12 7 = a := by subst hw; simp (disch := decide) only [bf_append_high, bf_append_low, bf_full, Nat.reduceSub, Nat.sub_self]
  have hb : bf w 5 7 = b := by subst hw; simp (disch := decide) only [bf_append_high, bf_append_low, bf_full, Nat.reduceSub, Nat.sub_self]
  have ht : bf w 0 1 = t := by subst hw; simp (disch := decide) only [bf_append_high, bf_append_low, bf_full, Nat.reduceSub, Nat.sub_self]
  have h5 : bf w 0 5 = 0x7#4 ++ t := by subst hw; simp (disch := decide) only [bf_append_low, bf_full]
  have h4 : bf w 1 4 = bf (0x7#4 ++ t) 1 4 := by subst hw; exact bf_append_low _ _ _ _ (by decide)
  have h3 : bf w 2 3 = bf (0x7#4 ++ t) 2 3 := by subst hw; exact bf_append_low _ _ _ _ (by decide)
  unfold decodeAtom
  rw [hd, ha, hb, ht, h5, h4, h3]
  clear m hd ha hb ht h5 h4 h3 hw hc
  revert t
  exact bv1_all (by rfl) (by rfl)

theorem atomXor (d a b : BitVec 7) (t : BitVec 1) : Statement (.atomXor d a b t) := by
  intro hc ir w he
  have hw := Option.some.inj (show some (0x1E#6 ++ d ++ a ++ b ++ (0x8#4 ++ t)) = some w from he)
  clear he
  have m : bf w 26 6 = 0x1E#6 := by subst hw; simp (disch := decide) only [bf_append_high, bf_append_low, bf_full, Nat.reduceSub, Nat.sub_self]
  unfold decodeWord
  rw [m]
  change decodeAtom _ = _
  have hd : bf w 19 7 = d := by subst hw; simp (disch := decide) only [bf_append_high, bf_append_low, bf_full, Nat.reduceSub, Nat.sub_self]
  have ha : bf w 12 7 = a := by subst hw; simp (disch := decide) only [bf_append_high, bf_append_low, bf_full, Nat.reduceSub, Nat.sub_self]
  have hb : bf w 5 7 = b := by subst hw; simp (disch := decide) only [bf_append_high, bf_append_low, bf_full, Nat.reduceSub, Nat.sub_self]
  have ht : bf w 0 1 = t := by subst hw; simp (disch := decide) only [bf_append_high, bf_append_low, bf_full, Nat.reduceSub, Nat.sub_self]
  have h5 : bf w 0 5 = 0x8#4 ++ t := by subst hw; simp (disch := decide) only [bf_append_low, bf_full]
  have h4 : bf w 1 4 = bf (0x8#4 ++ t) 1 4 := by subst hw; exact bf_append_low _ _ _ _ (by decide)
  have h3 : bf w 2 3 = bf (0x8#4 ++ t) 2 3 := by subst hw; exact bf_append_low _ _ _ _ (by decide)
  unfold decodeAtom
  rw [hd, ha, hb, ht, h5, h4, h3]
  clear m hd ha hb ht h5 h4 h3 hw hc
  revert t
  exact bv1_all (by rfl) (by rfl)

theorem atomExch (d a b : BitVec 7) (t : BitVec 1) : Statement (.atomExch d a b t) := by
  intro hc ir w he
  have hw := Option.some.inj (show some (0x1E#6 ++ d ++ a ++ b ++ (0x9#4 ++ t)) = some w from he)
  clear he
  have m : bf w 26 6 = 0x1E#6 := by subst hw; simp (disch := decide) only [bf_append_high, bf_append_low, bf_full, Nat.reduceSub, Nat.sub_self]
  unfold decodeWord
  rw [m]
  change decodeAtom _ = _
  have hd : bf w 19 7 = d := by subst hw; simp (disch := decide) only [bf_append_high, bf_append_low, bf_full, Nat.reduceSub, Nat.sub_self]
  have ha : bf w 12 7 = a := by subst hw; simp (disch := decide) only [bf_append_high, bf_append_low, bf_full, Nat.reduceSub, Nat.sub_self]
  have hb : bf w 5 7 = b := by subst hw; simp (disch := decide) only [bf_append_high, bf_append_low, bf_full, Nat.reduceSub, Nat.sub_self]
  have ht : bf w 0 1 = t := by subst hw; simp (disch := decide) only [bf_append_high, bf_append_low, bf_full, Nat.reduceSub, Nat.sub_self]
  have h5 : bf w 0 5 = 0x9#4 ++ t := by subst hw; simp (disch := decide) only [bf_append_low, bf_full]
  have h4 : bf w 1 4 = bf (0x9#4 ++ t) 1 4 := by subst hw; exact bf_append_low _ _ _ _ (by decide)
  have h3 : bf w 2 3 = bf (0x9#4 ++ t) 2 3 := by subst hw; exact bf_append_low _ _ _ _ (by decide)
  unfold decodeAtom
  rw [hd, ha, hb, ht, h5, h4, h3]
  clear m hd ha hb ht h5 h4 h3 hw hc
  revert t
  exact bv1_all (by rfl) (by rfl)

theorem atomCas (d a b : BitVec 7) (t : BitVec 1) : Statement (.atomCas d a b t) := by
  intro hc ir w he
  have hw := Option.some.inj (show some (0x1E#6 ++ d ++ a ++ b ++ (0xA#4 ++ t)) = some w from he)
  clear he
  have m : bf w 26 6 = 0x1E#6 := by subst hw; simp (disch := decide) only [bf_append_high, bf_append_low, bf_full, Nat.reduceSub, Nat.sub_self]
  unfold decodeWord
  rw [m]
  change decodeAtom _ = _
  have hd : bf w 19 7 = d := by subst hw; simp (disch := decide) only [bf_append_high, bf_append_low, bf_full, Nat.reduceSub, Nat.sub_self]
  have ha : bf w 12 7 = a := by subst hw; simp (disch := decide) only [bf_append_high, bf_append_low, bf_full, Nat.reduceSub, Nat.sub_self]
  have hb : bf w 5 7 = b := by subst hw; simp (disch := decide) only [bf_append_high, bf_append_low, bf_full, Nat.reduceSub, Nat.sub_self]
  have ht : bf w 0 1 = t := by subst hw; simp (disch := decide) only [bf_append_high, bf_append_low, bf_full, Nat.reduceSub, Nat.sub_self]
  have h5 : bf w 0 5 = 0xA#4 ++ t := by subst hw; simp (disch := decide) only [bf_append_low, bf_full]
  have h4 : bf w 1 4 = bf (0xA#4 ++ t) 1 4 := by subst hw; exact bf_append_low _ _ _ _ (by decide)
  have h3 : bf w 2 3 = bf (0xA#4 ++ t) 2 3 := by subst hw; exact bf_append_low _ _ _ _ (by decide)
  unfold decodeAtom
  rw [hd, ha, hb, ht, h5, h4, h3]
  clear m hd ha hb ht h5 h4 h3 hw hc
  revert t
  exact bv1_all (by rfl) (by rfl)

theorem atomFadd (d a b : BitVec 7) : Statement (.atomFadd d a b) := by
  intro hc ir w he
  have hw := Option.some.inj (show some (0x1E#6 ++ d ++ a ++ b ++ 0x16#5) = some w from he)
  clear he
  have m : bf w 26 6 = 0x1E#6 := by subst hw; simp (disch := decide) only [bf_append_high, bf_append_low, bf_full, Nat.reduceSub, Nat.sub_self]
  unfold decodeWord
  rw [m]
  change decodeAtom _ = _
  have hd : bf w 19 7 = d := by subst hw; simp (disch := decide) only [bf_append_high, bf_append_low, bf_full, Nat.reduceSub, Nat.sub_self]
  have ha : bf w 12 7 = a := by subst hw; simp (disch := decide) only [bf_append_high, bf_append_low, bf_full, Nat.reduceSub, Nat.sub_self]
  have hb : bf w 5 7 = b := by subst hw; simp (disch := decide) only [bf_append_high, bf_append_low, bf_full, Nat.reduceSub, Nat.sub_self]
  have h5 : bf w 0 5 = 0x16#5 := by subst hw; simp (disch := decide) only [bf_append_low, bf_full]
  have h4 : bf w 1 4 = bf 0x16#5 1 4 := by subst hw; exact bf_append_low _ _ _ _ (by decide)
  have h3 : bf w 2 3 = bf 0x16#5 2 3 := by subst hw; exact bf_append_low _ _ _ _ (by decide)
  unfold decodeAtom
  rw [hd, ha, hb, h5, h4, h3]
  rfl

theorem atomFmin (d a b : BitVec 7) : Statement (.atomFmin d a b) := by
  intro hc ir w he
  have hw := Option.some.inj (show some (0x1E#6 ++ d ++ a ++ b ++ 0x17#5) = some w from he)
  clear he
  have m : bf w 26 6 = 0x1E#6 := by subst hw; simp (disch := decide) only [bf_append_high, bf_append_low, bf_full, Nat.reduceSub, Nat.sub_self]
  unfold decodeWord
  rw [m]
  change decodeAtom _ = _
  have hd : bf w 19 7 = d := by subst hw; simp (disch := decide) only [bf_append_high, bf_append_low, bf_full, Nat.reduceSub, Nat.sub_self]
  have ha : bf w 12 7 = a := by subst hw; simp (disch := decide) only [bf_append_high, bf_append_low, bf_full, Nat.reduceSub, Nat.sub_self]
  have hb : bf w 5 7 = b := by subst hw; simp (disch := decide) only [bf_append_high, bf_append_low, bf_full, Nat.reduceSub, Nat.sub_self]
  have h5 : bf w 0 5 = 0x17#5 := by subst hw; simp (disch := decide) only [bf_append_low, bf_full]
  have h4 : bf w 1 4 = bf 0x17#5 1 4 := by subst hw; exact bf_append_low _ _ _ _ (by decide)
  have h3 : bf w 2 3 = bf 0x17#5 2 3 := by subst hw; exact bf_append_low _ _ _ _ (by decide)
  unfold decodeAtom
  rw [hd, ha, hb, h5, h4, h3]
  rfl

theorem atomFmax (d a b : BitVec 7) : Statement (.atomFmax d a b) := by
  intro hc ir w he
  have hw := Option.some.inj (show some (0x1E#6 ++ d ++ a ++ b ++ 0x18#5) = some w from he)
  clear he
  have m : bf w 26 6 = 0x1E#6 := by subst hw; simp (disch := decide) only [bf_append_high, bf_append_low, bf_full, Nat.reduceSub, Nat.sub_self]
  unfold decodeWord
  rw [m]
  change decodeAtom _ = _
  have hd : bf w 19 7 = d := by subst hw; simp (disch := decide) only [bf_append_high, bf_append_low, bf_full, Nat.reduceSub, Nat.sub_self]
  have ha : bf w 12 7 = a := by subst hw; simp (disch := decide) only [bf_append_high, bf_append_low, bf_full, Nat.reduceSub, Nat.sub_self]
  have hb : bf w 5 7 = b := by subst hw; simp (disch := decide) only [bf_append_high, bf_append_low, bf_full, Nat.reduceSub, Nat.sub_self]
  have h5 : bf w 0 5 = 0x18#5 := by subst hw; simp (disch := decide) only [bf_append_low, bf_full]
  have h4 : bf w 1 4 = bf 0x18#5 1 4 := by subst hw; exact bf_append_low _ _ _ _ (by decide)
  have h3 : bf w 2 3 = bf 0x18#5 2 3 := by subst hw; exact bf_append_low _ _ _ _ (by decide)
  unfold decodeAtom
  rw [hd, ha, hb, h5, h4, h3]
  rfl

theorem atomIncb (d a b : BitVec 7) : Statement (.atomIncb d a b) := by
  intro hc ir w he
  have hw := Option.some.inj (show some (0x1E#6 ++ d ++ a ++ b ++ 0x19#5) = some w from he)
  clear he
  have m : bf w 26 6 = 0x1E#6 := by subst hw; simp (disch := decide) only [bf_append_high, bf_append_low, bf_full, Nat.reduceSub, Nat.sub_self]
  unfold decodeWord
  rw [m]
  change decodeAtom _ = _
  have hd : bf w 19 7 = d := by subst hw; simp (disch := decide) only [bf_append_high, bf_append_low, bf_full, Nat.reduceSub, Nat.sub_self]
  have ha : bf w 12 7 = a := by subst hw; simp (disch := decide) only [bf_append_high, bf_append_low, bf_full, Nat.reduceSub, Nat.sub_self]
  have hb : bf w 5 7 = b := by subst hw; simp (disch := decide) only [bf_append_high, bf_append_low, bf_full, Nat.reduceSub, Nat.sub_self]
  have h5 : bf w 0 5 = 0x19#5 := by subst hw; simp (disch := decide) only [bf_append_low, bf_full]
  have h4 : bf w 1 4 = bf 0x19#5 1 4 := by subst hw; exact bf_append_low _ _ _ _ (by decide)
  have h3 : bf w 2 3 = bf 0x19#5 2 3 := by subst hw; exact bf_append_low _ _ _ _ (by decide)
  unfold decodeAtom
  rw [hd, ha, hb, h5, h4, h3]
  rfl

theorem atomDecb (d a b : BitVec 7) : Statement (.atomDecb d a b) := by
  intro hc ir w he
  have hw := Option.some.inj (show some (0x1E#6 ++ d ++ a ++ b ++ 0x1A#5) = some w from he)
  clear he
  have m : bf w 26 6 = 0x1E#6 := by subst hw; simp (disch := decide) only [bf_append_high, bf_append_low, bf_full, Nat.reduceSub, Nat.sub_self]
  unfold decodeWord
  rw [m]
  change decodeAtom _ = _
  have hd : bf w 19 7 = d := by subst hw; simp (disch := decide) only [bf_append_high, bf_append_low, bf_full, Nat.reduceSub, Nat.sub_self]
  have ha : bf w 12 7 = a := by subst hw; simp (disch := decide) only [bf_append_high, bf_append_low, bf_full, Nat.reduceSub, Nat.sub_self]
  have hb : bf w 5 7 = b := by subst hw; simp (disch := decide) only [bf_append_high, bf_append_low, bf_full, Nat.reduceSub, Nat.sub_self]
  have h5 : bf w 0 5 = 0x1A#5 := by subst hw; simp (disch := decide) only [bf_append_low, bf_full]
  have h4 : bf w 1 4 = bf 0x1A#5 1 4 := by subst hw; exact bf_append_low _ _ _ _ (by decide)
  have h3 : bf w 2 3 = bf 0x1A#5 2 3 := by subst hw; exact bf_append_low _ _ _ _ (by decide)
  unfold decodeAtom
  rw [hd, ha, hb, h5, h4, h3]
  rfl

theorem aredAdd (a b : BitVec 7) (t : BitVec 2) : Statement (.aredAdd a b t) := by
  intro hc ir w he
  have hw := Option.some.inj (show some (0x1F#6 ++ 0x0#7 ++ a ++ b ++ (0x0#3 ++ t)) = some w from he)
  clear he
  have m : bf w 26 6 = 0x1F#6 := by subst hw; simp (disch := decide) only [bf_append_high, bf_append_low, bf_full, Nat.reduceSub, Nat.sub_self]
  unfold decodeWord
  rw [m]
  change decodeAred _ = _
  have hd : bf w 19 7 = 0x0#7 := by subst hw; simp (disch := decide) only [bf_append_high, bf_append_low, bf_full, Nat.reduceSub, Nat.sub_self]
  have ha : bf w 12 7 = a := by subst hw; simp (disch := decide) only [bf_append_high, bf_append_low, bf_full, Nat.reduceSub, Nat.sub_self]
  have hb : bf w 5 7 = b := by subst hw; simp (disch := decide) only [bf_append_high, bf_append_low, bf_full, Nat.reduceSub, Nat.sub_self]
  have ht : bf w 0 2 = t := by subst hw; simp (disch := decide) only [bf_append_high, bf_append_low, bf_full, Nat.reduceSub, Nat.sub_self]
  have h5 : bf w 0 5 = 0x0#3 ++ t := by subst hw; simp (disch := decide) only [bf_append_low, bf_full]
  have h4 : bf w 1 4 = bf (0x0#3 ++ t) 1 4 := by subst hw; exact bf_append_low _ _ _ _ (by decide)
  have h3 : bf w 2 3 = bf (0x0#3 ++ t) 2 3 := by subst hw; exact bf_append_low _ _ _ _ (by decide)
  unfold decodeAred
  rw [hd, ha, hb, ht, h5, h4, h3]
  clear m hd ha hb ht h5 h4 h3 hw hc
  revert t
  exact bv2_all (by rfl) (by rfl) (by rfl) (by rfl)

theorem aredMin (a b : BitVec 7) (t : BitVec 2) : Statement (.aredMin a b t) := by
  intro hc ir w he
  have hw := Option.some.inj (show some (0x1F#6 ++ 0x0#7 ++ a ++ b ++ (0x1#3 ++ t)) = some w from he)
  clear he
  have m : bf w 26 6 = 0x1F#6 := by subst hw; simp (disch := decide) only [bf_append_high, bf_append_low, bf_full, Nat.reduceSub, Nat.sub_self]
  unfold decodeWord
  rw [m]
  change decodeAred _ = _
  have hd : bf w 19 7 = 0x0#7 := by subst hw; simp (disch := decide) only [bf_append_high, bf_append_low, bf_full, Nat.reduceSub, Nat.sub_self]
  have ha : bf w 12 7 = a := by subst hw; simp (disch := decide) only [bf_append_high, bf_append_low, bf_full, Nat.reduceSub, Nat.sub_self]
  have hb : bf w 5 7 = b := by subst hw; simp (disch := decide) only [bf_append_high, bf_append_low, bf_full, Nat.reduceSub, Nat.sub_self]
  have ht : bf w 0 2 = t := by subst hw; simp (disch := decide) only [bf_append_high, bf_append_low, bf_full, Nat.reduceSub, Nat.sub_self]
  have h5 : bf w 0 5 = 0x1#3 ++ t := by subst hw; simp (disch := decide) only [bf_append_low, bf_full]
  have h4 : bf w 1 4 = bf (0x1#3 ++ t) 1 4 := by subst hw; exact bf_append_low _ _ _ _ (by decide)
  have h3 : bf w 2 3 = bf (0x1#3 ++ t) 2 3 := by subst hw; exact bf_append_low _ _ _ _ (by decide)
  unfold decodeAred
  rw [hd, ha, hb, ht, h5, h4, h3]
  clear m hd ha hb ht h5 h4 h3 hw hc
  revert t
  exact bv2_all (by rfl) (by rfl) (by rfl) (by rfl)

theorem aredMax (a b : BitVec 7) (t : BitVec 2) : Statement (.aredMax a b t) := by
  intro hc ir w he
  have hw := Option.some.inj (show some (0x1F#6 ++ 0x0#7 ++ a ++ b ++ (0x2#3 ++ t)) = some w from he)
  clear he
  have m : bf w 26 6 = 0x1F#6 := by subst hw; simp (disch := decide) only [bf_append_high, bf_append_low, bf_full, Nat.reduceSub, Nat.sub_self]
  unfold decodeWord
  rw [m]
  change decodeAred _ = _
  have hd : bf w 19 7 = 0x0#7 := by subst hw; simp (disch := decide) only [bf_append_high, bf_append_low, bf_full, Nat.reduceSub, Nat.sub_self]
  have ha : bf w 12 7 = a := by subst hw; simp (disch := decide) only [bf_append_high, bf_append_low, bf_full, Nat.reduceSub, Nat.sub_self]
  have hb : bf w 5 7 = b := by subst hw; simp (disch := decide) only [bf_append_high, bf_append_low, bf_full, Nat.reduceSub, Nat.sub_self]
  have ht : bf w 0 2 = t := by subst hw; simp (disch := decide) only [bf_append_high, bf_append_low, bf_full, Nat.reduceSub, Nat.sub_self]
  have h5 : bf w 0 5 = 0x2#3 ++ t := by subst hw; simp (disch := decide) only [bf_append_low, bf_full]
  have h4 : bf w 1 4 = bf (0x2#3 ++ t) 1 4 := by subst hw; exact bf_append_low _ _ _ _ (by decide)
  have h3 : bf w 2 3 = bf (0x2#3 ++ t) 2 3 := by subst hw; exact bf_append_low _ _ _ _ (by decide)
  unfold decodeAred
  rw [hd, ha, hb, ht, h5, h4, h3]
  clear m hd ha hb ht h5 h4 h3 hw hc
  revert t
  exact bv2_all (by rfl) (by rfl) (by rfl) (by rfl)

theorem aredAnd (a b : BitVec 7) (t : BitVec 1) : Statement (.aredAnd a b t) := by
  intro hc ir w he
  have hw := Option.some.inj (show some (0x1F#6 ++ 0x0#7 ++ a ++ b ++ (0x6#4 ++ t)) = some w from he)
  clear he
  have m : bf w 26 6 = 0x1F#6 := by subst hw; simp (disch := decide) only [bf_append_high, bf_append_low, bf_full, Nat.reduceSub, Nat.sub_self]
  unfold decodeWord
  rw [m]
  change decodeAred _ = _
  have hd : bf w 19 7 = 0x0#7 := by subst hw; simp (disch := decide) only [bf_append_high, bf_append_low, bf_full, Nat.reduceSub, Nat.sub_self]
  have ha : bf w 12 7 = a := by subst hw; simp (disch := decide) only [bf_append_high, bf_append_low, bf_full, Nat.reduceSub, Nat.sub_self]
  have hb : bf w 5 7 = b := by subst hw; simp (disch := decide) only [bf_append_high, bf_append_low, bf_full, Nat.reduceSub, Nat.sub_self]
  have ht : bf w 0 1 = t := by subst hw; simp (disch := decide) only [bf_append_high, bf_append_low, bf_full, Nat.reduceSub, Nat.sub_self]
  have h5 : bf w 0 5 = 0x6#4 ++ t := by subst hw; simp (disch := decide) only [bf_append_low, bf_full]
  have h4 : bf w 1 4 = bf (0x6#4 ++ t) 1 4 := by subst hw; exact bf_append_low _ _ _ _ (by decide)
  have h3 : bf w 2 3 = bf (0x6#4 ++ t) 2 3 := by subst hw; exact bf_append_low _ _ _ _ (by decide)
  unfold decodeAred
  rw [hd, ha, hb, ht, h5, h4, h3]
  clear m hd ha hb ht h5 h4 h3 hw hc
  revert t
  exact bv1_all (by rfl) (by rfl)

theorem aredOr (a b : BitVec 7) (t : BitVec 1) : Statement (.aredOr a b t) := by
  intro hc ir w he
  have hw := Option.some.inj (show some (0x1F#6 ++ 0x0#7 ++ a ++ b ++ (0x7#4 ++ t)) = some w from he)
  clear he
  have m : bf w 26 6 = 0x1F#6 := by subst hw; simp (disch := decide) only [bf_append_high, bf_append_low, bf_full, Nat.reduceSub, Nat.sub_self]
  unfold decodeWord
  rw [m]
  change decodeAred _ = _
  have hd : bf w 19 7 = 0x0#7 := by subst hw; simp (disch := decide) only [bf_append_high, bf_append_low, bf_full, Nat.reduceSub, Nat.sub_self]
  have ha : bf w 12 7 = a := by subst hw; simp (disch := decide) only [bf_append_high, bf_append_low, bf_full, Nat.reduceSub, Nat.sub_self]
  have hb : bf w 5 7 = b := by subst hw; simp (disch := decide) only [bf_append_high, bf_append_low, bf_full, Nat.reduceSub, Nat.sub_self]
  have ht : bf w 0 1 = t := by subst hw; simp (disch := decide) only [bf_append_high, bf_append_low, bf_full, Nat.reduceSub, Nat.sub_self]
  have h5 : bf w 0 5 = 0x7#4 ++ t := by subst hw; simp (disch := decide) only [bf_append_low, bf_full]
  have h4 : bf w 1 4 = bf (0x7#4 ++ t) 1 4 := by subst hw; exact bf_append_low _ _ _ _ (by decide)
  have h3 : bf w 2 3 = bf (0x7#4 ++ t) 2 3 := by subst hw; exact bf_append_low _ _ _ _ (by decide)
  unfold decodeAred
  rw [hd, ha, hb, ht, h5, h4, h3]
  clear m hd ha hb ht h5 h4 h3 hw hc
  revert t
  exact bv1_all (by rfl) (by rfl)

theorem aredXor (a b : BitVec 7) (t : BitVec 1) : Statement (.aredXor a b t) := by
  intro hc ir w he
  have hw := Option.some.inj (show some (0x1F#6 ++ 0x0#7 ++ a ++ b ++ (0x8#4 ++ t)) = some w from he)
  clear he
  have m : bf w 26 6 = 0x1F#6 := by subst hw; simp (disch := decide) only [bf_append_high, bf_append_low, bf_full, Nat.reduceSub, Nat.sub_self]
  unfold decodeWord
  rw [m]
  change decodeAred _ = _
  have hd : bf w 19 7 = 0x0#7 := by subst hw; simp (disch := decide) only [bf_append_high, bf_append_low, bf_full, Nat.reduceSub, Nat.sub_self]
  have ha : bf w 12 7 = a := by subst hw; simp (disch := decide) only [bf_append_high, bf_append_low, bf_full, Nat.reduceSub, Nat.sub_self]
  have hb : bf w 5 7 = b := by subst hw; simp (disch := decide) only [bf_append_high, bf_append_low, bf_full, Nat.reduceSub, Nat.sub_self]
  have ht : bf w 0 1 = t := by subst hw; simp (disch := decide) only [bf_append_high, bf_append_low, bf_full, Nat.reduceSub, Nat.sub_self]
  have h5 : bf w 0 5 = 0x8#4 ++ t := by subst hw; simp (disch := decide) only [bf_append_low, bf_full]
  have h4 : bf w 1 4 = bf (0x8#4 ++ t) 1 4 := by subst hw; exact bf_append_low _ _ _ _ (by decide)
  have h3 : bf w 2 3 = bf (0x8#4 ++ t) 2 3 := by subst hw; exact bf_append_low _ _ _ _ (by decide)
  unfold decodeAred
  rw [hd, ha, hb, ht, h5, h4, h3]
  clear m hd ha hb ht h5 h4 h3 hw hc
  revert t
  exact bv1_all (by rfl) (by rfl)

theorem aredExch (a b : BitVec 7) (t : BitVec 1) : Statement (.aredExch a b t) := by
  intro hc ir w he
  have hw := Option.some.inj (show some (0x1F#6 ++ 0x0#7 ++ a ++ b ++ (0x9#4 ++ t)) = some w from he)
  clear he
  have m : bf w 26 6 = 0x1F#6 := by subst hw; simp (disch := decide) only [bf_append_high, bf_append_low, bf_full, Nat.reduceSub, Nat.sub_self]
  unfold decodeWord
  rw [m]
  change decodeAred _ = _
  have hd : bf w 19 7 = 0x0#7 := by subst hw; simp (disch := decide) only [bf_append_high, bf_append_low, bf_full, Nat.reduceSub, Nat.sub_self]
  have ha : bf w 12 7 = a := by subst hw; simp (disch := decide) only [bf_append_high, bf_append_low, bf_full, Nat.reduceSub, Nat.sub_self]
  have hb : bf w 5 7 = b := by subst hw; simp (disch := decide) only [bf_append_high, bf_append_low, bf_full, Nat.reduceSub, Nat.sub_self]
  have ht : bf w 0 1 = t := by subst hw; simp (disch := decide) only [bf_append_high, bf_append_low, bf_full, Nat.reduceSub, Nat.sub_self]
  have h5 : bf w 0 5 = 0x9#4 ++ t := by subst hw; simp (disch := decide) only [bf_append_low, bf_full]
  have h4 : bf w 1 4 = bf (0x9#4 ++ t) 1 4 := by subst hw; exact bf_append_low _ _ _ _ (by decide)
  have h3 : bf w 2 3 = bf (0x9#4 ++ t) 2 3 := by subst hw; exact bf_append_low _ _ _ _ (by decide)
  unfold decodeAred
  rw [hd, ha, hb, ht, h5, h4, h3]
  clear m hd ha hb ht h5 h4 h3 hw hc
  revert t
  exact bv1_all (by rfl) (by rfl)

theorem aredFadd (a b : BitVec 7) : Statement (.aredFadd a b) := by
  intro hc ir w he
  have hw := Option.some.inj (show some (0x1F#6 ++ 0x0#7 ++ a ++ b ++ 0x16#5) = some w from he)
  clear he
  have m : bf w 26 6 = 0x1F#6 := by subst hw; simp (disch := decide) only [bf_append_high, bf_append_low, bf_full, Nat.reduceSub, Nat.sub_self]
  unfold decodeWord
  rw [m]
  change decodeAred _ = _
  have hd : bf w 19 7 = 0x0#7 := by subst hw; simp (disch := decide) only [bf_append_high, bf_append_low, bf_full, Nat.reduceSub, Nat.sub_self]
  have ha : bf w 12 7 = a := by subst hw; simp (disch := decide) only [bf_append_high, bf_append_low, bf_full, Nat.reduceSub, Nat.sub_self]
  have hb : bf w 5 7 = b := by subst hw; simp (disch := decide) only [bf_append_high, bf_append_low, bf_full, Nat.reduceSub, Nat.sub_self]
  have h5 : bf w 0 5 = 0x16#5 := by subst hw; simp (disch := decide) only [bf_append_low, bf_full]
  have h4 : bf w 1 4 = bf 0x16#5 1 4 := by subst hw; exact bf_append_low _ _ _ _ (by decide)
  have h3 : bf w 2 3 = bf 0x16#5 2 3 := by subst hw; exact bf_append_low _ _ _ _ (by decide)
  unfold decodeAred
  rw [hd, ha, hb, h5, h4, h3]
  rfl

theorem aredFmin (a b : BitVec 7) : Statement (.aredFmin a b) := by
  intro hc ir w he
  have hw := Option.some.inj (show some (0x1F#6 ++ 0x0#7 ++ a ++ b ++ 0x17#5) = some w from he)
  clear he
  have m : bf w 26 6 = 0x1F#6 := by subst hw; simp (disch := decide) only [bf_append_high, bf_append_low, bf_full, Nat.reduceSub, Nat.sub_self]
  unfold decodeWord
  rw [m]
  change decodeAred _ = _
  have hd : bf w 19 7 = 0x0#7 := by subst hw; simp (disch := decide) only [bf_append_high, bf_append_low, bf_full, Nat.reduceSub, Nat.sub_self]
  have ha : bf w 12 7 = a := by subst hw; simp (disch := decide) only [bf_append_high, bf_append_low, bf_full, Nat.reduceSub, Nat.sub_self]
  have hb : bf w 5 7 = b := by subst hw; simp (disch := decide) only [bf_append_high, bf_append_low, bf_full, Nat.reduceSub, Nat.sub_self]
  have h5 : bf w 0 5 = 0x17#5 := by subst hw; simp (disch := decide) only [bf_append_low, bf_full]
  have h4 : bf w 1 4 = bf 0x17#5 1 4 := by subst hw; exact bf_append_low _ _ _ _ (by decide)
  have h3 : bf w 2 3 = bf 0x17#5 2 3 := by subst hw; exact bf_append_low _ _ _ _ (by decide)
  unfold decodeAred
  rw [hd, ha, hb, h5, h4, h3]
  rfl

theorem aredFmax (a b : BitVec 7) : Statement (.aredFmax a b) := by
  intro hc ir w he
  have hw := Option.some.inj (show some (0x1F#6 ++ 0x0#7 ++ a ++ b ++ 0x18#5) = some w from he)
  clear he
  have m : bf w 26 6 = 0x1F#6 := by subst hw; simp (disch := decide) only [bf_append_high, bf_append_low, bf_full, Nat.reduceSub, Nat.sub_self]
  unfold decodeWord
  rw [m]
  change decodeAred _ = _
  have hd : bf w 19 7 = 0x0#7 := by subst hw; simp (disch := decide) only [bf_append_high, bf_append_low, bf_full, Nat.reduceSub, Nat.sub_self]
  have ha : bf w 12 7 = a := by subst hw; simp (disch := decide) only [bf_append_high, bf_append_low, bf_full, Nat.reduceSub, Nat.sub_self]
  have hb : bf w 5 7 = b := by subst hw; simp (disch := decide) only [bf_append_high, bf_append_low, bf_full, Nat.reduceSub, Nat.sub_self]
  have h5 : bf w 0 5 = 0x18#5 := by subst hw; simp (disch := decide) only [bf_append_low, bf_full]
  have h4 : bf w 1 4 = bf 0x18#5 1 4 := by subst hw; exact bf_append_low _ _ _ _ (by decide)
  have h3 : bf w 2 3 = bf 0x18#5 2 3 := by subst hw; exact bf_append_low _ _ _ _ (by decide)
  unfold decodeAred
  rw [hd, ha, hb, h5, h4, h3]
  rfl

theorem aredIncb (a b : BitVec 7) : Statement (.aredIncb a b) := by
  intro hc ir w he
  have hw := Option.some.inj (show some (0x1F#6 ++ 0x0#7 ++ a ++ b ++ 0x19#5) = some w from he)
  clear he
  have m : bf w 26 6 = 0x1F#6 := by subst hw; simp (disch := decide) only [bf_append_high, bf_append_low, bf_full, Nat.reduceSub, Nat.sub_self]
  unfold decodeWord
  rw [m]
  change decodeAred _ = _
  have hd : bf w 19 7 = 0x0#7 := by subst hw; simp (disch := decide) only [bf_append_high, bf_append_low, bf_full, Nat.reduceSub, Nat.sub_self]
  have ha : bf w 12 7 = a := by subst hw; simp (disch := decide) only [bf_append_high, bf_append_low, bf_full, Nat.reduceSub, Nat.sub_self]
  have hb : bf w 5 7 = b := by subst hw; simp (disch := decide) only [bf_append_high, bf_append_low, bf_full, Nat.reduceSub, Nat.sub_self]
  have h5 : bf w 0 5 = 0x19#5 := by subst hw; simp (disch := decide) only [bf_append_low, bf_full]
  have h4 : bf w 1 4 = bf 0x19#5 1 4 := by subst hw; exact bf_append_low _ _ _ _ (by decide)
  have h3 : bf w 2 3 = bf 0x19#5 2 3 := by subst hw; exact bf_append_low _ _ _ _ (by decide)
  unfold decodeAred
  rw [hd, ha, hb, h5, h4, h3]
  rfl

theorem aredDecb (a b : BitVec 7) : Statement (.aredDecb a b) := by
  intro hc ir w he
  have hw := Option.some.inj (show some (0x1F#6 ++ 0x0#7 ++ a ++ b ++ 0x1A#5) = some w from he)
  clear he
  have m : bf w 26 6 = 0x1F#6 := by subst hw; simp (disch := decide) only [bf_append_high, bf_append_low, bf_full, Nat.reduceSub, Nat.sub_self]
  unfold decodeWord
  rw [m]
  change decodeAred _ = _
  have hd : bf w 19 7 = 0x0#7 := by subst hw; simp (disch := decide) only [bf_append_high, bf_append_low, bf_full, Nat.reduceSub, Nat.sub_self]
  have ha : bf w 12 7 = a := by subst hw; simp (disch := decide) only [bf_append_high, bf_append_low, bf_full, Nat.reduceSub, Nat.sub_self]
  have hb : bf w 5 7 = b := by subst hw; simp (disch := decide) only [bf_append_high, bf_append_low, bf_full, Nat.reduceSub, Nat.sub_self]
  have h5 : bf w 0 5 = 0x1A#5 := by subst hw; simp (disch := decide) only [bf_append_low, bf_full]
  have h4 : bf w 1 4 = bf 0x1A#5 1 4 := by subst hw; exact bf_append_low _ _ _ _ (by decide)
  have h3 : bf w 2 3 = bf 0x1A#5 2 3 := by subst hw; exact bf_append_low _ _ _ _ (by decide)
  unfold decodeAred
  rw [hd, ha, hb, h5, h4, h3]
  rfl

theorem fence (s : BitVec 3) : Statement (.fence s) := by
  intro hc ir w e
  have e : some (0x20#6 ++ 0x0#5 ++ s ++ 0x0#18) = some w := e
  obtain rfl := Option.some.inj e
  unfold decodeWord
  rw [show bf (0x20#6 ++ 0x0#5 ++ s ++ 0x0#18 : Word) 26 6 = 0x20#6 by
    simp (disch := decide) only [bf_append_high, bf_append_low, bf_full, Nat.reduceSub]]
  change decodeSync _ = _
  simp (disch := decide) only [decodeSync, bf_append_high, bf_append_low, bf_full, Nat.reduceSub, Nat.sub_self]
  try rfl

theorem fenceAcq (s : BitVec 3) : Statement (.fenceAcq s) := by
  intro hc ir w e
  have e : some (0x20#6 ++ 0x1#5 ++ s ++ 0x0#18) = some w := e
  obtain rfl := Option.some.inj e
  unfold decodeWord
  rw [show bf (0x20#6 ++ 0x1#5 ++ s ++ 0x0#18 : Word) 26 6 = 0x20#6 by
    simp (disch := decide) only [bf_append_high, bf_append_low, bf_full, Nat.reduceSub]]
  change decodeSync _ = _
  simp (disch := decide) only [decodeSync, bf_append_high, bf_append_low, bf_full, Nat.reduceSub, Nat.sub_self]
  try rfl

theorem fenceRel (s : BitVec 3) : Statement (.fenceRel s) := by
  intro hc ir w e
  have e : some (0x20#6 ++ 0x2#5 ++ s ++ 0x0#18) = some w := e
  obtain rfl := Option.some.inj e
  unfold decodeWord
  rw [show bf (0x20#6 ++ 0x2#5 ++ s ++ 0x0#18 : Word) 26 6 = 0x20#6 by
    simp (disch := decide) only [bf_append_high, bf_append_low, bf_full, Nat.reduceSub]]
  change decodeSync _ = _
  simp (disch := decide) only [decodeSync, bf_append_high, bf_append_low, bf_full, Nat.reduceSub, Nat.sub_self]
  try rfl

theorem barArm (r : BitVec 4) (a b : BitVec 7) : Statement (.barArm r a b) := by
  intro hc ir w e
  have e : some (0x20#6 ++ 0x18#8 ++ r ++ a ++ b) = some w := e
  obtain rfl := Option.some.inj e
  unfold decodeWord
  rw [show bf (0x20#6 ++ 0x18#8 ++ r ++ a ++ b : Word) 26 6 = 0x20#6 by
    simp (disch := decide) only [bf_append_high, bf_append_low, bf_full, Nat.reduceSub]]
  change decodeSync _ = _
  simp (disch := decide) only [decodeSync, bf_append_high, bf_append_low, bf_full, Nat.reduceSub, Nat.sub_self]
  try rfl

theorem barArrive (s : BitVec 3) (r : BitVec 4) (a : BitVec 7) : Statement (.barArrive s r a) := by
  intro hc ir w e
  have e : some (0x20#6 ++ 0x4#5 ++ s ++ r ++ a ++ 0x0#7) = some w := e
  obtain rfl := Option.some.inj e
  unfold decodeWord
  rw [show bf (0x20#6 ++ 0x4#5 ++ s ++ r ++ a ++ 0x0#7 : Word) 26 6 = 0x20#6 by
    simp (disch := decide) only [bf_append_high, bf_append_low, bf_full, Nat.reduceSub]]
  change decodeSync _ = _
  simp (disch := decide) only [decodeSync, bf_append_high, bf_append_low, bf_full, Nat.reduceSub, Nat.sub_self]
  try rfl

theorem barExpect (r : BitVec 4) (a : BitVec 7) : Statement (.barExpect r a) := by
  intro hc ir w e
  have e : some (0x20#6 ++ 0x28#8 ++ r ++ a ++ 0x0#7) = some w := e
  obtain rfl := Option.some.inj e
  unfold decodeWord
  rw [show bf (0x20#6 ++ 0x28#8 ++ r ++ a ++ 0x0#7 : Word) 26 6 = 0x20#6 by
    simp (disch := decide) only [bf_append_high, bf_append_low, bf_full, Nat.reduceSub]]
  change decodeSync _ = _
  simp (disch := decide) only [decodeSync, bf_append_high, bf_append_low, bf_full, Nat.reduceSub, Nat.sub_self]
  try rfl

theorem barWait (s : BitVec 3) (r : BitVec 4) (a : BitVec 7) : Statement (.barWait s r a) := by
  intro hc ir w e
  have e : some (0x20#6 ++ 0x6#5 ++ s ++ r ++ a ++ 0x0#7) = some w := e
  obtain rfl := Option.some.inj e
  unfold decodeWord
  rw [show bf (0x20#6 ++ 0x6#5 ++ s ++ r ++ a ++ 0x0#7 : Word) 26 6 = 0x20#6 by
    simp (disch := decide) only [bf_append_high, bf_append_low, bf_full, Nat.reduceSub]]
  change decodeSync _ = _
  simp (disch := decide) only [decodeSync, bf_append_high, bf_append_low, bf_full, Nat.reduceSub, Nat.sub_self]
  try rfl

theorem barSync (s : BitVec 3) (r : BitVec 4) (a : BitVec 7) : Statement (.barSync s r a) := by
  intro hc ir w e
  have e : some (0x20#6 ++ 0x7#5 ++ s ++ r ++ a ++ 0x0#7) = some w := e
  obtain rfl := Option.some.inj e
  unfold decodeWord
  rw [show bf (0x20#6 ++ 0x7#5 ++ s ++ r ++ a ++ 0x0#7 : Word) 26 6 = 0x20#6 by
    simp (disch := decide) only [bf_append_high, bf_append_low, bf_full, Nat.reduceSub]]
  change decodeSync _ = _
  simp (disch := decide) only [decodeSync, bf_append_high, bf_append_low, bf_full, Nat.reduceSub, Nat.sub_self]
  try rfl

theorem barTest (s : BitVec 3) (r : BitVec 4) (a : BitVec 7) (p : BitVec 4) : Statement (.barTest s r a p) := by
  intro hc ir w e
  have e : some (0x20#6 ++ 0x8#5 ++ s ++ r ++ a ++ 0x0#3 ++ p) = some w := e
  obtain rfl := Option.some.inj e
  unfold decodeWord
  rw [show bf (0x20#6 ++ 0x8#5 ++ s ++ r ++ a ++ 0x0#3 ++ p : Word) 26 6 = 0x20#6 by
    simp (disch := decide) only [bf_append_high, bf_append_low, bf_full, Nat.reduceSub]]
  change decodeSync _ = _
  simp (disch := decide) only [decodeSync, bf_append_high, bf_append_low, bf_full, Nat.reduceSub, Nat.sub_self]
  try rfl

theorem gsync (s : BitVec 3) : Statement (.gsync s) := by
  intro hc ir w e
  have e : some (0x20#6 ++ 0xA#5 ++ s ++ 0x0#18) = some w := e
  obtain rfl := Option.some.inj e
  unfold decodeWord
  rw [show bf (0x20#6 ++ 0xA#5 ++ s ++ 0x0#18 : Word) 26 6 = 0x20#6 by
    simp (disch := decide) only [bf_append_high, bf_append_low, bf_full, Nat.reduceSub]]
  change decodeSync _ = _
  simp (disch := decide) only [decodeSync, bf_append_high, bf_append_low, bf_full, Nat.reduceSub, Nat.sub_self]
  try rfl

theorem wsync (s : BitVec 3) : Statement (.wsync s) := by
  intro hc ir w e
  have e : some (0x20#6 ++ 0xB#5 ++ s ++ 0x0#18) = some w := e
  obtain rfl := Option.some.inj e
  unfold decodeWord
  rw [show bf (0x20#6 ++ 0xB#5 ++ s ++ 0x0#18 : Word) 26 6 = 0x20#6 by
    simp (disch := decide) only [bf_append_high, bf_append_low, bf_full, Nat.reduceSub]]
  change decodeSync _ = _
  simp (disch := decide) only [decodeSync, bf_append_high, bf_append_low, bf_full, Nat.reduceSub, Nat.sub_self]
  try rfl

theorem pref (a : BitVec 7) : Statement (.pref a) := by
  intro hc ir w e
  have e : some (0x20#6 ++ 0x600#12 ++ a ++ 0x0#7) = some w := e
  obtain rfl := Option.some.inj e
  unfold decodeWord
  rw [show bf (0x20#6 ++ 0x600#12 ++ a ++ 0x0#7 : Word) 26 6 = 0x20#6 by
    simp (disch := decide) only [bf_append_high, bf_append_low, bf_full, Nat.reduceSub]]
  change decodeSync _ = _
  simp (disch := decide) only [decodeSync, bf_append_high, bf_append_low, bf_full, Nat.reduceSub, Nat.sub_self]
  try rfl

theorem cinv (a b : BitVec 7) : Statement (.cinv a b) := by
  intro hc ir w e
  have e : some (0x20#6 ++ 0x680#12 ++ a ++ b) = some w := e
  obtain rfl := Option.some.inj e
  unfold decodeWord
  rw [show bf (0x20#6 ++ 0x680#12 ++ a ++ b : Word) 26 6 = 0x20#6 by
    simp (disch := decide) only [bf_append_high, bf_append_low, bf_full, Nat.reduceSub]]
  change decodeSync _ = _
  simp (disch := decide) only [decodeSync, bf_append_high, bf_append_low, bf_full, Nat.reduceSub, Nat.sub_self]
  try rfl

theorem cwb (s : BitVec 3) (a b : BitVec 7) : Statement (.cwb s a b) := by
  intro hc ir w e
  have e : some (0x20#6 ++ 0xE#5 ++ s ++ 0x0#4 ++ a ++ b) = some w := e
  obtain rfl := Option.some.inj e
  unfold decodeWord
  rw [show bf (0x20#6 ++ 0xE#5 ++ s ++ 0x0#4 ++ a ++ b : Word) 26 6 = 0x20#6 by
    simp (disch := decide) only [bf_append_high, bf_append_low, bf_full, Nat.reduceSub]]
  change decodeSync _ = _
  simp (disch := decide) only [decodeSync, bf_append_high, bf_append_low, bf_full, Nat.reduceSub, Nat.sub_self]
  try rfl

theorem icinv (s : BitVec 3) (a b : BitVec 7) : Statement (.icinv s a b) := by
  intro hc ir w e
  have e : some (0x20#6 ++ 0xF#5 ++ s ++ 0x0#4 ++ a ++ b) = some w := e
  obtain rfl := Option.some.inj e
  unfold decodeWord
  rw [show bf (0x20#6 ++ 0xF#5 ++ s ++ 0x0#4 ++ a ++ b : Word) 26 6 = 0x20#6 by
    simp (disch := decide) only [bf_append_high, bf_append_low, bf_full, Nat.reduceSub]]
  change decodeSync _ = _
  simp (disch := decide) only [decodeSync, bf_append_high, bf_append_low, bf_full, Nat.reduceSub, Nat.sub_self]
  try rfl

theorem xst (d a : BitVec 7) (e : BitVec 2) (z : BitVec 3) (o : BitVec 7) : Statement (.xst d a e z o) := by
  intro hc ir w he
  have hw := Option.some.inj (show some (0x21#6 ++ d ++ a ++ e ++ z ++ o) = some w from he)
  clear he
  have m : bf w 26 6 = 0x21#6 := by subst hw; simp (disch := decide) only [bf_append_high, bf_append_low, bf_full, Nat.reduceSub, Nat.sub_self]
  unfold decodeWord
  rw [m]
  change decodeXst _ = _
  have h1 : bf w 19 7 = d := by subst hw; simp (disch := decide) only [bf_append_high, bf_append_low, bf_full, Nat.reduceSub, Nat.sub_self]
  have h2 : bf w 12 7 = a := by subst hw; simp (disch := decide) only [bf_append_high, bf_append_low, bf_full, Nat.reduceSub, Nat.sub_self]
  have h3 : bf w 10 2 = e := by subst hw; simp (disch := decide) only [bf_append_high, bf_append_low, bf_full, Nat.reduceSub, Nat.sub_self]
  have h4 : bf w 7 3 = z := by subst hw; simp (disch := decide) only [bf_append_high, bf_append_low, bf_full, Nat.reduceSub, Nat.sub_self]
  have h5 : bf w 0 7 = o := by subst hw; simp (disch := decide) only [bf_append_high, bf_append_low, bf_full, Nat.reduceSub, Nat.sub_self]
  unfold decodeXst
  rw [h1, h2, h3, h4, h5]

theorem stc32 (d a b : BitVec 7) : Statement (.stc32 d a b) := by
  intro hc ir w e
  have e : some (0x22#6 ++ d ++ a ++ b ++ 0x0#5) = some w := e
  obtain rfl := Option.some.inj e
  unfold decodeWord
  rw [show bf (0x22#6 ++ d ++ a ++ b ++ 0x0#5 : Word) 26 6 = 0x22#6 by
    simp (disch := decide) only [bf_append_high, bf_append_low, bf_full, Nat.reduceSub]]
  change decodeCompress _ = _
  simp (disch := decide) only [decodeCompress, bf_append_high, bf_append_low, bf_full, Nat.reduceSub, Nat.sub_self]
  try rfl

theorem stc64 (d a b : BitVec 7) : Statement (.stc64 d a b) := by
  intro hc ir w e
  have e : some (0x22#6 ++ d ++ a ++ b ++ 0x1#5) = some w := e
  obtain rfl := Option.some.inj e
  unfold decodeWord
  rw [show bf (0x22#6 ++ d ++ a ++ b ++ 0x1#5 : Word) 26 6 = 0x22#6 by
    simp (disch := decide) only [bf_append_high, bf_append_low, bf_full, Nat.reduceSub]]
  change decodeCompress _ = _
  simp (disch := decide) only [decodeCompress, bf_append_high, bf_append_low, bf_full, Nat.reduceSub, Nat.sub_self]
  try rfl

theorem lde32 (d a b : BitVec 7) : Statement (.lde32 d a b) := by
  intro hc ir w e
  have e : some (0x22#6 ++ d ++ a ++ b ++ 0x2#5) = some w := e
  obtain rfl := Option.some.inj e
  unfold decodeWord
  rw [show bf (0x22#6 ++ d ++ a ++ b ++ 0x2#5 : Word) 26 6 = 0x22#6 by
    simp (disch := decide) only [bf_append_high, bf_append_low, bf_full, Nat.reduceSub]]
  change decodeCompress _ = _
  simp (disch := decide) only [decodeCompress, bf_append_high, bf_append_low, bf_full, Nat.reduceSub, Nat.sub_self]
  try rfl

theorem lde64 (d a b : BitVec 7) : Statement (.lde64 d a b) := by
  intro hc ir w e
  have e : some (0x22#6 ++ d ++ a ++ b ++ 0x3#5) = some w := e
  obtain rfl := Option.some.inj e
  unfold decodeWord
  rw [show bf (0x22#6 ++ d ++ a ++ b ++ 0x3#5 : Word) 26 6 = 0x22#6 by
    simp (disch := decide) only [bf_append_high, bf_append_low, bf_full, Nat.reduceSub]]
  change decodeCompress _ = _
  simp (disch := decide) only [decodeCompress, bf_append_high, bf_append_low, bf_full, Nat.reduceSub, Nat.sub_self]
  try rfl

theorem walkset (d a b : BitVec 7) : Statement (.walkset d a b) := by
  intro hc ir w e
  have e : some (0x23#6 ++ d ++ a ++ b ++ 0x0#5) = some w := e
  obtain rfl := Option.some.inj e
  unfold decodeWord
  rw [show bf (0x23#6 ++ d ++ a ++ b ++ 0x0#5 : Word) 26 6 = 0x23#6 by
    simp (disch := decide) only [bf_append_high, bf_append_low, bf_full, Nat.reduceSub]]
  change decodeWalk _ = _
  simp (disch := decide) only [decodeWalk, bf_append_high, bf_append_low, bf_full, Nat.reduceSub, Nat.sub_self]
  try rfl

theorem walkld32 (d a : BitVec 7) : Statement (.walkld32 d a) := by
  intro hc ir w e
  have e : some (0x23#6 ++ d ++ a ++ 0x1#12) = some w := e
  obtain rfl := Option.some.inj e
  unfold decodeWord
  rw [show bf (0x23#6 ++ d ++ a ++ 0x1#12 : Word) 26 6 = 0x23#6 by
    simp (disch := decide) only [bf_append_high, bf_append_low, bf_full, Nat.reduceSub]]
  change decodeWalk _ = _
  simp (disch := decide) only [decodeWalk, bf_append_high, bf_append_low, bf_full, Nat.reduceSub, Nat.sub_self]
  try rfl

theorem walkldRow (d : BitVec 7) : Statement (.walkldRow d) := by
  intro hc ir w e
  have e : some (0x23#6 ++ d ++ 0xE21#19) = some w := e
  obtain rfl := Option.some.inj e
  unfold decodeWord
  rw [show bf (0x23#6 ++ d ++ 0xE21#19 : Word) 26 6 = 0x23#6 by
    simp (disch := decide) only [bf_append_high, bf_append_low, bf_full, Nat.reduceSub]]
  change decodeWalk _ = _
  simp (disch := decide) only [decodeWalk, bf_append_high, bf_append_low, bf_full, Nat.reduceSub, Nat.sub_self]
  try rfl

theorem walkldCol (d : BitVec 7) : Statement (.walkldCol d) := by
  intro hc ir w e
  have e : some (0x23#6 ++ d ++ 0xE61#19) = some w := e
  obtain rfl := Option.some.inj e
  unfold decodeWord
  rw [show bf (0x23#6 ++ d ++ 0xE61#19 : Word) 26 6 = 0x23#6 by
    simp (disch := decide) only [bf_append_high, bf_append_low, bf_full, Nat.reduceSub]]
  change decodeWalk _ = _
  simp (disch := decide) only [decodeWalk, bf_append_high, bf_append_low, bf_full, Nat.reduceSub, Nat.sub_self]
  try rfl

theorem walkld64 (d a : BitVec 7) : Statement (.walkld64 d a) := by
  intro hc ir w e
  have e : some (0x23#6 ++ d ++ a ++ 0x2#12) = some w := e
  obtain rfl := Option.some.inj e
  unfold decodeWord
  rw [show bf (0x23#6 ++ d ++ a ++ 0x2#12 : Word) 26 6 = 0x23#6 by
    simp (disch := decide) only [bf_append_high, bf_append_low, bf_full, Nat.reduceSub]]
  change decodeWalk _ = _
  simp (disch := decide) only [decodeWalk, bf_append_high, bf_append_low, bf_full, Nat.reduceSub, Nat.sub_self]
  try rfl

theorem walkst32 (d a : BitVec 7) : Statement (.walkst32 d a) := by
  intro hc ir w e
  have e : some (0x23#6 ++ d ++ a ++ 0x3#12) = some w := e
  obtain rfl := Option.some.inj e
  unfold decodeWord
  rw [show bf (0x23#6 ++ d ++ a ++ 0x3#12 : Word) 26 6 = 0x23#6 by
    simp (disch := decide) only [bf_append_high, bf_append_low, bf_full, Nat.reduceSub]]
  change decodeWalk _ = _
  simp (disch := decide) only [decodeWalk, bf_append_high, bf_append_low, bf_full, Nat.reduceSub, Nat.sub_self]
  try rfl

theorem walkst64 (d a : BitVec 7) : Statement (.walkst64 d a) := by
  intro hc ir w e
  have e : some (0x23#6 ++ d ++ a ++ 0x4#12) = some w := e
  obtain rfl := Option.some.inj e
  unfold decodeWord
  rw [show bf (0x23#6 ++ d ++ a ++ 0x4#12 : Word) 26 6 = 0x23#6 by
    simp (disch := decide) only [bf_append_high, bf_append_low, bf_full, Nat.reduceSub]]
  change decodeWalk _ = _
  simp (disch := decide) only [decodeWalk, bf_append_high, bf_append_low, bf_full, Nat.reduceSub, Nat.sub_self]
  try rfl

theorem walknext (d : BitVec 7) : Statement (.walknext d) := by
  intro hc ir w e
  have e : some (0x23#6 ++ d ++ 0x5#19) = some w := e
  obtain rfl := Option.some.inj e
  unfold decodeWord
  rw [show bf (0x23#6 ++ d ++ 0x5#19 : Word) 26 6 = 0x23#6 by
    simp (disch := decide) only [bf_append_high, bf_append_low, bf_full, Nat.reduceSub]]
  change decodeWalk _ = _
  simp (disch := decide) only [decodeWalk, bf_append_high, bf_append_low, bf_full, Nat.reduceSub, Nat.sub_self]
  try rfl

theorem mma (a b : BitVec 5) (c g : BitVec 3) (r : BitVec 4) (m : BitVec 6) : Statement (.mma a b c g r m) := by
  intro hc ir w e
  have e : some (0x24#6 ++ a ++ b ++ c ++ g ++ r ++ m) = some w := e
  obtain rfl := Option.some.inj e
  unfold decodeWord
  rw [show bf (0x24#6 ++ a ++ b ++ c ++ g ++ r ++ m : Word) 26 6 = 0x24#6 by
    simp (disch := decide) only [bf_append_high, bf_append_low, bf_full, Nat.reduceSub]]
  change decodeMma _ = _
  simp (disch := decide) only [decodeMma, bf_append_high, bf_append_low, bf_full, Nat.reduceSub, Nat.sub_self]
  try rfl

theorem mtrans (a b : BitVec 5) (c g : BitVec 3) (r : BitVec 4) : Statement (.mtrans a b c g r) := by
  intro hc ir w e
  have e : some (0x25#6 ++ 0x0#2 ++ a ++ b ++ c ++ g ++ r ++ 0x0#4) = some w := e
  obtain rfl := Option.some.inj e
  unfold decodeWord
  rw [show bf (0x25#6 ++ 0x0#2 ++ a ++ b ++ c ++ g ++ r ++ 0x0#4 : Word) 26 6 = 0x25#6 by
    simp (disch := decide) only [bf_append_high, bf_append_low, bf_full, Nat.reduceSub]]
  change decodeTileOp _ = _
  simp (disch := decide) only [decodeTileOp, bf_append_high, bf_append_low, bf_full, Nat.reduceSub, Nat.sub_self]
  try rfl

theorem mperm (a b : BitVec 5) (c g : BitVec 3) (r : BitVec 4) : Statement (.mperm a b c g r) := by
  intro hc ir w e
  have e : some (0x25#6 ++ 0x1#2 ++ a ++ b ++ c ++ g ++ r ++ 0x0#4) = some w := e
  obtain rfl := Option.some.inj e
  unfold decodeWord
  rw [show bf (0x25#6 ++ 0x1#2 ++ a ++ b ++ c ++ g ++ r ++ 0x0#4 : Word) 26 6 = 0x25#6 by
    simp (disch := decide) only [bf_append_high, bf_append_low, bf_full, Nat.reduceSub]]
  change decodeTileOp _ = _
  simp (disch := decide) only [decodeTileOp, bf_append_high, bf_append_low, bf_full, Nat.reduceSub, Nat.sub_self]
  try rfl

theorem mrsum (a b : BitVec 5) (c g : BitVec 3) (r : BitVec 4) : Statement (.mrsum a b c g r) := by
  intro hc ir w e
  have e : some (0x25#6 ++ 0x2#2 ++ a ++ b ++ c ++ g ++ r ++ 0x0#4) = some w := e
  obtain rfl := Option.some.inj e
  unfold decodeWord
  rw [show bf (0x25#6 ++ 0x2#2 ++ a ++ b ++ c ++ g ++ r ++ 0x0#4 : Word) 26 6 = 0x25#6 by
    simp (disch := decide) only [bf_append_high, bf_append_low, bf_full, Nat.reduceSub]]
  change decodeTileOp _ = _
  simp (disch := decide) only [decodeTileOp, bf_append_high, bf_append_low, bf_full, Nat.reduceSub, Nat.sub_self]
  try rfl

theorem gang (i : BitVec 3) (a : BitVec 7) : Statement (.gang i a) := by
  intro hc ir w e
  have e : some (0x26#6 ++ 0x0#4 ++ i ++ 0x0#5 ++ a ++ 0x0#7) = some w := e
  obtain rfl := Option.some.inj e
  unfold decodeWord
  rw [show bf (0x26#6 ++ 0x0#4 ++ i ++ 0x0#5 ++ a ++ 0x0#7 : Word) 26 6 = 0x26#6 by
    simp (disch := decide) only [bf_append_high, bf_append_low, bf_full, Nat.reduceSub]]
  change decodeMatrixCtl _ = _
  simp (disch := decide) only [decodeMatrixCtl, bf_append_high, bf_append_low, bf_full, Nat.reduceSub, Nat.sub_self]
  try rfl

theorem accld (i : BitVec 3) (s : BitVec 5) : Statement (.accld i s) := by
  intro hc ir w e
  have e : some (0x26#6 ++ 0x1#4 ++ i ++ s ++ 0x0#14) = some w := e
  obtain rfl := Option.some.inj e
  unfold decodeWord
  rw [show bf (0x26#6 ++ 0x1#4 ++ i ++ s ++ 0x0#14 : Word) 26 6 = 0x26#6 by
    simp (disch := decide) only [bf_append_high, bf_append_low, bf_full, Nat.reduceSub]]
  change decodeMatrixCtl _ = _
  simp (disch := decide) only [decodeMatrixCtl, bf_append_high, bf_append_low, bf_full, Nat.reduceSub, Nat.sub_self]
  try rfl

theorem accst (i : BitVec 3) (s : BitVec 5) : Statement (.accst i s) := by
  intro hc ir w e
  have e : some (0x26#6 ++ 0x2#4 ++ i ++ s ++ 0x0#14) = some w := e
  obtain rfl := Option.some.inj e
  unfold decodeWord
  rw [show bf (0x26#6 ++ 0x2#4 ++ i ++ s ++ 0x0#14 : Word) 26 6 = 0x26#6 by
    simp (disch := decide) only [bf_append_high, bf_append_low, bf_full, Nat.reduceSub]]
  change decodeMatrixCtl _ = _
  simp (disch := decide) only [decodeMatrixCtl, bf_append_high, bf_append_low, bf_full, Nat.reduceSub, Nat.sub_self]
  try rfl

theorem acczero (i : BitVec 3) : Statement (.acczero i) := by
  intro hc ir w e
  have e : some (0x26#6 ++ 0x3#4 ++ i ++ 0x0#19) = some w := e
  obtain rfl := Option.some.inj e
  unfold decodeWord
  rw [show bf (0x26#6 ++ 0x3#4 ++ i ++ 0x0#19 : Word) 26 6 = 0x26#6 by
    simp (disch := decide) only [bf_append_high, bf_append_low, bf_full, Nat.reduceSub]]
  change decodeMatrixCtl _ = _
  simp (disch := decide) only [decodeMatrixCtl, bf_append_high, bf_append_low, bf_full, Nat.reduceSub, Nat.sub_self]
  try rfl

theorem mwait (n : BitVec 3) : Statement (.mwait n) := by
  intro hc ir w e
  have e : some (0x26#6 ++ 0x4#4 ++ n ++ 0x0#19) = some w := e
  obtain rfl := Option.some.inj e
  unfold decodeWord
  rw [show bf (0x26#6 ++ 0x4#4 ++ n ++ 0x0#19 : Word) 26 6 = 0x26#6 by
    simp (disch := decide) only [bf_append_high, bf_append_low, bf_full, Nat.reduceSub]]
  change decodeMatrixCtl _ = _
  simp (disch := decide) only [decodeMatrixCtl, bf_append_high, bf_append_low, bf_full, Nat.reduceSub, Nat.sub_self]
  try rfl

theorem mflags (s : BitVec 5) (a : BitVec 7) : Statement (.mflags s a) := by
  intro hc ir w e
  have e : some (0x26#6 ++ 0x28#7 ++ s ++ a ++ 0x0#7) = some w := e
  obtain rfl := Option.some.inj e
  unfold decodeWord
  rw [show bf (0x26#6 ++ 0x28#7 ++ s ++ a ++ 0x0#7 : Word) 26 6 = 0x26#6 by
    simp (disch := decide) only [bf_append_high, bf_append_low, bf_full, Nat.reduceSub]]
  change decodeMatrixCtl _ = _
  simp (disch := decide) only [decodeMatrixCtl, bf_append_high, bf_append_low, bf_full, Nat.reduceSub, Nat.sub_self]
  try rfl

theorem tcfg (s : BitVec 5) : Statement (.tcfg s) := by
  intro hc ir w e
  have e : some (0x27#6 ++ 0x0#6 ++ s ++ 0x0#15) = some w := e
  obtain rfl := Option.some.inj e
  unfold decodeWord
  rw [show bf (0x27#6 ++ 0x0#6 ++ s ++ 0x0#15 : Word) 26 6 = 0x27#6 by
    simp (disch := decide) only [bf_append_high, bf_append_low, bf_full, Nat.reduceSub]]
  change decodeLookup _ = _
  simp (disch := decide) only [decodeLookup, bf_append_high, bf_append_low, bf_full, Nat.reduceSub, Nat.sub_self]
  try rfl

theorem tbuild (t : BitVec 3) (s : BitVec 5) : Statement (.tbuild t s) := by
  intro hc ir w e
  have e : some (0x27#6 ++ 0x1#3 ++ t ++ s ++ 0x0#15) = some w := e
  obtain rfl := Option.some.inj e
  unfold decodeWord
  rw [show bf (0x27#6 ++ 0x1#3 ++ t ++ s ++ 0x0#15 : Word) 26 6 = 0x27#6 by
    simp (disch := decide) only [bf_append_high, bf_append_low, bf_full, Nat.reduceSub]]
  change decodeLookup _ = _
  simp (disch := decide) only [decodeLookup, bf_append_high, bf_append_low, bf_full, Nat.reduceSub, Nat.sub_self]
  try rfl

theorem tlook (s : BitVec 5) (c : BitVec 3) (m : BitVec 8) : Statement (.tlook s c m) := by
  intro hc ir w e
  have e : some (0x27#6 ++ 0x10#6 ++ s ++ c ++ m ++ 0x0#4) = some w := e
  obtain rfl := Option.some.inj e
  unfold decodeWord
  rw [show bf (0x27#6 ++ 0x10#6 ++ s ++ c ++ m ++ 0x0#4 : Word) 26 6 = 0x27#6 by
    simp (disch := decide) only [bf_append_high, bf_append_low, bf_full, Nat.reduceSub]]
  change decodeLookup _ = _
  simp (disch := decide) only [decodeLookup, bf_append_high, bf_append_low, bf_full, Nat.reduceSub, Nat.sub_self]
  try rfl

theorem tinv (m : BitVec 8) : Statement (.tinv m) := by
  intro hc ir w e
  have e : some (0x27#6 ++ 0x1800#14 ++ m ++ 0x0#4) = some w := e
  obtain rfl := Option.some.inj e
  unfold decodeWord
  rw [show bf (0x27#6 ++ 0x1800#14 ++ m ++ 0x0#4 : Word) 26 6 = 0x27#6 by
    simp (disch := decide) only [bf_append_high, bf_append_low, bf_full, Nat.reduceSub]]
  change decodeLookup _ = _
  simp (disch := decide) only [decodeLookup, bf_append_high, bf_append_low, bf_full, Nat.reduceSub, Nat.sub_self]
  try rfl

theorem tstat (t : BitVec 3) (s : BitVec 5) : Statement (.tstat t s) := by
  intro hc ir w e
  have e : some (0x27#6 ++ 0x4#3 ++ t ++ s ++ 0x0#15) = some w := e
  obtain rfl := Option.some.inj e
  unfold decodeWord
  rw [show bf (0x27#6 ++ 0x4#3 ++ t ++ s ++ 0x0#15 : Word) 26 6 = 0x27#6 by
    simp (disch := decide) only [bf_append_high, bf_append_low, bf_full, Nat.reduceSub]]
  change decodeLookup _ = _
  simp (disch := decide) only [decodeLookup, bf_append_high, bf_append_low, bf_full, Nat.reduceSub, Nat.sub_self]
  try rfl

theorem tspill (t : BitVec 3) (s : BitVec 5) : Statement (.tspill t s) := by
  intro hc ir w e
  have e : some (0x27#6 ++ 0x5#3 ++ t ++ s ++ 0x0#15) = some w := e
  obtain rfl := Option.some.inj e
  unfold decodeWord
  rw [show bf (0x27#6 ++ 0x5#3 ++ t ++ s ++ 0x0#15 : Word) 26 6 = 0x27#6 by
    simp (disch := decide) only [bf_append_high, bf_append_low, bf_full, Nat.reduceSub]]
  change decodeLookup _ = _
  simp (disch := decide) only [decodeLookup, bf_append_high, bf_append_low, bf_full, Nat.reduceSub, Nat.sub_self]
  try rfl

theorem tfill (t : BitVec 3) (s : BitVec 5) : Statement (.tfill t s) := by
  intro hc ir w e
  have e : some (0x27#6 ++ 0x6#3 ++ t ++ s ++ 0x0#15) = some w := e
  obtain rfl := Option.some.inj e
  unfold decodeWord
  rw [show bf (0x27#6 ++ 0x6#3 ++ t ++ s ++ 0x0#15 : Word) 26 6 = 0x27#6 by
    simp (disch := decide) only [bf_append_high, bf_append_low, bf_full, Nat.reduceSub]]
  change decodeLookup _ = _
  simp (disch := decide) only [decodeLookup, bf_append_high, bf_append_low, bf_full, Nat.reduceSub, Nat.sub_self]
  try rfl

theorem twaitPoll (s : BitVec 5) : Statement (.twaitPoll s) := by
  intro hc ir w he
  have hw := Option.some.inj (show some (0x27#6 ++ 0x39#6 ++ s ++ 0x0#15) = some w from he)
  clear he
  have m : bf w 26 6 = 0x27#6 := by subst hw; simp (disch := decide) only [bf_append_high, bf_append_low, bf_full, Nat.reduceSub, Nat.sub_self]
  unfold decodeWord
  rw [m]
  change decodeLookup _ = _
  have h1 : bf w 20 3 = 0x1#3 := by subst hw; simp (disch := decide) only [bf_append_high, bf_append_low, bf_full, Nat.reduceSub, Nat.sub_self]; rfl
  have h2 : bf w 15 5 = s := by subst hw; simp (disch := decide) only [bf_append_high, bf_append_low, bf_full, Nat.reduceSub, Nat.sub_self]
  have h3 : bf w 0 15 = 0x0#15 := by subst hw; simp (disch := decide) only [bf_append_high, bf_append_low, bf_full, Nat.reduceSub, Nat.sub_self]
  have h4 : bf w 23 3 = 0x7#3 := by subst hw; simp (disch := decide) only [bf_append_high, bf_append_low, bf_full, Nat.reduceSub, Nat.sub_self]; rfl
  have n1 : ¬ bf w 0 23 = 0x0#23 := by
    intro h
    have h := congrArg (fun x => BitVec.getLsbD x 20) h
    have k := congrArg (fun x => BitVec.getLsbD x 0) h1
    simp [bf] at h k
    rw [h] at k
    exact absurd k (by decide)
  unfold decodeLookup
  rw [h4]
  change (if bf w 0 23 = 0x0#23 then _ else if bf w 20 3 = 0x1#3 ∧ bf w 0 15 = 0x0#15 then _ else _) = _
  rw [if_neg n1, h1, h2, h3]
  rfl

theorem cpy (r : BitVec 4) (s t : BitVec 5) (n : BitVec 1) : Statement (.cpy r s t n) := by
  intro hc ir w e
  have e : some (0x28#6 ++ 0x0#4 ++ r ++ s ++ t ++ 0x0#7 ++ n) = some w := e
  obtain rfl := Option.some.inj e
  unfold decodeWord
  rw [show bf (0x28#6 ++ 0x0#4 ++ r ++ s ++ t ++ 0x0#7 ++ n : Word) 26 6 = 0x28#6 by
    simp (disch := decide) only [bf_append_high, bf_append_low, bf_full, Nat.reduceSub]]
  change decodeEngine _ = _
  simp (disch := decide) only [decodeEngine, bf_append_high, bf_append_low, bf_full, Nat.reduceSub, Nat.sub_self]
  try rfl

theorem lay (r : BitVec 4) (s h : BitVec 5) (n : BitVec 1) : Statement (.lay r s h n) := by
  intro hc ir w e
  have e : some (0x28#6 ++ 0x1#4 ++ r ++ s ++ h ++ 0x0#7 ++ n) = some w := e
  obtain rfl := Option.some.inj e
  unfold decodeWord
  rw [show bf (0x28#6 ++ 0x1#4 ++ r ++ s ++ h ++ 0x0#7 ++ n : Word) 26 6 = 0x28#6 by
    simp (disch := decide) only [bf_append_high, bf_append_low, bf_full, Nat.reduceSub]]
  change decodeEngine _ = _
  simp (disch := decide) only [decodeEngine, bf_append_high, bf_append_low, bf_full, Nat.reduceSub, Nat.sub_self]
  try rfl

theorem layq (s h d : BitVec 5) : Statement (.layq s h d) := by
  intro hc ir w e
  have e : some (0x28#6 ++ 0x20#8 ++ s ++ h ++ 0x0#3 ++ d) = some w := e
  obtain rfl := Option.some.inj e
  unfold decodeWord
  rw [show bf (0x28#6 ++ 0x20#8 ++ s ++ h ++ 0x0#3 ++ d : Word) 26 6 = 0x28#6 by
    simp (disch := decide) only [bf_append_high, bf_append_low, bf_full, Nat.reduceSub]]
  change decodeEngine _ = _
  simp (disch := decide) only [decodeEngine, bf_append_high, bf_append_low, bf_full, Nat.reduceSub, Nat.sub_self]
  try rfl

theorem topk (r : BitVec 4) (s : BitVec 5) (n : BitVec 1) : Statement (.topk r s n) := by
  intro hc ir w e
  have e : some (0x28#6 ++ 0x3#4 ++ r ++ s ++ 0x0#12 ++ n) = some w := e
  obtain rfl := Option.some.inj e
  unfold decodeWord
  rw [show bf (0x28#6 ++ 0x3#4 ++ r ++ s ++ 0x0#12 ++ n : Word) 26 6 = 0x28#6 by
    simp (disch := decide) only [bf_append_high, bf_append_low, bf_full, Nat.reduceSub]]
  change decodeEngine _ = _
  simp (disch := decide) only [decodeEngine, bf_append_high, bf_append_low, bf_full, Nat.reduceSub, Nat.sub_self]
  try rfl

theorem texp (r : BitVec 4) (s : BitVec 5) (n : BitVec 1) : Statement (.texp r s n) := by
  intro hc ir w e
  have e : some (0x28#6 ++ 0x4#4 ++ r ++ s ++ 0x0#12 ++ n) = some w := e
  obtain rfl := Option.some.inj e
  unfold decodeWord
  rw [show bf (0x28#6 ++ 0x4#4 ++ r ++ s ++ 0x0#12 ++ n : Word) 26 6 = 0x28#6 by
    simp (disch := decide) only [bf_append_high, bf_append_low, bf_full, Nat.reduceSub]]
  change decodeEngine _ = _
  simp (disch := decide) only [decodeEngine, bf_append_high, bf_append_low, bf_full, Nat.reduceSub, Nat.sub_self]
  try rfl

theorem coll (r : BitVec 4) (s : BitVec 5) (n : BitVec 1) : Statement (.coll r s n) := by
  intro hc ir w e
  have e : some (0x28#6 ++ 0x5#4 ++ r ++ s ++ 0x0#12 ++ n) = some w := e
  obtain rfl := Option.some.inj e
  unfold decodeWord
  rw [show bf (0x28#6 ++ 0x5#4 ++ r ++ s ++ 0x0#12 ++ n : Word) 26 6 = 0x28#6 by
    simp (disch := decide) only [bf_append_high, bf_append_low, bf_full, Nat.reduceSub]]
  change decodeEngine _ = _
  simp (disch := decide) only [decodeEngine, bf_append_high, bf_append_low, bf_full, Nat.reduceSub, Nat.sub_self]
  try rfl

theorem recInit (a : BitVec 7) (s : BitVec 4) : Statement (.recInit a s) := by
  intro hc ir w e
  have e : some (0x29#6 ++ 0x0#6 ++ a ++ s ++ 0x0#9) = some w := e
  obtain rfl := Option.some.inj e
  unfold decodeWord
  rw [show bf (0x29#6 ++ 0x0#6 ++ a ++ s ++ 0x0#9 : Word) 26 6 = 0x29#6 by
    simp (disch := decide) only [bf_append_high, bf_append_low, bf_full, Nat.reduceSub]]
  change decodeRecords _ = _
  simp (disch := decide) only [decodeRecords, bf_append_high, bf_append_low, bf_full, Nat.reduceSub, Nat.sub_self]
  try rfl

theorem emit (p : BitVec 3) : Statement (.emit p) := by
  intro hc ir w e
  have e : some (0x29#6 ++ 0x1#3 ++ p ++ 0x0#20) = some w := e
  obtain rfl := Option.some.inj e
  unfold decodeWord
  rw [show bf (0x29#6 ++ 0x1#3 ++ p ++ 0x0#20 : Word) 26 6 = 0x29#6 by
    simp (disch := decide) only [bf_append_high, bf_append_low, bf_full, Nat.reduceSub]]
  change decodeRecords _ = _
  simp (disch := decide) only [decodeRecords, bf_append_high, bf_append_low, bf_full, Nat.reduceSub, Nat.sub_self]
  try rfl

theorem emitq (p : BitVec 3) (q : BitVec 4) : Statement (.emitq p q) := by
  intro hc ir w e
  have e : some (0x29#6 ++ 0x2#3 ++ p ++ 0x0#7 ++ q ++ 0x0#9) = some w := e
  obtain rfl := Option.some.inj e
  unfold decodeWord
  rw [show bf (0x29#6 ++ 0x2#3 ++ p ++ 0x0#7 ++ q ++ 0x0#9 : Word) 26 6 = 0x29#6 by
    simp (disch := decide) only [bf_append_high, bf_append_low, bf_full, Nat.reduceSub]]
  change decodeRecords _ = _
  simp (disch := decide) only [decodeRecords, bf_append_high, bf_append_low, bf_full, Nat.reduceSub, Nat.sub_self]
  try rfl

theorem eport (p : BitVec 3) : Statement (.eport p) := by
  intro hc ir w e
  have e : some (0x29#6 ++ 0x3#3 ++ p ++ 0x0#20) = some w := e
  obtain rfl := Option.some.inj e
  unfold decodeWord
  rw [show bf (0x29#6 ++ 0x3#3 ++ p ++ 0x0#20 : Word) 26 6 = 0x29#6 by
    simp (disch := decide) only [bf_append_high, bf_append_low, bf_full, Nat.reduceSub]]
  change decodeRecords _ = _
  simp (disch := decide) only [decodeRecords, bf_append_high, bf_append_low, bf_full, Nat.reduceSub, Nat.sub_self]
  try rfl

theorem nop : Statement .nop := by
  intro hc ir w e
  have e : some (0xF#6 ++ 0x0#26) = some w := e
  obtain rfl := Option.some.inj e
  unfold decodeWord
  rw [show bf (0xF#6 ++ 0x0#26 : Word) 26 6 = 0xF#6 by
    simp (disch := decide) only [bf_append_high, bf_append_low, bf_full, Nat.reduceSub]]
  change decodeControl _ = _
  simp (disch := decide) only [decodeControl, bf_append_high, bf_append_low, bf_full, Nat.reduceSub, Nat.sub_self]
  try rfl

theorem exit : Statement .exit := by
  intro hc ir w e
  have e : some (0xF#6 ++ 0x3#26) = some w := e
  obtain rfl := Option.some.inj e
  unfold decodeWord
  rw [show bf (0xF#6 ++ 0x3#26 : Word) 26 6 = 0xF#6 by
    simp (disch := decide) only [bf_append_high, bf_append_low, bf_full, Nat.reduceSub]]
  change decodeControl _ = _
  simp (disch := decide) only [decodeControl, bf_append_high, bf_append_low, bf_full, Nat.reduceSub, Nat.sub_self]
  try rfl

theorem yieldTurn : Statement .yieldTurn := by
  intro hc ir w e
  have e : some (0xF#6 ++ 0x4#26) = some w := e
  obtain rfl := Option.some.inj e
  unfold decodeWord
  rw [show bf (0xF#6 ++ 0x4#26 : Word) 26 6 = 0xF#6 by
    simp (disch := decide) only [bf_append_high, bf_append_low, bf_full, Nat.reduceSub]]
  change decodeControl _ = _
  simp (disch := decide) only [decodeControl, bf_append_high, bf_append_low, bf_full, Nat.reduceSub, Nat.sub_self]
  try rfl

theorem mark : Statement .mark := by
  intro hc ir w e
  have e : some (0x12#6 ++ 0x0#6 ++ bf ir 0 20) = some w := e
  obtain rfl := Option.some.inj e
  unfold decodeWord
  rw [show bf (0x12#6 ++ 0x0#6 ++ bf ir 0 20 : Word) 26 6 = 0x12#6 by
    simp (disch := decide) only [bf_append_high, bf_append_low, bf_full, Nat.reduceSub]]
  change decodeMark _ = _
  simp (disch := decide) only [decodeMark, bf_append_high, bf_append_low, bf_full, Nat.reduceSub, Nat.sub_self]
  try rfl

theorem trap : Statement .trap := by
  intro hc ir w e
  have e : some (0x12#6 ++ 0x10#6 ++ bf ir 0 20) = some w := e
  obtain rfl := Option.some.inj e
  unfold decodeWord
  rw [show bf (0x12#6 ++ 0x10#6 ++ bf ir 0 20 : Word) 26 6 = 0x12#6 by
    simp (disch := decide) only [bf_append_high, bf_append_low, bf_full, Nat.reduceSub]]
  change decodeMark _ = _
  simp (disch := decide) only [decodeMark, bf_append_high, bf_append_low, bf_full, Nat.reduceSub, Nat.sub_self]
  try rfl

theorem brk : Statement .brk := by
  intro hc ir w e
  have e : some (0x12#6 ++ 0x20#6 ++ bf ir 0 20) = some w := e
  obtain rfl := Option.some.inj e
  unfold decodeWord
  rw [show bf (0x12#6 ++ 0x20#6 ++ bf ir 0 20 : Word) 26 6 = 0x12#6 by
    simp (disch := decide) only [bf_append_high, bf_append_low, bf_full, Nat.reduceSub]]
  change decodeMark _ = _
  simp (disch := decide) only [decodeMark, bf_append_high, bf_append_low, bf_full, Nat.reduceSub, Nat.sub_self]
  try rfl

theorem barSwap : Statement .barSwap := by
  intro hc ir w e
  have e : some (0x20#6 ++ 0x1200000#26) = some w := e
  obtain rfl := Option.some.inj e
  unfold decodeWord
  rw [show bf (0x20#6 ++ 0x1200000#26 : Word) 26 6 = 0x20#6 by
    simp (disch := decide) only [bf_append_high, bf_append_low, bf_full, Nat.reduceSub]]
  change decodeSync _ = _
  simp (disch := decide) only [decodeSync, bf_append_high, bf_append_low, bf_full, Nat.reduceSub, Nat.sub_self]
  try rfl

theorem twait : Statement .twait := by
  intro hc ir w e
  have e : some (0x27#6 ++ 0x3800000#26) = some w := e
  obtain rfl := Option.some.inj e
  unfold decodeWord
  rw [show bf (0x27#6 ++ 0x3800000#26 : Word) 26 6 = 0x27#6 by
    simp (disch := decide) only [bf_append_high, bf_append_low, bf_full, Nat.reduceSub]]
  change decodeLookup _ = _
  simp (disch := decide) only [decodeLookup, bf_append_high, bf_append_low, bf_full, Nat.reduceSub, Nat.sub_self]
  try rfl

theorem cwait : Statement .cwait := by
  intro hc ir w e
  have e : some (0x28#6 ++ 0x18000#18 ++ bf ir 0 8) = some w := e
  obtain rfl := Option.some.inj e
  unfold decodeWord
  rw [show bf (0x28#6 ++ 0x18000#18 ++ bf ir 0 8 : Word) 26 6 = 0x28#6 by
    simp (disch := decide) only [bf_append_high, bf_append_low, bf_full, Nat.reduceSub]]
  change decodeEngine _ = _
  simp (disch := decide) only [decodeEngine, bf_append_high, bf_append_low, bf_full, Nat.reduceSub, Nat.sub_self]
  try rfl

theorem prefixWord : Statement .prefixWord := by
  intro hc ir w e
  have e : some (0x3E#6 ++ bf ir 22 4 ++ bf ir 21 1 ++ bf ir 20 1 ++ bf ir 17 3 ++ bf ir 15 2 ++ bf ir 8 7 ++ 0x0#8) = some w := e
  obtain rfl := Option.some.inj e
  unfold decodeWord
  rw [show bf (0x3E#6 ++ bf ir 22 4 ++ bf ir 21 1 ++ bf ir 20 1 ++ bf ir 17 3 ++ bf ir 15 2 ++ bf ir 8 7 ++ 0x0#8 : Word) 26 6 = 0x3E#6 by
    simp (disch := decide) only [bf_append_high, bf_append_low, bf_full, Nat.reduceSub]]
  change decodePrefix _ = _
  simp (disch := decide) only [decodePrefix, bf_append_high, bf_append_low, bf_full, Nat.reduceSub, Nat.sub_self]
  try rfl

theorem wideHint : Statement .wideHint := by
  intro hc ir w e
  have e : some (0x3F#6 ++ 0x1#1 ++ bf ir 0 25) = some w := e
  obtain rfl := Option.some.inj e
  unfold decodeWord
  rw [show bf (0x3F#6 ++ 0x1#1 ++ bf ir 0 25 : Word) 26 6 = 0x3F#6 by
    simp (disch := decide) only [bf_append_high, bf_append_low, bf_full, Nat.reduceSub]]
  change decodeHint _ = _
  simp (disch := decide) only [decodeHint, bf_append_high, bf_append_low, bf_full, Nat.reduceSub, Nat.sub_self]
  try rfl

theorem modifierHint : Statement .modifierHint := by
  intro hc ir w e
  have e : some (0x3F#6 ++ 0x2#3 ++ bf ir 20 3 ++ bf ir 18 2 ++ bf ir 16 2 ++ bf ir 15 1 ++ 0x0#15) = some w := e
  obtain rfl := Option.some.inj e
  unfold decodeWord
  rw [show bf (0x3F#6 ++ 0x2#3 ++ bf ir 20 3 ++ bf ir 18 2 ++ bf ir 16 2 ++ bf ir 15 1 ++ 0x0#15 : Word) 26 6 = 0x3F#6 by
    simp (disch := decide) only [bf_append_high, bf_append_low, bf_full, Nat.reduceSub]]
  change decodeHint _ = _
  simp (disch := decide) only [decodeHint, bf_append_high, bf_append_low, bf_full, Nat.reduceSub, Nat.sub_self]
  try rfl

theorem stallHint : Statement .stallHint := by
  intro hc ir w he
  have hw := Option.some.inj (show some (0x3F#6 ++ 0x0#2 ++ bf ir 0 24) = some w from he)
  clear he
  have m : bf w 26 6 = 0x3F#6 := by subst hw; simp (disch := decide) only [bf_append_high, bf_append_low, bf_full, Nat.reduceSub, Nat.sub_self]
  unfold decodeWord
  rw [m]
  change decodeHint _ = _
  have h1 : bf w 24 2 = 0x0#2 := by subst hw; simp (disch := decide) only [bf_append_high, bf_append_low, bf_full, Nat.reduceSub, Nat.sub_self]
  have n1 : ¬ bf w 25 1 = 0x1#1 := by
    intro h
    have h := congrArg (fun x => BitVec.getLsbD x 0) h
    have k := congrArg (fun x => BitVec.getLsbD x 1) h1
    simp [bf] at h k
    rw [h] at k
    exact absurd k (by decide)
  have n2 : ¬ bf w 23 3 = 0x2#3 := by
    intro h
    have h := congrArg (fun x => BitVec.getLsbD x 1) h
    have k := congrArg (fun x => BitVec.getLsbD x 0) h1
    simp [bf] at h k
    rw [h] at k
    exact absurd k (by decide)
  unfold decodeHint
  rw [if_neg n1, if_neg (fun h => n2 h.1), h1]
  rfl

theorem zeroWord : Statement .zeroWord := by
  intro hc ir w e
  have e : some (0x0#6 ++ 0x0#26) = some w := e
  obtain rfl := Option.some.inj e
  unfold decodeWord
  rw [show bf (0x0#6 ++ 0x0#26 : Word) 26 6 = 0x0#6 by
    simp (disch := decide) only [bf_append_high, bf_append_low, bf_full, Nat.reduceSub]]
  simp (disch := decide) only [bf_append_high, bf_append_low, bf_full, Nat.reduceSub, Nat.sub_self]
  try rfl

theorem resultArrival : Statement .resultArrival := by
  intro hc ir w he
  exact nomatch (show (none : Option Word) = some w from he)

theorem fuseTimeout : Statement .fuseTimeout := by
  intro hc ir w he
  exact nomatch (show (none : Option Word) = some w from he)

theorem matrixCommandComplete : Statement .matrixCommandComplete := by
  intro hc ir w he
  exact nomatch (show (none : Option Word) = some w from he)

theorem lookupCommandComplete : Statement .lookupCommandComplete := by
  intro hc ir w he
  exact nomatch (show (none : Option Word) = some w from he)

theorem copyCommandComplete : Statement .copyCommandComplete := by
  intro hc ir w he
  exact nomatch (show (none : Option Word) = some w from he)

theorem tambourCommandComplete : Statement .tambourCommandComplete := by
  intro hc ir w he
  exact nomatch (show (none : Option Word) = some w from he)

theorem engineTranslationFault : Statement .engineTranslationFault := by
  intro hc ir w he
  exact nomatch (show (none : Option Word) = some w from he)

theorem collComplete : Statement .collComplete := by
  intro hc ir w he
  exact nomatch (show (none : Option Word) = some w from he)

theorem peerHaltedNotice : Statement .peerHaltedNotice := by
  intro hc ir w he
  exact nomatch (show (none : Option Word) = some w from he)

theorem peerResumedNotice : Statement .peerResumedNotice := by
  intro hc ir w he
  exact nomatch (show (none : Option Word) = some w from he)

theorem collPeerLost : Statement .collPeerLost := by
  intro hc ir w he
  exact nomatch (show (none : Option Word) = some w from he)

theorem launchPlacement : Statement .launchPlacement := by
  intro hc ir w he
  exact nomatch (show (none : Option Word) = some w from he)

theorem gatherTimerExpiry : Statement .gatherTimerExpiry := by
  intro hc ir w he
  exact nomatch (show (none : Option Word) = some w from he)

theorem recordAdmission : Statement .recordAdmission := by
  intro hc ir w he
  exact nomatch (show (none : Option Word) = some w from he)

theorem graphEnd : Statement .graphEnd := by
  intro hc ir w he
  exact nomatch (show (none : Option Word) = some w from he)

theorem preEmption : Statement .preEmption := by
  intro hc ir w he
  exact nomatch (show (none : Option Word) = some w from he)

theorem graphStall : Statement .graphStall := by
  intro hc ir w he
  exact nomatch (show (none : Option Word) = some w from he)

theorem issueAging : Statement .issueAging := by
  intro hc ir w he
  exact nomatch (show (none : Option Word) = some w from he)

theorem serviceResume : Statement .serviceResume := by
  intro hc ir w he
  exact nomatch (show (none : Option Word) = some w from he)

theorem serviceKillGroup : Statement .serviceKillGroup := by
  intro hc ir w he
  exact nomatch (show (none : Option Word) = some w from he)

theorem haltRequest : Statement .haltRequest := by
  intro hc ir w he
  exact nomatch (show (none : Option Word) = some w from he)

theorem hardwareBreakpoint : Statement .hardwareBreakpoint := by
  intro hc ir w he
  exact nomatch (show (none : Option Word) = some w from he)

theorem dbgdataRead : Statement .dbgdataRead := by
  intro hc ir w he
  exact nomatch (show (none : Option Word) = some w from he)

theorem dbgdataWrite : Statement .dbgdataWrite := by
  intro hc ir w he
  exact nomatch (show (none : Option Word) = some w from he)

theorem sampleLatch : Statement .sampleLatch := by
  intro hc ir w he
  exact nomatch (show (none : Option Word) = some w from he)

theorem samplerConfigWrite : Statement .samplerConfigWrite := by
  intro hc ir w he
  exact nomatch (show (none : Option Word) = some w from he)

theorem stoptickWrite : Statement .stoptickWrite := by
  intro hc ir w he
  exact nomatch (show (none : Option Word) = some w from he)

theorem moduleStop : Statement .moduleStop := by
  intro hc ir w he
  exact nomatch (show (none : Option Word) = some w from he)

theorem stopResume : Statement .stopResume := by
  intro hc ir w he
  exact nomatch (show (none : Option Word) = some w from he)

theorem clockModeChange : Statement .clockModeChange := by
  intro hc ir w he
  exact nomatch (show (none : Option Word) = some w from he)

theorem lockLost : Statement .lockLost := by
  intro hc ir w he
  exact nomatch (show (none : Option Word) = some w from he)

theorem lockstClear : Statement .lockstClear := by
  intro hc ir w he
  exact nomatch (show (none : Option Word) = some w from he)

theorem cevtClear : Statement .cevtClear := by
  intro hc ir w he
  exact nomatch (show (none : Option Word) = some w from he)

theorem tickCorrection : Statement .tickCorrection := by
  intro hc ir w he
  exact nomatch (show (none : Option Word) = some w from he)

theorem powerThrottle : Statement .powerThrottle := by
  intro hc ir w he
  exact nomatch (show (none : Option Word) = some w from he)

theorem criticalTemperature : Statement .criticalTemperature := by
  intro hc ir w he
  exact nomatch (show (none : Option Word) = some w from he)

theorem criticalTemperatureTimeout : Statement .criticalTemperatureTimeout := by
  intro hc ir w he
  exact nomatch (show (none : Option Word) = some w from he)

theorem powerOn : Statement .powerOn := by
  intro hc ir w he
  exact nomatch (show (none : Option Word) = some w from he)

theorem bootMeasure : Statement .bootMeasure := by
  intro hc ir w he
  exact nomatch (show (none : Option Word) = some w from he)

theorem bootLoad : Statement .bootLoad := by
  intro hc ir w he
  exact nomatch (show (none : Option Word) = some w from he)

theorem hbmTrainingDone : Statement .hbmTrainingDone := by
  intro hc ir w he
  exact nomatch (show (none : Option Word) = some w from he)

theorem linkTrainingDone : Statement .linkTrainingDone := by
  intro hc ir w he
  exact nomatch (show (none : Option Word) = some w from he)

theorem fabricPortsSettled : Statement .fabricPortsSettled := by
  intro hc ir w he
  exact nomatch (show (none : Option Word) = some w from he)

theorem tailWrite : Statement .tailWrite := by
  intro hc ir w he
  exact nomatch (show (none : Option Word) = some w from he)

theorem launchPacket : Statement .launchPacket := by
  intro hc ir w he
  exact nomatch (show (none : Option Word) = some w from he)

theorem nopPacket : Statement .nopPacket := by
  intro hc ir w he
  exact nomatch (show (none : Option Word) = some w from he)

theorem waitPacket : Statement .waitPacket := by
  intro hc ir w he
  exact nomatch (show (none : Option Word) = some w from he)

theorem waitPacketRecheck : Statement .waitPacketRecheck := by
  intro hc ir w he
  exact nomatch (show (none : Option Word) = some w from he)

theorem signalPacket : Statement .signalPacket := by
  intro hc ir w he
  exact nomatch (show (none : Option Word) = some w from he)

theorem hostApertureAccess : Statement .hostApertureAccess := by
  intro hc ir w he
  exact nomatch (show (none : Option Word) = some w from he)

theorem hostCompletionTimeout : Statement .hostCompletionTimeout := by
  intro hc ir w he
  exact nomatch (show (none : Option Word) = some w from he)

theorem ctxCreate : Statement .ctxCreate := by
  intro hc ir w he
  exact nomatch (show (none : Option Word) = some w from he)

theorem ctxDestroy : Statement .ctxDestroy := by
  intro hc ir w he
  exact nomatch (show (none : Option Word) = some w from he)

theorem queueSet : Statement .queueSet := by
  intro hc ir w he
  exact nomatch (show (none : Option Word) = some w from he)

theorem inval : Statement .inval := by
  intro hc ir w he
  exact nomatch (show (none : Option Word) = some w from he)

theorem routeSet : Statement .routeSet := by
  intro hc ir w he
  exact nomatch (show (none : Option Word) = some w from he)

theorem portDisable : Statement .portDisable := by
  intro hc ir w he
  exact nomatch (show (none : Option Word) = some w from he)

theorem portEnable : Statement .portEnable := by
  intro hc ir w he
  exact nomatch (show (none : Option Word) = some w from he)

theorem portClearFailed : Statement .portClearFailed := by
  intro hc ir w he
  exact nomatch (show (none : Option Word) = some w from he)

theorem pkgSet : Statement .pkgSet := by
  intro hc ir w he
  exact nomatch (show (none : Option Word) = some w from he)

theorem cxlSet : Statement .cxlSet := by
  intro hc ir w he
  exact nomatch (show (none : Option Word) = some w from he)

theorem powerSet : Statement .powerSet := by
  intro hc ir w he
  exact nomatch (show (none : Option Word) = some w from he)

theorem mrExtend : Statement .mrExtend := by
  intro hc ir w he
  exact nomatch (show (none : Option Word) = some w from he)

theorem attest : Statement .attest := by
  intro hc ir w he
  exact nomatch (show (none : Option Word) = some w from he)

theorem certGet : Statement .certGet := by
  intro hc ir w he
  exact nomatch (show (none : Option Word) = some w from he)

theorem imageLoad : Statement .imageLoad := by
  intro hc ir w he
  exact nomatch (show (none : Option Word) = some w from he)

theorem imageWrite : Statement .imageWrite := by
  intro hc ir w he
  exact nomatch (show (none : Option Word) = some w from he)

theorem reset : Statement .reset := by
  intro hc ir w he
  exact nomatch (show (none : Option Word) = some w from he)

theorem attreqWrite : Statement .attreqWrite := by
  intro hc ir w he
  exact nomatch (show (none : Option Word) = some w from he)

theorem attestationReportDone : Statement .attestationReportDone := by
  intro hc ir w he
  exact nomatch (show (none : Option Word) = some w from he)

theorem gangLaunch : Statement .gangLaunch := by
  intro hc ir w he
  exact nomatch (show (none : Option Word) = some w from he)

theorem gangPrepare : Statement .gangPrepare := by
  intro hc ir w he
  exact nomatch (show (none : Option Word) = some w from he)

theorem gangAck : Statement .gangAck := by
  intro hc ir w he
  exact nomatch (show (none : Option Word) = some w from he)

theorem gangDecision : Statement .gangDecision := by
  intro hc ir w he
  exact nomatch (show (none : Option Word) = some w from he)

theorem gangDecisionRepeat : Statement .gangDecisionRepeat := by
  intro hc ir w he
  exact nomatch (show (none : Option Word) = some w from he)

theorem gangCommit : Statement .gangCommit := by
  intro hc ir w he
  exact nomatch (show (none : Option Word) = some w from he)

theorem gangAbort : Statement .gangAbort := by
  intro hc ir w he
  exact nomatch (show (none : Option Word) = some w from he)

theorem remoteAccessArrival : Statement .remoteAccessArrival := by
  intro hc ir w he
  exact nomatch (show (none : Option Word) = some w from he)

theorem remoteRecordArrival : Statement .remoteRecordArrival := by
  intro hc ir w he
  exact nomatch (show (none : Option Word) = some w from he)

theorem remoteRecordTimeout : Statement .remoteRecordTimeout := by
  intro hc ir w he
  exact nomatch (show (none : Option Word) = some w from he)

theorem creditReturn : Statement .creditReturn := by
  intro hc ir w he
  exact nomatch (show (none : Option Word) = some w from he)

theorem unsupportedRequest : Statement .unsupportedRequest := by
  intro hc ir w he
  exact nomatch (show (none : Option Word) = some w from he)

theorem linkPartnerDetected : Statement .linkPartnerDetected := by
  intro hc ir w he
  exact nomatch (show (none : Option Word) = some w from he)

theorem linkDetectTimeout : Statement .linkDetectTimeout := by
  intro hc ir w he
  exact nomatch (show (none : Option Word) = some w from he)

theorem linkTrainDone : Statement .linkTrainDone := by
  intro hc ir w he
  exact nomatch (show (none : Option Word) = some w from he)

theorem linkVerifyDone : Statement .linkVerifyDone := by
  intro hc ir w he
  exact nomatch (show (none : Option Word) = some w from he)

theorem linkRetrain : Statement .linkRetrain := by
  intro hc ir w he
  exact nomatch (show (none : Option Word) = some w from he)

theorem l1Eviction : Statement .l1Eviction := by
  intro hc ir w he
  exact nomatch (show (none : Option Word) = some w from he)

theorem writeThroughAck : Statement .writeThroughAck := by
  intro hc ir w he
  exact nomatch (show (none : Option Word) = some w from he)

theorem sliceMapChange : Statement .sliceMapChange := by
  intro hc ir w he
  exact nomatch (show (none : Option Word) = some w from he)

theorem bucketHandover : Statement .bucketHandover := by
  intro hc ir w he
  exact nomatch (show (none : Option Word) = some w from he)

theorem generationRefusal : Statement .generationRefusal := by
  intro hc ir w he
  exact nomatch (show (none : Option Word) = some w from he)

theorem patrolScrub : Statement .patrolScrub := by
  intro hc ir w he
  exact nomatch (show (none : Option Word) = some w from he)

theorem lazyWritebackDeadline : Statement .lazyWritebackDeadline := by
  intro hc ir w he
  exact nomatch (show (none : Option Word) = some w from he)

theorem registerWrite : Statement .registerWrite := by
  intro hc ir w he
  exact nomatch (show (none : Option Word) = some w from he)

theorem undefinedInstruction : Statement .undefinedInstruction := by
  intro hc ir w he
  exact nomatch (show (none : Option Word) = some w from he)

theorem copyBytesLanded : Statement .copyBytesLanded := by
  intro hc ir w he
  exact nomatch (show (none : Option Word) = some w from he)

theorem reservedTypePacket : Statement .reservedTypePacket := by
  intro hc ir w he
  exact nomatch (show (none : Option Word) = some w from he)

theorem powerLoss : Statement .powerLoss := by
  intro hc ir w he
  exact nomatch (show (none : Option Word) = some w from he)

theorem remoteRecordRefused : Statement .remoteRecordRefused := by
  intro hc ir w he
  exact nomatch (show (none : Option Word) = some w from he)

theorem unreachableRecordTimeout : Statement .unreachableRecordTimeout := by
  intro hc ir w he
  exact nomatch (show (none : Option Word) = some w from he)

end Sys2Proof.Laws.RoundTrip
end

