-- ==== Sys2Proof/Certificates/Slice0/Obligations.lean ====
section
/-! DEFINITION. The statements for the provers: what the numbered rules of the spec say of instructions, events and the module. -/

open Sys2Proof Sys2Proof.Machine Sys2Proof.Rules

/-! ### Reset, decoding, issuing -/

/-- R387 and R390: right after reset the module is in ROM (BOOTST 0, no failure code), every measurement register reads as zero,
every scale-up port is Down (R350) and the tick is 0 (R393); both memories are in canonical form. -/
def Obligations.ResetState : Prop :=
  State.reset.bootst = 0 ∧ State.reset.mrs = Vector.replicate 8 0 ∧ State.reset.tick = 0 ∧
  (∀ l ∈ State.reset.links, l.state = .down) ∧ State.reset.links.length = 96 ∧
  State.reset.wgs = [] ∧ State.reset.graphs = [] ∧ State.reset.ctxs = [] ∧ State.reset.queues = [] ∧
  Canonical State.reset

/-- R66, R85, R86: for every major but the reserved ones, words written out from the encoding tables, most of them as the chapters
give them, decode to the instructions they stand for; the all-zero word is an instruction of its own (R88); and words with a
reserved field that is not zero, or of a reserved major, decode to none. -/
def Obligations.DecodedWords : Prop :=
  (∀ p ∈ ([(0x00000000, .zeroWord), (0x04A020A0, .iadd32 20 2 5), (0x08A020A1, .isub64 20 2 5), (0x0C28114B, .bilv 5 1 10),
    (0x10202011, .iaddImm32 4 2 0x11), (0x14A02ABC, .iaddImm64 20 2 0xABC), (0x18A02ABC, .andImm 20 2 0xABC),
    (0x1CA02ABC, .orImm 20 2 0xABC), (0x20A02ABC, .xorImm 20 2 0xABC), (0x24A0222D, .shlImm64 20 2 0x2D),
    (0x283BCDEF, .movi 7 0x3CDEF), (0x2D4CA023, .icmp 5 3 20 2 3), (0x2C481038, .fcmp 1 2 2 3 8), (0x314E7000, .pset 5 3 9 12),
    (0x356FFFFD, .bra 5 1 0xFFFFD), (0x3B000100, .call 12 0 0x100), (0x3C000000, .nop), (0x3C000003, .exit)] : List (Word × Instr)),
    decodeWord p.1 = .ok p.2) ∧
  (∀ p ∈ ([(0x40302A00, .ballot 6 2 0x50), (0x44388201, .fflagsClr 7 8), (0x44305121, .syswrSrg 6 5), (0x49000007, .trap),
    (0x50181040, .fadd 3 1 2), (0x54283088, .f8dot4E4m3 5 3 4), (0x582848B2, .fcvt 5 4 8 11 1), (0x5CA020AB, .isel 20 2 5 5 1),
    (0x60282110, .ld 5 2 0 2 16), (0x643835FF, .st 7 3 1 3 127), (0x68282131, .ldAcq 5 2 0 2 3 1), (0x6CA02AA5, .stRel 20 2 2 5 2 5),
    (0x70302062, .ldx 6 2 3 0 2), (0x74A020B5, .stx 20 2 5 2 5), (0x7A004E21, .atomAdd 0x40 4 0x71 1), (0x7C014042, .aredAdd 20 2 2),
    (0x80608082, .barArm 2 1 2), (0x80E4B880, .barSync 1 2 0x71), (0x84282504, .xst 5 2 1 2 4)] : List (Word × Instr)),
    decodeWord p.1 = .ok p.2) ∧
  (∀ p ∈ ([(0x88A020A0, .stc32 20 2 5), (0x8CA020A0, .walkset 20 2 5), (0x908510C1, .mma 4 5 0 4 3 1),
    (0x9431C8F0, .mtrans 6 7 1 0 15), (0x98002980, .gang 0 0x53), (0x98520000, .accld 2 8), (0x99427900, .mflags 9 0x72),
    (0x9C018000, .tcfg 3), (0x9C820000, .tbuild 0 4), (0x9D030010, .tlook 6 0 1), (0x9D800030, .tinv 3), (0x9F800000, .twait),
    (0xA0051000, .cpy 1 8 16 0), (0xA0488800, .lay 2 4 8 0), (0xA0808802, .layq 4 8 2), (0xA1518000, .coll 4 12 0),
    (0xA400E600, .recInit 7 3), (0xA4A00000, .emit 2), (0xA5900000, .eport 1), (0xF8D48300, .prefixWord), (0xFC000001, .stallHint),
    (0xFD000000, .modifierHint), (0xFE001234, .wideHint)] : List (Word × Instr)), decodeWord p.1 = .ok p.2) ∧
  (∀ w ∈ ([0xF8000001, 0x0400001F, 0x0C000021, 0x3C000007, 0x4C000000, 0xA8000000, 0xF4000000] : List Word),
    ∃ e, decodeWord w = .error e)

/-- R66 to R88: decoding and encoding agree on every canonical instruction, with every operand at every value that its fields
can hold. The events have no encoding. -/
def Obligations.RoundTrip : Prop := ∀ i : Instr, Laws.RoundTrip.Statement i

/-- R88: a word has one meaning: encoding what it decodes to, with the word's own payload, gives the word back, so no bit of a
word is dropped and no reserved field is passed over. -/
def Obligations.OneMeaning : Prop :=
  ∀ (w : Word) (i : Instr), decodeWord w = .ok i → i.canonical = true ∧ encode i w = some w

/-- R10, R11, R66, R88: the threads of an issue fetch the word at their address, and what the step then does is what the decoded
instruction does to them, with the word in hand, where no breakpoint of R375 is met at the first word of a group. A word that decodes
to nothing decodes to the undefined instruction. A thread's instruction group is counted (R381) when the thread goes on from it, once
for all the tries that it had to wait through (DEDUCED: notes/assumptions/17). R11: before and after it the weaves part: two live threads of
one weave and block of lanes stay of one weave exactly when they stand at one word, and nothing else of a thread changes. -/
def Obligations.StepRunsDecoded : Prop :=
  (∀ (s r s1 s2 : State) (x : Workgroup) (ts : List Nat) (th : Thread) (ir : Word) (u : IssueSet) (rest : List Turn),
    s.power = true → s.agenda = .issue u :: rest → r = ({ s with agenda := rest } : State).splitWeaves u.wg u.grp →
    s.issues? = true → r.wg? u.wg = some x → r.weave u = ts →
    (ts.head?.bind fun t => r.thread? ⟨u.wg, u.grp, t⟩) = some th →
    (r.markIssue x.id u.grp ts).fetch x.ctx th.wordPc = (s1, .ok ir) →
    (th.words.count = 0 → beginsGroup (decode ir) = true → s1.breakpointHits x.id u.grp ts = []) →
    s2 = s1.setCounted x.id u.grp ts (fun _ => true) →
    step s = weavesParted u.wg u.grp (s1.countIssue x u.grp ts (decode ir)
      (exec (decode ir) { s2 with ir := ir, cur := some ⟨x.id, u.grp, ts⟩ }))) ∧
  (∀ (s t : State) (x : Workgroup) (g j : Nat) (i : Instr) (y z : Thread), s.thread? ⟨x.id, g, j⟩ = some y →
    t.thread? ⟨x.id, g, j⟩ = some z → z.isLive = true →
    (y.counted = false → z.counted = false → beginsGroup i = true →
      s.countIssue x g [j] i (.next t) = .next (t.countBy x.ctx x.core 1)) ∧
    (z.counted = false → y.counted = true ∨ beginsGroup i = false → s.countIssue x g [j] i (.next t) = .next t) ∧
    (z.counted = true → z.wait = .running ∨ z.wait = .engine →
      s.countIssue x g [j] i (.next t) = .next (t.modThread ⟨x.id, g, j⟩ fun r => { r with counted := y.counted }))) ∧
  (∀ (s : State) (w g : Nat), (∀ o, weavesParted w g o = match o with | .next t => .next (t.splitWeaves w g) | o => o) ∧
    s.splitWeaves w g = s.modGrp w g fun gr => { gr with threads := gr.split.threads }) ∧
  (∀ (gr : Group) (i : Nat) (t : Thread), gr.threads[i]? = some t → ∃ k, gr.split.threads[i]? = some { t with weave := k } ∧
    ∀ (j : Nat) (u : Thread), gr.threads[j]? = some u → t.isLive = true → u.isLive = true → t.weave = u.weave →
      gr.block i = gr.block j → ∃ l, gr.split.threads[j]? = some { u with weave := l } ∧
        (k = l ↔ t.pc = u.pc ∧ t.words = u.words))

/-- R88: an undefined word, and a word whose fields are not legal, is refused by the checks of every thread that executes it:
the trap is the undefined-instruction fault, with the group's PC as fault address. R21: a register number at or above the
group's allotment, in any source or destination of a legal group or in the C field of its prefix, whether or not the lane is
active, is the register-range fault, and the number is its fault address; of several such operands it is the first in the order
D, A, B, C (DEDUCED: notes/assumptions/28). With every number below the allotment the checks are passed, but for the stall check
of R84 in CHECK mode. -/
def Obligations.FormChecks : Prop :=
  (∀ (f : Form) (v : View), f.groupLegal v.t.words = false →
    f.check v = .error { cause := .undefinedInstruction, addr := v.t.pc.setWidth 64 }) ∧
  (∀ (f : Form) (v : View), f.groupLegal v.t.words = true →
    let codes := f.dst?.toList ++ f.srcs ++ (match v.t.words.pre with | some p => if p.cuse = 0 then [] else [p.c] | none => [])
    let out (c : BitVec 7) : Prop := c.toNat < 64 ∧ v.grp.allot ≤ c.toNat
    (∀ (i : Nat) (c : BitVec 7), codes[i]? = some c → out c → (∀ (j : Nat) (k : BitVec 7), j < i → codes[j]? = some k → ¬out k) →
      f.check v = .error { cause := .registerRange, addr := c.setWidth 64 }) ∧
    ((∀ c ∈ codes, ¬out c) → v.t.imode ≠ 2 → f.check v = .ok ())) ∧
  (∀ (d a b : BitVec 7), (instrForm (.iadd32 d a b)).srcs = [a, b] ∧ (instrForm (.iadd32 d a b)).dst? = some d ∧
    (instrForm (.st d a 0 2 0)).srcs = [d, a] ∧ (instrForm (.st d a 0 2 0)).dst? = none)

/-! ### Integer instructions -/

/-- R81, R98 to R105: the arithmetic, minima and maxima, logic, shifts, rotations, immediate forms (with the immediate that
wide-immediate hints extend) and bit instructions of majors 0x01 to 0x04, in every lane of an issue: each writes its
table's value of its operands, and nothing else changes. -/
def Sys2Proof.Rules.IntegerVectorRule : Prop :=
  ∀ d a b i m k q, ∀ r ∈ integers d a b i m k q, r.vectorHolds

/-- R28, R29, R116: an integer instruction with an s-register as destination executes once for its group when every live
thread stands at it: the s-register takes the value, and every live thread proceeds. That the flag of a division by zero is then raised
in every live thread is the model's choice (DEDUCED: notes/assumptions/22). -/
def Sys2Proof.Rules.IntegerScalarRule : Prop := ∀ d a b i m k q, ∀ r ∈ integers d a b i m k q, r.scalarHolds

/-- R103 to R105: what the bit functions are, bit by bit. R105: `bilv` puts bit i of A at bit s·i + o and `bdilv` brings it
back, for a stride s of 1 to 8 and an offset o. -/
def Sys2Proof.Rules.BitFunctionsRule : Prop :=
  ((∀ (w : Nat) (x : BitVec w) (i : Nat), i < w → (bitReverse x).getLsbD i = x.getLsbD (w - 1 - i)) ∧
  (∀ (w : Nat) (x : BitVec w), popCount x = ((List.range w).map fun i => (x.getLsbD i).toNat).sum) ∧
  (∀ (w : Nat) (x : BitVec w) (n : Nat), trailZeros x = n ↔
    n ≤ w ∧ (∀ i, i < n → x.getLsbD i = false) ∧ (n < w → x.getLsbD n = true)) ∧
  (∀ (w : Nat) (x : BitVec w) (n : Nat), leadZeros x = n ↔
    n ≤ w ∧ (∀ i, w - n ≤ i → i < w → x.getLsbD i = false) ∧ (n < w → x.getLsbD (w - 1 - n) = true)) ∧
  (∀ (a c : Reg) (i : Nat), i < 64 →
    (extractField a c).getLsbD i = (decide (i < fieldLen c) && a.getLsbD (fieldPos c + i))) ∧
  (∀ (a b c : Reg) (i : Nat), i < 64 → (insertField a b c).getLsbD i =
    if fieldPos c ≤ i ∧ i < fieldPos c + fieldLen c then a.getLsbD (i - fieldPos c) else b.getLsbD i) ∧
  (∀ (a c : Reg) (i : Nat), i < 64 → (extractSigned a c).getLsbD i =
    if fieldLen c = 0 then false else a.getLsbD (fieldPos c + min i (fieldLen c - 1))) ∧
  (∀ (a b : Reg) (j : Nat), j < 8 → byteOf (permuteBytes a b) j =
    if (bf b (4 * j) 4).toNat < 8 then byteOf a (bf b (4 * j) 4).toNat else 0)) ∧
  (∀ (a b : Reg) (s o : Nat), (bf b 0 4).toNat = s → (bf b 8 3).toNat = o → 1 ≤ s → s ≤ 8 →
    (∀ i, s * i + o ≤ 63 → (interleave a b).getLsbD (s * i + o) = a.getLsbD i) ∧
    (∀ j, j < 64 → (∀ i, j ≠ s * i + o) → (interleave a b).getLsbD j = false) ∧
    (∀ i, s * i + o ≤ 63 → (deinterleave a b).getLsbD i = a.getLsbD (s * i + o)) ∧
    (∀ i, i < 64 → 63 < s * i + o → (deinterleave a b).getLsbD i = false))

/-- R104: `bfx` and `bfi` on the field that their control word names, and R105: `bilv` and `bdilv` with the stride and offset that
theirs names, whatever its other bits hold: what each writes to its destination in an active lane, bit by bit. -/
def Sys2Proof.Rules.BitControlsRule : Prop :=
  (∀ (s : State) (w g : Nat) (v : View) (d a b : BitVec 7), isScalarDst d = false → v.t.maskTrue v.t.words = true →
    let writes (i : Instr) (p : Nat → Bool) : Prop := ∃ r : Reg, exec i s =
      .next (s.setThread ⟨w, g, v.gtid⟩ (v.t.writeDest d (some 6) r).step) ∧ ∀ j, j < 64 → r.getLsbD j = p j
    let x := v.read a
    let y := v.read b
    let pos (c : Reg) : Nat := (c.extractLsb' 0 6).toNat
    let len (c : Reg) : Nat := min (min (c.extractLsb' 8 7).toNat 64) (64 - pos c)
    let stride := (y.extractLsb' 0 4).toNat
    let offset := (y.extractLsb' 8 3).toNat
    (s.Alone (instrForm (.bfxN64 d a b)) w g v → writes (.bfxN64 d a b) fun i => decide (i < len y) && x.getLsbD (pos y + i)) ∧
    (s.Alone (instrForm (.bfxI64 d a b)) w g v → writes (.bfxI64 d a b) fun i =>
      decide (len y ≠ 0) && x.getLsbD (pos y + min i (len y - 1))) ∧
    (s.Alone (instrForm (.bfi d a b)) w g v → let c := (v.operands a b).c
      writes (.bfi d a b) fun i => if pos c ≤ i ∧ i < pos c + len c then x.getLsbD (i - pos c) else y.getLsbD i) ∧
    (s.Alone (instrForm (.bilv d a b)) w g v →
      ((stride = 0 ∨ 8 < stride) → writes (.bilv d a b) fun _ => false) ∧
      (1 ≤ stride → stride ≤ 8 → writes (.bilv d a b) fun j =>
        decide (offset ≤ j ∧ (j - offset) % stride = 0) && x.getLsbD ((j - offset) / stride))) ∧
    (s.Alone (instrForm (.bdilv d a b)) w g v →
      ((stride = 0 ∨ 8 < stride) → writes (.bdilv d a b) fun _ => false) ∧
      (1 ≤ stride → stride ≤ 8 → writes (.bdilv d a b) fun i => x.getLsbD (stride * i + offset)))) ∧
  (∀ (a c : Reg) (s o : Nat), (c.extractLsb' 0 4).toNat = s → (c.extractLsb' 8 3).toNat = o → 1 ≤ s → s ≤ 8 →
    ∀ i, s * i + o ≤ 63 → (deinterleave (interleave a c) c).getLsbD i = a.getLsbD i) ∧
  interleave 5 0x203 ||| interleave 3 0x103 ||| interleave 6 0x003 = 0x15E

/-- R103 to R105: what the bit functions are, bit by bit. R105: `bilv` puts bit i of A at bit s·i + o and `bdilv` brings it
back, for a stride s of 1 to 8 and an offset o. R104: `bfx` and `bfi` on the field that their control word names, and R105:
`bilv` and `bdilv` with the stride and offset that theirs names, whatever its other bits hold: what each writes to its
destination in an active lane, bit by bit. -/
def Obligations.BitFields : Prop := BitFunctionsRule ∧ BitControlsRule

/-- R106: `addr` writes the sum of its operands, in the simple latency class, where bits 63:56 of the sum are zero, and else traps
with the non-canonical-address fault, whose fault address is the sum; the lanes that trap are one delivery and write nothing.
Every other instruction of major 0x03 that passes its checks completes without a fault. -/
def Obligations.AddressCheck : Prop :=
  (∀ (s : State) (w g : Nat) (ts : List Nat) (d a b : BitVec 7), s.Executes (instrForm (.addr d a b)) w g ts → isScalarDst d = false →
    let sum (v : View) : Reg := v.read a + v.read b
    let traps (t : Nat) : Option (ThreadId × Trap) := match s.view? w g t with
      | some v => if v.t.maskTrue v.t.words = true ∧ 2 ^ 56 ≤ (sum v).toNat then some (⟨w, g, t⟩, { cause := .nonCanonical, addr := sum v }) else none
      | none => none
    let hits := ts.filterMap traps
    let rest := s.lanes w g (ts.filter fun t => (traps t).isNone) (View.vectorResult d (some 4) (fun v => v.t) sum)
    exec (.addr d a b) s = .next (if hits = [] then rest else rest.takeFault { hits := hits })) ∧
  (∀ (s : State) (w g : Nat) (gr : Group) (pc : BitVec 56) (ws : Words) (d a b : BitVec 7),
    s.Together (instrForm (.addr d a b)) w g gr pc ws → isScalarDst d = true →
    let sum := gr.read a + gr.read b
    (sum.toNat < 2 ^ 56 → exec (.addr d a b) s = .next (s.uniformResult w g gr d sum 0)) ∧
    (2 ^ 56 ≤ sum.toNat → exec (.addr d a b) s = .next ((s.gathered w g gr).takeFault
      ((s.gathered w g gr).groupDelivery w g { cause := .nonCanonical, addr := sum })))) ∧
  (∀ (d a b : BitVec 7), ∀ r ∈ bits d a b,
    (∀ s w g ts, s.Executes (instrForm r.instr) w g ts → isScalarDst r.dst = false → ∃ f, exec r.instr s = .next (s.lanes w g ts f)) ∧
    (∀ s w g gr pc ws, s.Together (instrForm r.instr) w g gr pc ws → isScalarDst r.dst = true →
      ∃ v, exec r.instr s = .next (s.uniformResult w g gr r.dst v 0)))

/-! ### Compare, predicates, select -/

/-- R107: `icmp` writes the truth of its condition on its operands, read by its type, to its predicate. R108, R109: `pset`
writes the bit of its table that the two predicates pick; `isel` writes A where its predicate, inverted under NEG, is true,
and else B. -/
def Sys2Proof.Rules.ComparesAndPredicatesRule : Prop :=
  (∀ (s : State) (w g : Nat) (ts : List Nat) (p c t : BitVec 4) (a b : BitVec 7), s.Executes (instrForm (.icmp p c a b t)) w g ts →
    exec (.icmp p c a b t) s = .next (s.lanes w g ts (View.predResult p (fun v => v.t)
      (fun v => compares c (readAs t (v.read a)) (readAs t (v.read b)))))) ∧
  (∀ (s : State) (w g : Nat) (ts : List Nat),
    (∀ (p l x y : BitVec 4), s.Executes (instrForm (.pset p l x y)) w g ts →
      exec (.pset p l x y) s = .next (s.lanes w g ts fun v => (v.t.writeFixed (.pred p.toNat)
        (bit (l.getLsbD (2 * (v.t.readPred x).toNat + (v.t.readPred y).toNat))) 4).step)) ∧
    (∀ (d a b : BitVec 7) (p : BitVec 4) (n : BitVec 1), s.Executes (instrForm (.isel d a b p n)) w g ts →
      exec (.isel d a b p n) s = .next (s.lanes w g ts (View.vectorResult d (some 4) (fun v => v.t)
        (fun v => if v.t.readPred p = (n == 0) then v.read a else v.read b)))))

/-- R81, R98 to R105: the arithmetic, minima and maxima, logic, shifts, rotations, immediate forms (with the immediate that
wide-immediate hints extend) and bit instructions of majors 0x01 to 0x04, in every lane of an issue: each writes its table's
value of its operands, and nothing else changes. R28, R29, R116: an integer instruction with an s-register as destination
executes once for its group when every live thread stands at it: the s-register takes the value, and every live thread
proceeds. That the flag of a division by zero is then raised in every live thread is the model's choice (DEDUCED:
notes/assumptions/22). R107: `icmp` writes the truth of its condition on its operands, read by its type, to its predicate.
R108, R109: `pset` writes the bit of its table that the two predicates pick; `isel` writes A where its predicate, inverted
under NEG, is true, and else B. -/
def Obligations.Integers : Prop := IntegerVectorRule ∧ IntegerScalarRule ∧ ComparesAndPredicatesRule

/-! ### Float instructions -/

/-- R126 to R130 and R132 to R134, with the arithmetic of R47 to R51: every FP32, packed, dot and packing instruction in every
lane of an issue. How closely `fexp2`, `flog2`, `fsin` and `fcos` approximate is the model's choice (DEDUCED: notes/assumptions/12). -/
def Sys2Proof.Rules.FloatArithmeticRule : Prop := ∀ d a b, ∀ r ∈ floats d a b, r.holds

/-- R131: `fcmp` writes the truth of its condition; with a NaN operand only `.ne` and `.un` hold, and NV is raised for a
signalling operand or an ordering condition. -/
def Sys2Proof.Rules.FloatCompareRule : Prop :=
  ∀ (s : State) (w g : Nat) (ts : List Nat) (p c t : BitVec 4) (a b : BitVec 7) (f : Fmt), s.Executes (instrForm (.fcmp p c a b t)) w g ts →
    fmtOfType t.toNat = some f →
    exec (.fcmp p c a b t) s = .next (s.lanes w g ts (View.predResult p
      (fun v => v.t.raise (floatCond c (f.operand v.t.ftz (v.read a).toNat) (f.operand v.t.ftz (v.read b).toNat)).2)
      (fun v => (floatCond c (f.operand v.t.ftz (v.read a).toNat) (f.operand v.t.ftz (v.read b).toNat)).1))) ∧
    (∀ q y, (floatCond c (.nan q) y).1 = (c == 1 || c == 6))

/-- R135 to R137: `frnd`, `fcvti`, `icvtf` and the conversions of `fcvt` that write no Denusk code, in every lane. -/
def Sys2Proof.Rules.ConversionsRule : Prop :=
  ∀ (s : State) (w g : Nat) (ts : List Nat) (d a : BitVec 7) (p q : BitVec 4) (r : BitVec 3),
    (s.Executes (instrForm (.frnd d a p q r)) w g ts → ∀ f, fmtOfType p.toNat = some f →
      exec (.frnd d a p q r) s = .next (s.lanes w g ts (View.vectorResult d (some 8)
        (fun v => v.t.raise (integral f ((v.t.convRnd r).getD .rne) (f.operand v.t.ftz (v.read a).toNat)).2)
        (fun v => BitVec.ofNat 64 (integral f ((v.t.convRnd r).getD .rne) (f.operand v.t.ftz (v.read a).toNat)).1)))) ∧
    (s.Executes (instrForm (.fcvti d a p q r)) w g ts → ∀ f, fmtOfType p.toNat = some f →
      exec (.fcvti d a p q r) s = .next (s.lanes w g ts (View.vectorResult d (if r = 6 then none else some 8)
        (fun v => (v.t.toInteger q r (f.operand v.t.ftz (v.read a).toNat)).1.raise
          (v.t.toInteger q r (f.operand v.t.ftz (v.read a).toNat)).2.2)
        (fun v => BitVec.ofNat 64 (v.t.toInteger q r (f.operand v.t.ftz (v.read a).toNat)).2.1)))) ∧
    (s.Executes (instrForm (.icvtf d a p q r)) w g ts → ∀ f, fmtOfType q.toNat = some f →
      exec (.icvtf d a p q r) s = .next (s.lanes w g ts (View.vectorResult d (if r = 6 then none else some 8)
        (fun v => (v.t.convTo f r v.t.ftz (.fin (intOperand p.toNat (v.read a) < 0) (intOperand p.toNat (v.read a)).natAbs 0)).1.raise
          (v.t.convTo f r v.t.ftz (.fin (intOperand p.toNat (v.read a) < 0) (intOperand p.toNat (v.read a)).natAbs 0)).2.2)
        (fun v => BitVec.ofNat 64
          (v.t.convTo f r v.t.ftz (.fin (intOperand p.toNat (v.read a) < 0) (intOperand p.toNat (v.read a)).natAbs 0)).2.1)))) ∧
    (s.Executes (instrForm (.fcvt d a p q r)) w g ts → ∀ f h, fmtOfType p.toNat = some f → fmtOfType q.toNat = some h →
      exec (.fcvt d a p q r) s = .next (s.lanes w g ts (View.vectorResult d (if r = 6 then none else some 8)
        (fun v => (v.t.convTo h r (v.t.ftz && !(p = 11 || p = 12)) (f.operand v.t.ftz (v.read a).toNat)).1.raise
          (v.t.convTo h r (v.t.ftz && !(p = 11 || p = 12)) (f.operand v.t.ftz (v.read a).toNat)).2.2)
        (fun v => BitVec.ofNat 64 (v.t.convTo h r (v.t.ftz && !(p = 11 || p = 12)) (f.operand v.t.ftz (v.read a).toNat)).2.1))))

/-- R45, R48: a value that a format holds is written exactly, in every rounding mode and without a flag, by the code it was read
from, but for the infinity codes of E5M2, which are read as its largest finite value (R50). -/
def Sys2Proof.Rules.ExactRoundingRule : Prop :=
  ∀ f ∈ [fp32, fp16, bf16, e4m3, e5m2], ∀ (mode : Rnd) (c : Nat), c < 2 ^ f.width →
    ¬(f = e5m2 ∧ c % 128 = 0x7C) →
    ∀ (n : Bool) (m : Nat) (e : Int), f.decode c = .fin n m e → f.write mode false (f.decode c) = (c, 0)

/-- R126 to R130 and R132 to R134, with the arithmetic of R47 to R51: every FP32, packed, dot and packing instruction in
every lane of an issue. How closely `fexp2`, `flog2`, `fsin` and `fcos` approximate is the model's choice (DEDUCED:
notes/assumptions/12). R131: `fcmp` writes the truth of its condition; with a NaN operand only `.ne` and `.un` hold, and NV
is raised for a signalling operand or an ordering condition. R135 to R137: `frnd`, `fcvti`, `icvtf` and the conversions of
`fcvt` that write no Denusk code, in every lane. R45, R48: a value that a format holds is written exactly, in every rounding
mode and without a flag, by the code it was read from, but for the infinity codes of E5M2, which are read as its largest
finite value (R50). -/
def Obligations.FloatResults : Prop := FloatArithmeticRule ∧ FloatCompareRule ∧ ConversionsRule ∧ ExactRoundingRule

/-- R53: the value of a Denusk element under its header: magnitude times a power of two that the header exponent picked by the selector
gives, 255 read as 254. It is exact in FP32 in every rounding mode, with no flag, and neither a NaN nor an infinity; the
largest and the least magnitudes; and the conversion of a lane writes it and raises nothing. -/
def Obligations.DenuskElements : Prop :=
  (∀ (db4 : Bool) (ea eb sel sgn mag : Nat), ea < 256 → eb < 256 → sel < 2 → sgn < 2 →
    let w : Nat := if db4 then 2 else 6
    mag < 2 ^ w →
    let x : Int := if sel = 0 then ea else eb
    let e : Int := if x = 255 then 254 else x
    let v := denuskDecode db4 ea eb (sel * 2 ^ (w + 1) + sgn * 2 ^ w + mag)
    v = .fin (sgn == 1) mag (e - 127 - (w - 1 : Nat)) ∧
    (∃ c, (∀ mode, fp32.write mode false v = (c, 0)) ∧ (fp32.decode c).cmp v = 0 ∧ (fp32.decode c).isNeg = (sgn == 1) ∧
      c % 2 ^ 31 < 0x7F800000) ∧
    (mag : ℚ) * 2 ^ (e - 127 - (w - 1 : Nat)) ≤ (if db4 then 3 * 2 ^ 126 else 63 * 2 ^ 122) ∧
    (mag ≠ 0 → (2 : ℚ) ^ (if db4 then (-128 : Int) else -132) ≤ (mag : ℚ) * 2 ^ (e - 127 - (w - 1 : Nat)))) ∧
  (denuskDecode false 254 0 63 = .fin false 63 122 ∧ denuskDecode true 254 0 3 = .fin false 3 126 ∧
    denuskDecode false 0 0 1 = .fin false 1 (-132) ∧ denuskDecode true 0 0 1 = .fin false 1 (-128)) ∧
  (∀ (s : State) (w g : Nat) (v : View) (d a : BitVec 7) (p : BitVec 4) (r : BitVec 3), s.Alone (instrForm (.fcvt d a p 8 r)) w g v →
    isScalarDst d = false → v.t.maskTrue v.t.words = true → p = 13 ∨ p = 14 →
    let x := v.read a
    let elem := x.toNat % (if p = 14 then 16 else 256)
    exec (.fcvt d a p 8 r) s = .next (s.setThread ⟨w, g, v.gtid⟩ (v.t.writeDest d none
      (BitVec.ofNat 64 (fp32.write .rne false (denuskDecode (p == 14) (bf x 16 8).toNat (bf x 24 8).toNat elem)).1)).step))


/-- R42, R45 to R49, R51, R56, R58: a number other than zero is rounded to a format as the rules say, for every mode and every draw:
the value that the mode picks on the format's grid, R48's table and R51's saturation beyond the largest finite value, NX for an
inexact result, UF for one that is tiny as well, and FTZ's zeros. A zero, an infinity and a NaN are written as R45, R47 and R51 say. The
largest finite values and the NaN codes are those of R45's table. -/
def Sys2Proof.Rules.RoundedNumbersRule : Prop :=
  (∀ f ∈ formats, ∀ (mode : Rnd) (ftz neg : Bool) (m : Nat) (e : Int), m ≠ 0 →
    RoundsTo f mode ftz neg (m * (2 : ℝ) ^ e) (f.write mode ftz (.fin neg m e)) ∧
    ∀ draw, ∃ r, PicksByDraw (Representable f true) draw (m * (2 : ℝ) ^ e) r ∧
      Written f ftz neg (beyond f .rz neg) (m * (2 : ℝ) ^ e) r (r < (2 : ℝ) ^ f.emin) (f.roundSr ftz draw neg m e)) ∧
  (∀ f ∈ formats, ∀ (mode : Rnd) (ftz neg q : Bool) (e : Int), f.write mode ftz (.fin neg 0 e) = (f.signed neg 0, 0) ∧
    f.write mode ftz (.inf neg) = (if f.kind = .ieee then (f.signed neg (f.maxCode + 1), 0) else (f.signed neg f.maxCode, flagOF ||| flagNX)) ∧
    f.write mode ftz (.nan q) = (f.nan, if q then flagNV else 0)) ∧
  (formats.map fun f => (f.maxCode, f.nan, f.emin)) =
    [(0x7F7FFFFF, 0x7FC00000, -126), (0x7BFF, 0x7E00, -14), (0x7F7F, 0x7FC0, -126), (0x7E, 0x7F, -6), (0x7B, 0x7E, -14)] ∧
  (real (fp32.decode 0x7F7FFFFF) = (2 - 2 ^ (-23 : Int)) * 2 ^ 127 ∧ real (fp16.decode 0x7BFF) = 65504 ∧
    real (bf16.decode 0x7F7F) = (2 - 2 ^ (-7 : Int)) * 2 ^ 127 ∧ real (e4m3.decode 0x7E) = 448 ∧ real (e5m2.decode 0x7B) = 57344)

/-- R129, R130: `frcp`, `frsq` and `fsqrt` of an FP32 code are 1/x, 1/√x and √x correctly rounded, with the special cases of the
table; and where `fexp2`, `flog2`, `fsin` and `fcos` are exact or special, they are what the table says. -/
def Sys2Proof.Rules.RootsAndSpecialsRule : Prop :=
  (∀ (mode : Rnd) (ftz : Bool) (c : Nat), c < 2 ^ 32 →
    let x := fp32.operand ftz c
    (∀ n m e, x = .fin n m e → m ≠ 0 → RoundsTo fp32 mode ftz n (1 / (m * (2 : ℝ) ^ e)) (rcp32 mode ftz x) ∧
      (n = true → rsq32 mode ftz x = (0x7FC00000, flagNV) ∧ sqrt32 mode ftz x = (0x7FC00000, flagNV) ∧
        log2Value ftz x = (0x7FC00000, flagNV)) ∧
      (n = false → RoundsTo fp32 mode ftz false (1 / √(m * (2 : ℝ) ^ e)) (rsq32 mode ftz x) ∧
        RoundsTo fp32 mode ftz false (√(m * (2 : ℝ) ^ e)) (sqrt32 mode ftz x))) ∧
    (∀ n e, x = .fin n 0 e → rcp32 mode ftz x = (fp32.signed n 0x7F800000, flagDZ) ∧
      rsq32 mode ftz x = (fp32.signed n 0x7F800000, flagDZ) ∧ sqrt32 mode ftz x = (fp32.signed n 0, 0) ∧
      log2Value ftz x = (0xFF800000, flagDZ)) ∧
    (∀ n, x = .inf n → rcp32 mode ftz x = (fp32.signed n 0, 0) ∧
      rsq32 mode ftz x = (if n then (0x7FC00000, flagNV) else (0, 0)) ∧
      sqrt32 mode ftz x = (if n then (0x7FC00000, flagNV) else (0x7F800000, 0)) ∧
      exp2Value ftz x = (if n then 0 else 0x7F800000, 0) ∧ log2Value ftz x = (if n then (0x7FC00000, flagNV) else (0x7F800000, 0)) ∧
      sinValue ftz x = (0x7FC00000, flagNV) ∧ cosValue ftz x = (0x7FC00000, flagNV)) ∧
    (∀ q, x = .nan q → ∀ y ∈ [rcp32 mode ftz x, rsq32 mode ftz x, sqrt32 mode ftz x, exp2Value ftz x, log2Value ftz x,
      sinValue ftz x, cosValue ftz x], y = (0x7FC00000, if q then flagNV else 0))) ∧
  (∀ (ftz : Bool) (c : Nat), c < 2 ^ 32 → ∀ n m e, fp32.operand ftz c = .fin n m e →
    let x := real (.fin n m e)
    (∀ k : Int, x = k → -149 ≤ k → k ≤ 127 → exp2Value ftz (.fin n m e) = fp32.write .rne ftz (.fin false 1 k)) ∧
    (128 ≤ x → exp2Value ftz (.fin n m e) = (0x7F800000, flagOF ||| flagNX)) ∧
    (∀ k : Int, x = (2 : ℝ) ^ k → log2Value ftz (.fin n m e) = fp32.write .rne ftz (.fin (k < 0) k.natAbs 0)) ∧
    (∀ k : Int, x = k → sinValue ftz (.fin n m e) = (fp32.signed n 0, 0) ∧
      cosValue ftz (.fin n m e) = (if k % 2 = 0 then 0x3F800000 else 0xBF800000, 0)) ∧
    (∀ k : Int, x = k + 1 / 2 → sinValue ftz (.fin n m e) = (if k % 2 = 0 then 0x3F800000 else 0xBF800000, 0) ∧
      cosValue ftz (.fin n m e) = (0, 0)))

/-- R42, R45 to R49, R51, R56, R58: a number other than zero is rounded to a format as the rules say, for every mode and
every draw: the value that the mode picks on the format's grid, R48's table and R51's saturation beyond the largest finite
value, NX for an inexact result, UF for one that is tiny as well, and FTZ's zeros. A zero, an infinity and a NaN are written
as R45, R47 and R51 say. The largest finite values and the NaN codes are those of R45's table. R129, R130: `frcp`, `frsq` and
`fsqrt` of an FP32 code are 1/x, 1/√x and √x correctly rounded, with the special cases of the table; and where `fexp2`,
`flog2`, `fsin` and `fcos` are exact or special, they are what the table says. -/
def Obligations.CorrectRounding : Prop := RoundedNumbersRule ∧ RootsAndSpecialsRule

/-- R46, R47, R60, R61, R126: sums, products, multiply-adds and block sums of values are exact, with IEEE 754's zeros, infinities and
NaN and with NV where the rules raise it; accumulation is one rounding for each block. -/
def Sys2Proof.Rules.ExactSumsRule : Prop :=
  (∀ (mode : Rnd) (n n' : Bool) (m m' : Nat) (e e' : Int),
    let x : FVal := .fin n m e
    let y : FVal := .fin n' m' e'
    (∃ k l g, x.add mode y = (.fin k l g, 0) ∧ real (.fin k l g) = real x + real y ∧
      (l = 0 → k = if m = 0 ∧ m' = 0 ∧ n = n' then n else decide (mode = .rdn))) ∧
    x.mul y = (.fin (n != n') (m * m') (e + e'), 0) ∧ real (.fin (n != n') (m * m') (e + e')) = real x * real y ∧
    (∀ a, (FVal.inf a).add mode y = (.inf a, 0) ∧ y.add mode (.inf a) = (.inf a, 0) ∧
      (FVal.inf a).mul y = (if m' = 0 then (.nan false, flagNV) else (.inf (a != n'), 0)) ∧ y.mul (.inf a) = (FVal.inf a).mul y)) ∧
  (∀ (mode : Rnd) (a b q : Bool) (y : FVal),
    (FVal.inf a).add mode (.inf b) = (if a = b then (.inf a, 0) else (.nan false, flagNV)) ∧
    (FVal.inf a).mul (.inf b) = (.inf (a != b), 0) ∧
    ∀ r ∈ [(FVal.nan q).add mode y, y.add mode (.nan q), (FVal.nan q).mul y, y.mul (.nan q)],
      r = (.nan false, if q || y.isSnan then flagNV else 0)) ∧
  (∀ (mode : Rnd) (x y z : FVal), x.fma mode y z = (((x.mul y).1.add mode z).1, (x.mul y).2 ||| ((x.mul y).1.add mode z).2)) ∧
  (∀ ps : List (FVal × FVal),
    let product (p : FVal × FVal) : FVal := (p.1.mul p.2).1
    let invalid : Prop := (∃ p ∈ ps, (p.1.mul p.2).2 ≠ 0) ∨ (.inf false ∈ ps.map product ∧ .inf true ∈ ps.map product)
    let nan : Prop := (∃ p ∈ ps, (product p).isNan = true) ∨ (.inf false ∈ ps.map product ∧ .inf true ∈ ps.map product)
    (invalid → (blockSum ps).2 = flagNV) ∧ (¬invalid → (blockSum ps).2 = 0) ∧ (nan → (blockSum ps).1 = .nan false) ∧
    (∀ n, ¬nan → .inf n ∈ ps.map product → (blockSum ps).1 = .inf n) ∧
    ((∀ p ∈ ps, ∃ n m e, product p = .fin n m e) → ∃ n m e, (blockSum ps).1 = .fin n m e ∧
      real (.fin n m e) = (ps.map fun p => real (product p)).sum ∧
      (m = 0 → (n = true ↔ ps ≠ [] ∧ ∀ p ∈ ps, ∃ e, product p = .fin true 0 e)))) ∧
  (∀ (mode : Rnd) (ftz : Bool) (c s : FVal) (fl : FlagSet), accumulate mode ftz c (s, fl) =
    ((fp32.write mode ftz (c.add mode s).1).1, fl ||| (c.add mode s).2 ||| (fp32.write mode ftz (c.add mode s).1).2)) ∧
  (∀ (mode : Rnd) (u k c : Nat) (ps : List (FVal × FVal)), 0 < u → ps.length ≤ u * k → accumulateBlocks mode u k c ps =
    (List.range ((ps.length + u - 1) / u)).foldl (init := (c, (0 : FlagSet))) fun r j =>
      let b := accumulate mode false (fp32.decode r.1) (blockSum ((ps.drop (u * j)).take u))
      (b.1, r.2 ||| b.2))

/-- R42, R57, R59, R127, R128, R131, R136, R138: comparisons, minima and maxima, classes, integral values, conversions to integers and the
stochastic generator, in terms of the numbers that the codes stand for. A mode that a thread rounds under is its prefix's, else
TSW.RM's. -/
def Sys2Proof.Rules.FloatFunctionsRule : Prop :=
  (∀ (c : BitVec 4) (x y : FVal), c.toNat < 8 →
    (x.isNan = false → y.isNan = false → (floatCond c x y).2 = 0 ∧ ((floatCond c x y).1 = true ↔ Ordered c x y)) ∧
    (x.isNan = true ∨ y.isNan = true → ((floatCond c x y).1 = true ↔ c = 1 ∨ c = 6) ∧
      (floatCond c x y).2 = if x.isSnan || y.isSnan || (2 ≤ c.toNat && c.toNat ≤ 5) then flagNV else 0)) ∧
  (∀ (max num ftz : Bool) (a b : Nat), a < 2 ^ 32 → b < 2 ^ 32 →
    let copied (c : Nat) : Nat := if ftz = true ∧ c / 2 ^ 23 % 2 ^ 8 = 0 then c / 2 ^ 31 * 2 ^ 31 else c
    let x := fp32.decode (copied a)
    let y := fp32.decode (copied b)
    let r := minmax32 max num ftz a b
    let z := fp32.decode r.1
    r.2 = (if x.isSnan || y.isSnan then flagNV else 0) ∧
    (x.isNan = true → y.isNan = true → r.1 = 0x7FC00000) ∧
    (x.isNan = true → y.isNan = false → r.1 = if num then copied b else 0x7FC00000) ∧
    (x.isNan = false → y.isNan = true → r.1 = if num then copied a else 0x7FC00000) ∧
    (x.isNan = false → y.isNan = false → (r.1 = copied a ∨ r.1 = copied b) ∧
      (if max then place x ≤ place z ∧ place y ≤ place z else place z ≤ place x ∧ place z ≤ place y) ∧
      (place x = place y → z.isNeg = if max then x.isNeg && y.isNeg else x.isNeg || y.isNeg))) ∧
  (∀ (c : BitVec 32), (∀ n, fp32.decode c.toNat = .inf n → classOf c = if n then 0 else 7) ∧
    (∀ q, fp32.decode c.toNat = .nan q → classOf c = if q then 8 else 9) ∧
    (∀ n m e, fp32.decode c.toNat = .fin n m e → classOf c =
      if m = 0 then (if n then 3 else 4) else if m * (2 : ℝ) ^ e < 2 ^ (-126 : Int) then (if n then 2 else 5) else (if n then 1 else 6))) ∧
  (∀ f ∈ [fp32, fp16, bf16], ∀ (mode : Rnd) (c : Nat), c < 2 ^ f.width →
    (∀ q, f.decode c = .nan q → integral f mode (f.decode c) = (f.nan, if q then flagNV else 0)) ∧
    (∀ n, f.decode c = .inf n → integral f mode (f.decode c) = (c, 0)) ∧
    (∀ n m e, f.decode c = .fin n m e → (integral f mode (f.decode c)).2 = 0 ∧ ∃ r m' e',
      Picks Whole mode n (m * (2 : ℝ) ^ e) r ∧ f.decode (integral f mode (f.decode c)).1 = .fin n m' e' ∧ m' * (2 : ℝ) ^ e' = r)) ∧
  (∀ t ∈ intTypes, ∀ (th : Thread) (r : Reg), intOperand t.1.toNat r =
      (if t.2.2 then (r.setWidth t.2.1).toInt else ((r.setWidth t.2.1).toNat : Int)) ∧
    (∀ rc, (th.toInteger t.1 rc (.nan true)) = (if rc = 6 then { th with srg := srgNext th.srg } else th, 0, flagNV) ∧
      (th.toInteger t.1 rc (.nan false)) = (if rc = 6 then { th with srg := srgNext th.srg } else th, 0, flagNV) ∧
      ∀ n, th.toInteger t.1 rc (.inf n) = (if rc = 6 then { th with srg := srgNext th.srg } else th,
        ((if n then (intRange t.2.1 t.2.2).1 else (intRange t.2.1 t.2.2).2) % 2 ^ t.2.1).toNat, flagNV)) ∧
    (∀ (rc : BitVec 3) (mode : Rnd) (n : Bool) (m : Nat) (e : Int), th.convRnd rc = some mode → ∃ k : Nat, Picks Whole mode n (m * (2 : ℝ) ^ e) k ∧
      th.toInteger t.1 rc (.fin n m e) = (th, toInt t.2.1 t.2.2 n k (decide ((k : ℝ) = m * (2 : ℝ) ^ e)))) ∧
    (∀ (n : Bool) (m : Nat) (e : Int), ∃ k : Nat, PicksByDraw Whole (srgNext th.srg) (m * (2 : ℝ) ^ e) k ∧
      th.toInteger t.1 6 (.fin n m e) = ({ th with srg := srgNext th.srg }, toInt t.2.1 t.2.2 n k (decide ((k : ℝ) = m * (2 : ℝ) ^ e))))) ∧
  (∀ (th : Thread) (f : Fmt) (ftz : Bool) (v : FVal),
    ([0, 1, 2, 3, 4, 5, 6].map th.convRnd) = [some th.rounding, some .rne, some .rz, some .rup, some .rdn, some .rna, none] ∧
    (∀ rc mode, th.convRnd rc = some mode → th.convTo f rc ftz v = (th, f.write mode ftz v)) ∧
    (∀ rc, th.convRnd rc = none → th.convTo f rc ftz v = ({ th with srg := srgNext th.srg },
      match v with | .fin n m e => f.roundSr ftz (srgNext th.srg) n m e | v => f.write .rz ftz v)) ∧
    (∀ p, th.words.pre = some p → ∀ j mode, [Rnd.rne, .rz, .rup, .rdn, .rna][j]? = some mode → p.rnd.toNat = j + 1 → th.rounding = mode) ∧
    (∀ j mode, [Rnd.rne, .rz, .rup, .rdn, .rna][j]? = some mode → (th.tsw.toNat / 256) % 8 = j →
      (th.words.pre = none ∨ ∃ p, th.words.pre = some p ∧ p.rnd = 0) → th.rounding = mode)) ∧
  (∀ x : BitVec 32, let a := x.toNat ^^^ (x.toNat * 2 ^ 13 % 2 ^ 32)
    let b := a ^^^ (a / 2 ^ 17)
    (srgNext x).toNat = b ^^^ (b * 2 ^ 5 % 2 ^ 32))
/-! ### Control flow, exceptions -/

/-- R46, R47, R60, R61, R126: sums, products, multiply-adds and block sums of values are exact, with IEEE 754's zeros,
infinities and NaN and with NV where the rules raise it; accumulation is one rounding for each block. R42, R57, R59, R127,
R128, R131, R136, R138: comparisons, minima and maxima, classes, integral values, conversions to integers and the stochastic
generator, in terms of the numbers that the codes stand for. A mode that a thread rounds under is its prefix's, else
TSW.RM's. -/
def Obligations.FloatValues : Prop := ExactSumsRule ∧ FloatFunctionsRule

/-- R73, R110 to R112: in each lane whose predicate, inverted under NEG, is true, `bra` and `call` go to the word's own
address plus four times the signed offset (modulo 2^56: DESIGN CHOICE, notes/assumptions/103), `call` after it has put the address
after the word into a new slot of the result queue; the other lanes go on to the next word. R113: `brx` and `ret` go to the address in A; an address that is not a multiple
of 4 is the misaligned-target fault, and else one with a bit set above bit 55 the non-canonical-address fault (that order is a
DESIGN CHOICE: notes/assumptions/103), with the address as fault address and no other effect. -/
def Sys2Proof.Rules.BranchesRule : Prop :=
  (∀ (s : State) (w g : Nat) (ts : List Nat) (p : BitVec 4) (n : BitVec 1) (o : BitVec 20),
    (s.Executes (instrForm (.bra p n o)) w g ts → exec (.bra p n o) s = .next (s.lanes w g ts fun v =>
      if v.t.readPred p = (n == 0) then v.t.jump (BitVec.ofInt 56 (v.t.wordPc.toNat + 4 * o.toInt)) else v.t.step)) ∧
    (s.Executes (instrForm (.call p n o)) w g ts → exec (.call p n o) s = .next (s.lanes w g ts fun v =>
      if v.t.readPred p = (n == 0) then
        (v.t.reserve.writeNow (.slot (v.t.qseq + 1)) (BitVec.ofNat 64 (v.t.wordPc.toNat + 4))).jump
          (BitVec.ofInt 56 (v.t.wordPc.toNat + 4 * o.toInt))
      else v.t.step))) ∧
  (∀ (s : State) (w g : Nat) (a : BitVec 7) (i : Instr), i = .brx a ∨ i = .ret a →
    (∀ ts, s.Executes (instrForm i) w g ts →
      (∀ t ∈ ts, ∀ v, s.view? w g t = some v → (v.read a).toNat % 4 = 0 ∧ (v.read a).toNat < 2 ^ 56) →
      exec i s = .next (s.lanes w g ts fun v => v.t.jump (BitVec.ofNat 56 (v.read a).toNat))) ∧
    (∀ v, s.Alone (instrForm i) w g v → (v.read a).toNat % 4 ≠ 0 →
      exec i s = .next (s.takeFault { hits := [(⟨w, g, v.gtid⟩, { cause := .misalignedTarget, addr := v.read a })] })) ∧
    (∀ v, s.Alone (instrForm i) w g v → (v.read a).toNat % 4 = 0 → 2 ^ 56 ≤ (v.read a).toNat →
      exec i s = .next (s.takeFault { hits := [(⟨w, g, v.gtid⟩, { cause := .nonCanonical, addr := v.read a })] })))

/-- R114, R250, R251, R377: `nop` and `yield` only pass to the next word, and so do `mark` in a context whose tracing is off
and `brk` in one whose breakpoints are off. R250: a thread that has yielded does not issue while another ready thread of its lane
has gone without an issue since. R377: with tracing on a `mark` that a weave issues puts one record into the trace ring, the first
after dropped ones is preceded by their count, and a full ring drops it and counts it. R115: `fuse` waits at most as many core clocks
as A says, and no more than 4,095: a thread with 0 passes at once, one of a group in which another thread is elsewhere waits until
the tick in which that many clocks have passed, and the last live thread of the group to come to the word goes on with all that
stand there. -/
def Sys2Proof.Rules.PassingWordsRule : Prop :=
  (∀ (s : State) (w g : Nat) (ts : List Nat) (x : Workgroup) (c : Context),
    s.wg? w = some x → s.ctx? x.ctx = some c →
    (s.Executes (instrForm .nop) w g ts → exec .nop s = .next (s.lanes w g ts fun v => v.t.step)) ∧
    (s.Executes (instrForm .yieldTurn) w g ts → exec .yieldTurn s = .next (s.lanes w g ts fun v => { v.t.step with yielded := true })) ∧
    (c.traceEn = false → s.Executes (instrForm .mark) w g ts → exec .mark s = .next (s.lanes w g ts fun v => v.t.step)) ∧
    (c.brkEn = false → s.Executes (instrForm .brk) w g ts → exec .brk s = .next (s.lanes w g ts fun v => v.t.step))) ∧
  (∀ (s : State) (u : IssueSet) (x y : Workgroup) (g h : Group) (t v : Thread) (i j : Nat),
    s.wg? u.wg = some x → x.groups[u.grp]? = some g → g.threads[i]? = some t → t.yielded = true →
    y ∈ s.wgs → y.core = x.core → y.res = .resident → h ∈ y.groups → h.stop = .running → h.threads[j]? = some v →
    4 * h.quad + j = 4 * g.quad + i → v.isLive = true → v.wait = .running → v.words = Words.none → v.lastIssue < t.lastIssue →
    i ∉ s.weave u) ∧
  (∀ (s s1 : State) (w g : Nat) (v : View) (c : Context), s.Alone (instrForm .mark) w g v → s.ctx? v.wg.ctx = some c →
    c.traceEn = true → 8 ≤ c.traceSize.toNat →
    let free := 2 ^ c.traceSize.toNat - (c.traceProd - c.traceCons).toNat
    let record (time id kind : Nat) : List Byte := bytesLe 8 time ++
      bytesLe 8 (id * 2 ^ 44 + g % 16 * 2 ^ 40 + v.wg.launch % 2 ^ 24 * 2 ^ 16 + v.wg.node % 2 ^ 12 * 2 ^ 4 + kind)
    let put (s : State) (n : BitVec 64) (r : List Byte) : State × Except Trap Unit :=
      s.writeRun v.wg.ctx (c.traceBase.toNat + 16 * (n.toNat % 2 ^ c.traceSize.toNat)) r
    let passes (u : State) : Prop := exec .mark s = .next (u.setThread ⟨w, g, v.gtid⟩ v.t.step)
    (c.traceDropped = 0 → 1 ≤ free → put s c.traceProd (record s.tick (s.ir.toNat % 2 ^ 20) 0) = (s1, .ok ()) →
      passes (s1.modCtx v.wg.ctx fun y => { y with traceProd := c.traceProd + 1 })) ∧
    (c.traceDropped = 0 → free = 0 → passes (s.modCtx v.wg.ctx fun y => { y with traceDropped := y.traceDropped + 1 })) ∧
    (c.traceDropped ≠ 0 → free < 2 → passes (s.modCtx v.wg.ctx fun y => { y with traceDropped := y.traceDropped + 1 })) ∧
    (∀ s2, c.traceDropped ≠ 0 → 2 ≤ free → put s c.traceProd (record c.traceDropped 0 1) = (s1, .ok ()) →
      put (s1.modCtx v.wg.ctx fun y => { y with traceProd := c.traceProd + 1 }) (c.traceProd + 1)
        (record s.tick (s.ir.toNat % 2 ^ 20) 0) = (s2, .ok ()) →
      passes ((s2.modCtx v.wg.ctx fun y => { y with traceProd := c.traceProd + 1 + 1 }).modCtx v.wg.ctx fun y =>
        { y with traceDropped := 0 }))) ∧
  (∀ (s : State) (w g : Nat) (v : View) (a : BitVec 7), s.Alone (instrForm (.fuse a)) w g v → v.t.isLive = true →
    ((v.read a).toNat = 0 → ∃ t k, exec (.fuse a) s = .next t ∧ s.SameOutside t ∧
      t.thread? ⟨w, g, v.gtid⟩ = some { v.t.step with weave := k }) ∧
    ((v.read a).toNat ≠ 0 → (∃ j u, j ≠ v.gtid ∧ v.grp.threads[j]? = some u ∧ u.isLive = true ∧ u.wait = .running) →
      ∃ t, exec (.fuse a) s = .next t ∧ s.SameOutside t ∧
        t.thread? ⟨w, g, v.gtid⟩ = some { v.t with wait := .fuse (s.tick + s.clocksToTicks (min (v.read a).toNat 4095)) }) ∧
    ((∀ j u, j ≠ v.gtid → v.grp.threads[j]? = some u → u.isLive = true → u.pc = v.t.pc ∧ ∃ d, u.wait = .fuse d) →
      ∃ t, exec (.fuse a) s = .next t ∧ s.SameOutside t ∧ ∀ j u, v.grp.threads[j]? = some u → u.isLive = true →
        ∃ k, t.thread? ⟨w, g, j⟩ = some { u.step with weave := k }))

/-- R73, R110 to R112: in each lane whose predicate, inverted under NEG, is true, `bra` and `call` go to the word's own
address plus four times the signed offset (modulo 2^56: DESIGN CHOICE, notes/assumptions/103), `call` after it has put the
address after the word into a new slot of the result queue; the other lanes go on to the next word. R113: `brx` and `ret` go
to the address in A; an address that is not a multiple of 4 is the misaligned-target fault, and else one with a bit set above
bit 55 the non-canonical-address fault (that order is a DESIGN CHOICE: notes/assumptions/103), with the address as fault
address and no other effect. R114, R250, R251, R377: `nop` and `yield` only pass to the next word, and so do `mark` in a
context whose tracing is off and `brk` in one whose breakpoints are off. R250: a thread that has yielded does not issue while
another ready thread of its lane has gone without an issue since. R377: with tracing on a `mark` that a weave issues puts one
record into the trace ring, the first after dropped ones is preceded by their count, and a full ring drops it and counts it.
R115: `fuse` waits at most as many core clocks as A says, and no more than 4,095: a thread with 0 passes at once, one of a
group in which another thread is elsewhere waits until the tick in which that many clocks have passed, and the last live
thread of the group to come to the word goes on with all that stand there. -/
def Obligations.BranchesAndPassing : Prop := BranchesRule ∧ PassingWordsRule

/-- R251: `trap`, and `brk` in a context whose breakpoints are on, are the software-trap fault and the breakpoint trap of
every thread that executes them, as one delivery (R330), with the word's 20-bit payload as fault address. R88: the zero word
and a word that is no instruction are the zero-word and the undefined-instruction fault of every thread that executes them,
with the address of the group's first word as fault address; that the zero word takes its fault where items of R88 other than 1, 6 and 11
would fault its group too is the model's choice (DESIGN CHOICE: notes/assumptions/103). -/
def Obligations.TrapInstructions : Prop :=
  (∀ (s : State) (w g : Nat) (ts : List Nat) (x : Workgroup) (c : Context),
    s.wg? w = some x → s.ctx? x.ctx = some c → ts ≠ [] →
    (s.Executes (instrForm .trap) w g ts → exec .trap s = .next (s.takeFault
      { hits := ts.map fun t => (⟨w, g, t⟩, { cause := .softwareTrap, addr := BitVec.ofNat 64 (s.ir.toNat % 2 ^ 20) }) })) ∧
    (c.brkEn = true → s.Executes (instrForm .brk) w g ts → exec .brk s = .next (s.takeFault
      { hits := ts.map fun t => (⟨w, g, t⟩, { cause := .breakpoint, addr := BitVec.ofNat 64 (s.ir.toNat % 2 ^ 20) }) }))) ∧
  (∀ (s : State) (w g : Nat) (ts : List Nat) (gr : Group), s.cur = some ⟨w, g, ts⟩ → s.grp? w g = some gr → ts ≠ [] →
    (∀ t ∈ ts, t < gr.threads.length) →
    let at_ (c : Cause) (t : Nat) : ThreadId × Trap :=
      (⟨w, g, t⟩, { cause := c, addr := BitVec.ofNat 64 (((s.thread? ⟨w, g, t⟩).map Thread.pc).getD 0).toNat })
    exec .zeroWord s = .next (s.takeFault { hits := ts.map (at_ .zeroWord) }) ∧
    exec .undefinedInstruction s = .next (s.takeFault { hits := ts.map (at_ .undefinedInstruction) }))

/-- R328 to R331, R338: a fault under the park policy. The thread keeps its registers and takes the image: the cause's code, the
PC of the group's first word, the fault address; its group stops; an entry of R331's eight words joins the fault log at the place that
the producer count names, the count and the sequence number go on by one, and the context's interrupt is raised. Stated for one
thread that no wait holds, a serviceable cause that is no translation fault, and a log with room whose words the command processor can
write (R279). -/
def Sys2Proof.Rules.ParkedFaultRule : Prop :=
  ∀ (s s0 s1 : State) (w : Workgroup) (g : Nat) (th : Thread) (id : ThreadId) (x : Trap) (c : Context),
    s.wg? id.wg = some w → s.thread? id = some th → id.grp = g → th.isLive = true → th.wait = .running →
    (s.regionOf w).policy = 4 → x.cause.fate ≠ .none → x.cause.isTranslation = false → x.cause ≠ .haltRequest →
    s.ctx? w.ctx = some c → c.logBase ≠ 0 → (c.flprod - c.flcons).toNat < 2 ^ c.logSize →
    s0 = (((s.modThread id fun t => t.takeImage x).dropWaiting [id]).modGraph w.graph fun k => { k with faults := k.faults + 1 }) →
    let words : List Nat :=
      [x.cause.code.toNat * 2 ^ 56 + 4 * 2 ^ 53 + x.unit.toNat * 2 ^ 51 + x.acc.toNat * 2 ^ 49 + (s.regionOf w).index % 2 ^ 16 * 2 ^ 16 +
        w.node % 2 ^ 12 * 2 ^ 4 + g % 16,
       x.addr.toNat, th.pc.toNat, (((s.graph? w.graph).map Graph.graphid).getD 0).toNat * 2 ^ 32 + w.launch % 2 ^ 24 * 2 ^ 8 + 1,
       s.tick, c.nextSeq % 2 ^ 32 * 2 ^ 32 + 1, w.ctx, 0]
    s0.controlWrite w.ctx (c.logBase.toNat + 64 * (c.flprod.toNat % 2 ^ c.logSize)) (words.map (bytesLe 8)) = (s1, .ok ()) →
    let t := s.takeFault { hits := [(id, x)] }
    (t.thread? id).map Thread.fault =
      some { cause := x.cause.code, pc := th.pc, faddr := x.addr, acc := x.acc, unit := x.unit, aux := x.aux } ∧
    (t.thread? id).map Thread.regs = some th.regs ∧ (t.thread? id).map Thread.pc = some th.pc ∧
    (t.thread? id).map Thread.life = some .live ∧
    (t.grp? id.wg id.grp).map Group.stop = some (.parked c.nextSeq) ∧
    t.mem = s1.mem ∧ t.irqs = c.logVector :: s1.irqs ∧
    (t.ctx? w.ctx).map (fun y => (y.flprod, y.nextSeq)) = (s1.ctx? w.ctx).map (fun y => (y.flprod + 1, y.nextSeq + 1)) ∧
    (∃ v, t.services = v :: s1.services ∧ v.ctx = w.ctx ∧ v.seq = c.nextSeq ∧ v.groups = [(id.wg, id.grp)] ∧ v.count = 1)

/-- R329: each cause has its own code, none is 0, and the causes that software can service by resuming are those of the table's
park column. R330: the threads of a delivery stand in it once each, in the order of their GTIDs, so that its representative is the
one with the lowest. -/
def Sys2Proof.Rules.CauseCodesRule : Prop :=
  (∀ c d : Cause, c.code = d.code → c = d) ∧ (∀ c : Cause, c.code ≠ 0) ∧
  (∀ c : Cause, c.fate = .replay ↔ c = .haltRequest ∨ c.isTranslation = true) ∧
  (∀ c : Cause, c.fate = .skip ↔ c = .brokenBarrier ∨ c = .gangAbort ∨ c = .softwareTrap ∨ c = .breakpoint) ∧
  (∀ (w g : Nat) (hits : List (Nat × Trap)),
    (Delivery.ofGroup w g hits).ordered.Pairwise (fun a b => a.1.gtid < b.1.gtid) ∧
    ∀ id : ThreadId, id ∈ (Delivery.ofGroup w g hits).ordered.map Prod.fst ↔ id.wg = w ∧ id.grp = g ∧ id.gtid ∈ hits.map Prod.fst)

/-- R328 to R331, R338: a fault under the park policy. The thread keeps its registers and takes the image: the cause's code,
the PC of the group's first word, the fault address; its group stops; an entry of R331's eight words joins the fault log at
the place that the producer count names, the count and the sequence number go on by one, and the context's interrupt is
raised. Stated for one thread that no wait holds, a serviceable cause that is no translation fault, and a log with room whose
words the command processor can write (R279). R329: each cause has its own code, none is 0, and the causes that software can
service by resuming are those of the table's park column. R330: the threads of a delivery stand in it once each, in the order
of their GTIDs, so that its representative is the one with the lowest. -/
def Obligations.ParkedFaultAndCauses : Prop := ParkedFaultRule ∧ CauseCodesRule

/-! ### Prefix and hints -/

/-- R67, R76, R79 to R82: a prefix, a wide-immediate hint and a modifier hint join the words of the group in progress in each
thread, in the order that R67 allows; a stall hint stands between groups and replaces the stall counts not yet used. -/
def Obligations.GroupWords : Prop :=
  ∀ (s : State) (w g : Nat) (ts : List Nat), s.cur = some ⟨w, g, ts⟩ → ts.Nodup →
    (∀ t ∈ ts, ∃ v, s.view? w g t = some v) →
    ((∀ t ∈ ts, ∀ v, s.view? w g t = some v → v.t.words.pre = none) →
      let p : Prefix :=
        { mps := bf s.ir 22 4, mneg := bf s.ir 21 1, pol := bf s.ir 20 1, rnd := bf s.ir 17 3, cuse := bf s.ir 15 2, c := bf s.ir 8 7 }
      exec .prefixWord s = .next (s.lanes w g ts fun v => { v.t with words := { v.t.words with pre := some p } })) ∧
    ((∀ t ∈ ts, ∀ v, s.view? w g t = some v → v.t.words.pre = none ∧ v.t.words.modifier = none ∧ v.t.words.wides.length < 2) →
      exec .wideHint s = .next (s.lanes w g ts fun v =>
        { v.t with words := { v.t.words with wides := v.t.words.wides ++ [bf s.ir 0 25] } })) ∧
    ((∀ t ∈ ts, ∀ v, s.view? w g t = some v → v.t.words.pre = none ∧ v.t.words.modifier = none) →
      let m : Modifier := { sco := bf s.ir 20 3, ord := bf s.ir 18 2, cp := bf s.ir 16 2, nt := bf s.ir 15 1 }
      exec .modifierHint s = .next (s.lanes w g ts fun v => { v.t with words := { v.t.words with modifier := some m } })) ∧
    ((∀ t ∈ ts, ∀ v, s.view? w g t = some v → v.t.words = Words.none) →
      exec .stallHint s = .next (s.lanes w g ts fun v =>
        { v.t with pc := v.t.pc + 4, stalls := (List.range 6).map fun j => bf s.ir (4 * j) 4 }))

/-! ### Special values and status -/

/-- R36, R250, R252: `sysrd` reads the special value its selector names and `tick` the global tick, in every lane, or once for
a group into an s-register. R35, R57, R139, R252: `syswr` and `fflags` write the former value of the register to the
destination, and change it as the rule says. R34: what `fflags.ctl` makes of the status word: FTZ from bit 11 of A, RM from
bits 10:8 unless they hold 5 to 7, and every other bit, the sticky flags among them, as it was. -/
def Obligations.SpecialRegisters : Prop :=
  (∀ (s : State) (w g : Nat) (d : BitVec 7) (sel : BitVec 8),
    (∀ ts, s.Executes (instrForm (.sysrd d sel)) w g ts → isScalarDst d = false →
      exec (.sysrd d sel) s = .next (s.lanes w g ts (View.vectorResult d none (fun v => v.t) (specialValue s g sel)))) ∧
    (∀ ts, s.Executes (instrForm (.tick d)) w g ts → isScalarDst d = false →
      exec (.tick d) s = .next (s.lanes w g ts (View.vectorResult d none (fun v => v.t) (fun _ => BitVec.ofNat 64 s.tick)))) ∧
    (∀ gr pc ws v, s.Together (instrForm (.sysrd d sel)) w g gr pc ws → isScalarDst d = true →
      (gr.liveGtids.head?.bind fun t => s.view? w g t) = some v →
      exec (.sysrd d sel) s = .next (s.uniformResult w g gr d (specialValue s g sel v) 0)) ∧
    (∀ gr pc ws, s.Together (instrForm (.tick d)) w g gr pc ws → isScalarDst d = true →
      exec (.tick d) s = .next (s.uniformResult w g gr d (BitVec.ofNat 64 s.tick) 0))) ∧
  (∀ d a, ∀ r ∈ statuses d a, r.holds) ∧
  (∀ (tsw : BitVec 32) (x : Reg),
    (controlTsw tsw x).getLsbD 11 = x.getLsbD 11 ∧
    (bf (controlTsw tsw x) 8 3 = if (bf x 8 3).toNat ≤ 4 then bf x 8 3 else bf tsw 8 3) ∧
    (∀ i, i < 8 ∨ 11 < i → (controlTsw tsw x).getLsbD i = tsw.getLsbD i))

/-! ### What register instructions leave unchanged -/

/-- R21, R64, R77: the frame of the integer, float, status and conversion instructions that write a vector destination. Nothing
outside the threads that issue changes: the next state is the old one, every field of the module and of its workgroups and groups, with
only records of threads replaced, so that no byte of memory or of a scratchpad, shadow bank, record or L1, no write-through, tile,
table, barrier or gang register, engine, graph, queue, log, clock, stop, measurement or other module register and no s-register differs;
in a thread, no named register but the destination, no predicate, no record buffer, no port, no fault image; of the status word no
bit but the sticky flags, but for `fflags.ctl`, which leaves the bits that R34 reserves; IMODE only by `syswr` of it; SRG only by
`syswr` of it and by a conversion that rounds stochastically. -/
def Obligations.RegisterFrame : Prop :=
  ∀ (s t : State) (w g : Nat) (ts : List Nat) (i : Instr) (d : BitVec 7),
    ((∃ a b im m k q, ∃ r ∈ integers d a b im m k q, r.instr = i) ∨ (∃ a b, ∃ r ∈ floats d a b, r.instr = i) ∨
      (∃ a b p n, i = .isel d a b p n) ∨ (∃ a, ∃ r ∈ statuses d a, r.instr = i) ∨ (∃ sel, i = .sysrd d sel) ∨ i = .tick d ∨
      (∃ a p q r, i = .frnd d a p q r ∨ i = .fcvti d a p q r ∨ i = .icvtf d a p q r ∨ (i = .fcvt d a p q r ∧ q.toNat < 13))) →
    isScalarDst d = false → s.Executes (instrForm i) w g ts → exec i s = .next t →
    s.SameOutside t ∧
    (∀ id, ¬(id.wg = w ∧ id.grp = g ∧ id.gtid ∈ ts) → t.thread? id = s.thread? id) ∧
    (∀ k, (t.grp? w k).map Group.scalars = (s.grp? w k).map Group.scalars) ∧
    (∀ j ∈ ts, ∀ u u', s.thread? ⟨w, g, j⟩ = some u → t.thread? ⟨w, g, j⟩ = some u' →
      (∀ k, dstOf d ≠ .named k → u'.regs[k]? = u.regs[k]?) ∧ u'.preds = u.preds ∧ u'.recbuf = u.recbuf ∧
      u'.ports = u.ports ∧ u'.fault = u.fault ∧ u'.life = u.life ∧ u'.pc = u.nextPc ∧
      (u'.imode = u.imode ∨ ∃ a, i = .syswrImode d a) ∧
      (u'.srg = u.srg ∨ (∃ a, i = .syswrSrg d a) ∨ ∃ a p q, i = .fcvti d a p q 6 ∨ i = .icvtf d a p q 6 ∨ i = .fcvt d a p q 6) ∧
      (∀ k, 6 ≤ k → u'.tsw.getLsbD k = u.tsw.getLsbD k ∨ ∃ a, i = .fflagsCtl d a ∧ 8 ≤ k ∧ k ≤ 11) ∧
      (∀ k, k < 6 → u.tsw.getLsbD k = true → u'.tsw.getLsbD k = true ∨ ∃ a, i = .fflagsClr d a))


/-- R10, R21, R77: every integer, bit, compare, predicate, select, FP32, packed, dot, packing, conversion and status instruction
completes in every lane of an issue whose form's checks are passed: each thread goes on at the group after its own, and nothing but the
threads changes. (`addr` can trap: R106; a conversion to a Denusk type waits: R138.) -/
def Obligations.LaneForms : Prop :=
  ∀ (s : State) (w g : Nat) (ts : List Nat) (d a b : BitVec 7) (i : BitVec 12) (m : BitVec 19) (k : BitVec 5) (q : BitVec 6)
    (p c t u l x y : BitVec 4) (n : BitVec 1) (r : BitVec 3), isScalarDst d = false →
    (∀ e ∈ laneForms d a b i m k q p c t l x y n, s.Executes (instrForm e) w g ts → LanesComplete s e w g ts) ∧
    (∀ f h, fmtOfType t.toNat = some f → fmtOfType u.toNat = some h →
      ∀ e ∈ typedForms d a b p c t u y r, s.Executes (instrForm e) w g ts → LanesComplete s e w g ts)
/-! ### Lane collectives -/

/-- R118, R121, R122: the last arrival at a lane collective completes it. Each member receives its result, with variable
latency, in its named register or in the queue slot it reserved, and proceeds, in a weave with others that stand with it (R11). R123: a lane collective that writes an
s-register, in a group of at most 32 threads all of whose live threads its mask names, writes the result once and its members
proceed. -/
def Sys2Proof.Rules.CollectiveCompletesRule : Prop :=
  (∀ d a b, ∀ r ∈ collectives d a b, ∀ (s : State) (w g : Nat) (v : View) (m : Reg) (data : Nat → Member),
    Arrives s (instrForm r.instr) b w g v m → OthersStand v m → isScalarDst d = false →
    (∀ j, (data j).pos = j % 32) → (data v.gtid).data = v.read a → (data v.gtid).fourth = v.fourth →
    (∀ j ∈ maskMembers m, j ≠ v.gtid → ∀ u, v.grp.threads[j]? = some u → ∃ q, u.wait = .lane m (data j).data (data j).fourth q) →
    ∃ t, exec r.instr s = .next t ∧
      ∀ j ∈ maskMembers m, ∀ u, v.grp.threads[j]? = some u →
        ∃ k, t.thread? ⟨w, g, j⟩ = some { (if j = v.gtid then arriving d v.t else u).receive d
          (r.value ((maskMembers m).map data) (data j)) with weave := k }) ∧
  (∀ d a b, ∀ r ∈ collectives d a b, ∀ (s : State) (w g : Nat) (v : View) (m : Reg) (data : Nat → Member) (i : Nat) (rest : List Nat),
    Arrives s (instrForm r.instr) b w g v m → OthersStand v m → isScalarDst d = true → v.grp.threads.length ≤ 32 →
    maskMembers m = i :: rest → (∀ j ∈ v.grp.liveGtids, j ∈ maskMembers m) →
    (∀ j, (data j).pos = j % 32) → (data v.gtid).data = v.read a → (data v.gtid).fourth = v.fourth →
    (∀ j ∈ maskMembers m, j ≠ v.gtid → ∀ u, v.grp.threads[j]? = some u → ∃ q, u.wait = .lane m (data j).data (data j).fourth q) →
    ∃ t, exec r.instr s = .next t ∧
      (t.grp? w g).map Group.scalars =
        some (v.grp.scalars.setIfInBounds (d.toNat - 0x50) (r.value ((maskMembers m).map data) (data i))) ∧
      ∀ j ∈ maskMembers m, ∀ u, v.grp.threads[j]? = some u → (t.thread? ⟨w, g, j⟩).map Thread.pc = some u.nextPc)

/-- R118: a thread that arrives at a lane collective before some other member waits with its mask word, its operand and its
fourth operand, and reserves its queue slot; nothing else changes. R117, R119, R329: a mask word that fails the checks of R117
is the collective-mask fault, whose fault address is its low 34 bits; one that names a thread no longer live is the
collective-mismatch fault. R121: the word that `ballot` and `match` build has bit p set when a member at position p passes the
test, and no other. -/
def Sys2Proof.Rules.CollectiveWaitsRule : Prop :=
  (∀ d a b, ∀ r ∈ collectives d a b, ∀ (s : State) (w g : Nat) (v : View) (m : Reg),
    Arrives s (instrForm r.instr) b w g v m →
    (∀ j ∈ maskMembers m, j ≠ v.gtid → ∀ u, v.grp.threads[j]? = some u →
      u.wait.mask? = none ∨ (u.pc = v.t.pc ∧ u.wait.mask? = some m)) →
    (∃ j ∈ maskMembers m, j ≠ v.gtid ∧ ∃ u, v.grp.threads[j]? = some u ∧ u.wait.mask? = none) →
    exec r.instr s = .next (s.setThread ⟨w, g, v.gtid⟩
      { (if (instrForm r.instr).rule ≠ .absent then arriving d v.t else v.t) with
        wait := .lane m (v.read a) v.fourth (decide (dstOf d = .push)) })) ∧
  (∀ d a b, ∀ r ∈ collectives d a b, ∀ (s : State) (w g : Nat) (v : View), s.Alone (instrForm r.instr) w g v →
    (maskBad (v.read b) v.gtid v.grp.threads.length = true →
      exec r.instr s = .next (s.takeFaults
        [{ hits := [(⟨w, g, v.gtid⟩, { cause := .collectiveMask, addr := BitVec.ofNat 64 ((v.read b).toNat % 2 ^ 34) })] }])) ∧
    (maskBad (v.read b) v.gtid v.grp.threads.length = false →
      (∃ j ∈ maskMembers (v.read b), ∀ u, v.grp.threads[j]? = some u → u.isLive = false) →
      exec r.instr s = .next (s.takeFaults
        [{ hits := [(⟨w, g, v.gtid⟩, { cause := .collectiveMismatch, addr := v.t.pc.setWidth 64 })] }]))) ∧
  (∀ (ms : List Member) (p : Member → Bool) (k : Nat), k < 64 →
    (memberBits ms p).getLsbD k = ms.any fun m => p m && m.pos == k)

/-- R118, R121, R122: the last arrival at a lane collective completes it. Each member receives its result, with variable
latency, in its named register or in the queue slot it reserved, and proceeds, in a weave with others that stand with it
(R11). R123: a lane collective that writes an s-register, in a group of at most 32 threads all of whose live threads its mask
names, writes the result once and its members proceed. R118: a thread that arrives at a lane collective before some other
member waits with its mask word, its operand and its fourth operand, and reserves its queue slot; nothing else changes. R117,
R119, R329: a mask word that fails the checks of R117 is the collective-mask fault, whose fault address is its low 34 bits;
one that names a thread no longer live is the collective-mismatch fault. R121: the word that `ballot` and `match` build has
bit p set when a member at position p passes the test, and no other. -/
def Obligations.LaneCollectives : Prop := CollectiveCompletesRule ∧ CollectiveWaitsRule

/-- R138: a thread that comes to a Denusk conversion waits with its operand until every live thread of its block of 32 has come
there. The last to come completes it for the block: the operand of each active thread is an element, rounded under that thread's mode
or by a draw of its generator, every other element is padding; each active thread receives the block's header above its own code and
raises the flags of its own element, and the others only go on. -/
def Obligations.DenuskEncode : Prop :=
  ∀ (s : State) (w g : Nat) (v : View) (d a : BitVec 7) (p q : BitVec 4) (r : BitVec 3) (f : Nat → Reg × Bool),
    s.Alone (instrForm (.fcvt d a p q r)) w g v → isDenuskType q = true → v.t.isLive = true →
    let members := v.grp.liveGtids.filter fun j => j / 32 = v.gtid / 32
    let th (j : Nat) : Thread := if j = v.gtid then arriving d v.t else v.grp.threads.getD j v.t
    (f v.gtid).2 = v.t.maskTrue v.t.words → ((f v.gtid).2 = true → (f v.gtid).1 = v.read a) →
    ((f v.gtid).2 = true → (∃ j ∈ members, j ≠ v.gtid ∧ (th j).wait = .running) →
      (∀ j ∈ members, j ≠ v.gtid → (th j).wait = .running ∨ (∃ x b k, (th j).wait = .denusk x b k) ∧ (th j).pc = v.t.pc) →
      exec (.fcvt d a p q r) s = .next (s.setThread ⟨w, g, v.gtid⟩
        { arriving d v.t with wait := .denusk (v.read a) true (decide (dstOf d = .push)) })) ∧
    ((∀ j ∈ members, j ≠ v.gtid → (th j).pc = v.t.pc ∧ ∃ k, (th j).wait = .denusk (f j).1 (f j).2 k) →
      let element (k : Nat) : FVal × ElemRnd :=
        let i := 32 * (v.gtid / 32) + k
        if i ∈ members ∧ (f i).2 = true then
          ((th i).floatIn p (f i).1, match (th i).convRnd r with | some m => .mode m | none => .draw (srgNext (th i).srg))
        else (.fin false 0 0, .mode .rne)
      let block := denuskEncode (q == 14) ((List.range 32).map element)
      ∃ t, exec (.fcvt d a p q r) s = .next t ∧ s.SameOutside t ∧ ∀ j ∈ members,
        ((f j).2 = true → ∃ c fl, block.2[j % 32]? = some (c, fl) ∧ t.thread? ⟨w, g, j⟩ =
          some (({ (th j) with srg := if r = 6 then srgNext (th j).srg else (th j).srg }.raise fl).receive d
            (BitVec.ofNat 64 (block.1 * 65536 + c)))) ∧
        ((f j).2 = false → (t.thread? ⟨w, g, j⟩).map (fun x => (x.pc, x.wait, x.tsw, x.srg)) =
          some ((th j).nextPc, .running, (th j).tsw, (th j).srg)))

/-! ### Loads and stores -/

/-- R38, R39, R142, R143: a load from the scratchpad window (space 1) or from the launch's records (space 2) at an aligned
address within the extent gives the bytes there, once what was sent to the window has landed if it is an acquire that makes that land,
extended by its size code, and an acquire is made when it is one. R255: the value of a load that the thread has performed ahead of its
place is what it read then. R142, R143,
R271, R279: a load of a global address that translates to this package's memory, when no write-through is pending and
the workgroup's L1 holds nothing that its home does not, gives the bytes at the home; no byte of memory changes. R281: one whose
bucket is being handed over, and that L1 cannot serve, issues again. -/
def Obligations.Loads : Prop :=
  (∀ d a b sp sz sc o k, ∀ l ∈ loads d a b sp sz sc o k, ∀ (s : State) (w g : Nat) (v : View),
    s.Alone (instrForm l.instr) w g v → v.t.maskTrue v.t.words = true → (loadAddr l.instr v).toNat % bytesOf sz = 0 →
    let after := match l.acq with | none => s | some c => s.acquire w c.toNat
    let window := ((after.wg? w).map Workgroup.spad).getD []
    let at_ := (loadAddr l.instr v).toNat
    (sp = 1 → l.acq = none → v.t.words.modifier = none → ∀ bs : List Byte, bs.length = bytesOf sz →
      v.t.early = [{ global := false, addr := at_, home := false, bytes := bs }] → exec l.instr s = .next (s.setThread ⟨w, g, v.gtid⟩
        ({ v.t with early := [] }.writeDest d none (loaded sz bs)).step)) ∧
    (v.t.early = [] → sp = 1 → at_ + bytesOf sz ≤ v.wg.spadq * 196608 → exec l.instr s = .next (after.setThread ⟨w, g, v.gtid⟩
      (v.t.writeDest d none (loaded sz (readBytes window at_ (bytesOf sz)))).step)) ∧
    (v.t.early = [] → sp = 2 → at_ + bytesOf sz ≤ v.wg.per * v.wg.recSize →
      exec l.instr s = .next (after.setThread ⟨w, g, v.gtid⟩ (v.t.writeDest d none (loaded sz ((List.range (bytesOf sz)).map fun j =>
        if at_ + j < v.wg.recCount * v.wg.recSize then v.wg.records.getD (at_ + j) 0 else 0))).step))) ∧
  (∀ d a b sz sc o k, ∀ l ∈ loads d a b 0 sz sc o k, ∀ (s s1 : State) (w g pa : Nat) (v : View),
    s.Alone (instrForm l.instr) w g v → v.t.maskTrue v.t.words = true → (loadAddr l.instr v).toNat % bytesOf sz = 0 →
    (loadAddr l.instr v).toNat < 2 ^ 56 → v.t.words.modifier = none → Settled s → Coherent s v.wg →
    v.t.early = [] → v.t.request = none → s.handovers = [] →
    s.translate v.wg.ctx (loadAddr l.instr v).toNat .read = (s1, .ok pa) → s1.place pa = .memory →
    ∃ t, exec l.instr s = .next t ∧ t.mem = s.mem ∧
      t.thread? ⟨w, g, v.gtid⟩ = some (v.t.writeDest d none (loaded sz (readBytes s.mem pa (bytesOf sz)))).step) ∧
  (∀ d a b sz sc o k, ∀ l ∈ loads d a b 0 sz sc o k, ∀ (s s1 : State) (w g pa : Nat) (v : View),
    s.Alone (instrForm l.instr) w g v → v.t.maskTrue v.t.words = true → (loadAddr l.instr v).toNat % bytesOf sz = 0 →
    (loadAddr l.instr v).toNat < 2 ^ 56 → v.wg.l1 = [] → s.handing (s.bucketKey v.wg.ctx pa) = true →
    s.translate v.wg.ctx (loadAddr l.instr v).toNat .read = (s1, .ok pa) → s.place pa = .memory →
    exec l.instr s = .next (s.setThread ⟨w, g, v.gtid⟩ v.t.reissue))

/-- R38, R39, R144, R200: a store to the scratchpad window at an aligned address within it writes the bytes there and no
others, in its workgroup alone; a release comes before it when it is one. R40, R156: `xst` writes to the shadow bank of the
workgroup of a rank of the cluster launch; a rank outside the launch is the cluster-rank fault. -/
def Sys2Proof.Rules.ScratchStoresRule : Prop :=
  (∀ d a b sz sc o k, ∀ l ∈ stores d a b 1 sz sc o k, ∀ (s : State) (w g : Nat) (v : View),
    s.Alone (instrForm l.instr) w g v → v.t.maskTrue v.t.words = true → (loadAddr l.instr v).toNat % bytesOf sz = 0 →
    (loadAddr l.instr v).toNat + bytesOf sz ≤ v.wg.spadq * 196608 → Memory.wf v.wg.spad = true →
    let before := match l.acq with | none => s | some c => s.release w c.toNat false
    ∃ t, exec l.instr s = .next t ∧ t.mem = before.mem ∧ t.hostMem = s.hostMem ∧
      (t.thread? ⟨w, g, v.gtid⟩).map Thread.pc = some v.t.nextPc ∧ (t.thread? ⟨w, g, v.gtid⟩).map Thread.regs = some v.t.regs ∧
      ∃ x, t.wg? w = some x ∧
        (∀ j, j < bytesOf sz →
          Sparse.get x.spad ((loadAddr l.instr v).toNat + j) = BitVec.ofNat 8 ((v.read d).toNat / 2 ^ (8 * j))) ∧
        (∀ y, y < (loadAddr l.instr v).toNat ∨ (loadAddr l.instr v).toNat + bytesOf sz ≤ y →
          Sparse.get x.spad y = Sparse.get v.wg.spad y) ∧
        Memory.wf x.spad = true ∧ x.shadow = v.wg.shadow ∧
        ∀ u, u ≠ w → (t.wg? u).map (fun z => (z.spad, z.shadow)) = (s.wg? u).map (fun z => (z.spad, z.shadow))) ∧
  (∀ (s : State) (w g : Nat) (v : View) (d a : BitVec 7) (peer : BitVec 2) (sz : BitVec 3) (o : BitVec 7),
    s.Alone (instrForm (.xst d a peer sz o)) w g v → v.t.maskTrue v.t.words = true →
    let off := (v.read a + BitVec.ofInt 64 (o.toInt * bytesOf sz)).toNat
    (v.wg.launchSize ≤ peer.toNat → exec (.xst d a peer sz o) s = .next (s.takeFault
      { hits := [(⟨w, g, v.gtid⟩, { cause := .clusterRank, addr := BitVec.ofNat 64 peer.toNat })] })) ∧
    (∀ p y, peer.toNat < v.wg.launchSize → off % bytesOf sz = 0 → off + bytesOf sz ≤ v.wg.exch * 196608 →
      s.peerOf v.wg peer.toNat = some p → s.wg? p = some y → Memory.wf y.shadow = true →
      ∃ t x, exec (.xst d a peer sz o) s = .next t ∧ t.mem = s.mem ∧ t.wg? p = some x ∧
        (t.thread? ⟨w, g, v.gtid⟩).map Thread.pc = some v.t.nextPc ∧ x.spad = y.spad ∧
        (∀ j, j < bytesOf sz → Sparse.get x.shadow (off + j) = BitVec.ofNat 8 ((v.read d).toNat / 2 ^ (8 * j))) ∧
        (∀ z, z < off ∨ off + bytesOf sz ≤ z → Sparse.get x.shadow z = Sparse.get y.shadow z) ∧
        ∀ u, u ≠ p → (t.wg? u).map (fun z => (z.spad, z.shadow)) = (s.wg? u).map (fun z => (z.spad, z.shadow))))

/-- R144, R272: a plain store to a global address that translates to this package's memory becomes a write-through of its
workgroup, after those already pending, with the generation of its map and the next sequence number of its bucket (R281), the scope
of the release fences that its thread has executed (R261) and its group and moment; no byte of any memory changes until its home performs it. R144, R146, R273: a release
store of scope `.clu` or wider, in a context that is not in lazy-release mode, performs every write-through of its workgroup
before its own joins. -/
def Sys2Proof.Rules.GlobalStoresRule : Prop :=
  (∀ d a b sz sc o k, ∀ l ∈ stores d a b 0 sz sc o k, l.acq = none → ∀ (s s1 : State) (w g pa : Nat) (v : View),
    s.Alone (instrForm l.instr) w g v → v.t.maskTrue v.t.words = true → (loadAddr l.instr v).toNat % bytesOf sz = 0 →
    (loadAddr l.instr v).toNat < 2 ^ 56 →
    s.translate v.wg.ctx (loadAddr l.instr v).toNat .write = (s1, .ok pa) → s1.place pa = .memory →
    ∃ t x, exec l.instr s = .next t ∧ t.mem = s.mem ∧ t.hostMem = s.hostMem ∧
      (t.thread? ⟨w, g, v.gtid⟩).map Thread.pc = some v.t.nextPc ∧ t.wg? w = some x ∧
      x.writes = v.wg.writes ++ [{ addr := pa, bytes := (List.range (bytesOf sz)).map (fun j => BitVec.ofNat 8 ((v.read d).toNat / 2 ^ (8 * j))),
                                   owns := decide (4 ≤ bytesOf sz) && !(match v.t.words.modifier with | some m => m.cp = 2 || m.nt = 1 | none => false),
                                   gen := s.generationOf (s.mapOf v.wg.ctx),
                                   seq := v.wg.seqTo (s.bucketKey v.wg.ctx pa) + 1, sent := s.tick,
                                   rel := v.t.fenced, grp := g, moment := s.moment }]) ∧
  (∀ (s s1 : State) (w g pa : Nat) (v : View) (d a : BitVec 7) (sz sc : BitVec 3) (o : BitVec 4),
    s.Alone (instrForm (.stRel d a 0 sz sc o)) w g v → v.t.maskTrue v.t.words = true →
    (loadAddr (.stRel d a 0 sz sc o) v).toNat % bytesOf sz = 0 → (loadAddr (.stRel d a 0 sz sc o) v).toNat < 2 ^ 56 →
    2 ≤ sc.toNat → s.lazyCtx v.wg.ctx = false →
    (s.drainAll w).translate v.wg.ctx (loadAddr (.stRel d a 0 sz sc o) v).toNat .write = (s1, .ok pa) → s1.place pa = .memory →
    ∃ t x, exec (.stRel d a 0 sz sc o) s = .next t ∧ t.mem = (s.drainAll w).mem ∧ t.wg? w = some x ∧
      x.writes.map (fun y => (y.addr, y.bytes)) =
        [(pa, (List.range (bytesOf sz)).map fun j => BitVec.ofNat 8 ((v.read d).toNat / 2 ^ (8 * j)))])

/-- R38, R39, R144, R200: a store to the scratchpad window at an aligned address within it writes the bytes there and no
others, in its workgroup alone; a release comes before it when it is one. R40, R156: `xst` writes to the shadow bank of the
workgroup of a rank of the cluster launch; a rank outside the launch is the cluster-rank fault. R144, R272: a plain store to
a global address that translates to this package's memory becomes a write-through of its workgroup, after those already
pending, with the generation of its map and the next sequence number of its bucket (R281), the scope of the release fences
that its thread has executed (R261) and its group and moment; no byte of any memory changes until its home performs it. R144,
R146, R273: a release store of scope `.clu` or wider, in a context that is not in lazy-release mode, performs every
write-through of its workgroup before its own joins. -/
def Obligations.Stores : Prop := ScratchStoresRule ∧ GlobalStoresRule

/-- R39, R141: where loads and stores trap, `ld.acq` and `st.rel` among them: a global address with a bit above bit 55 is the
non-canonical-address fault, else an address that is not a multiple of the access size the misaligned-address fault, else a scratchpad
access beyond the window the scratchpad-range fault and a load from the record space beyond the launch's records the window-range
fault; a store to the record space the read-only-space fault. The fault address is the access's. An acquire has dropped what its L1
holds, and a release has performed earlier write-throughs, by then. -/
def Sys2Proof.Rules.AddressTrapsRule : Prop :=
  ∀ d a b sp sz sc o k, ∀ l ∈ loads d a b sp sz sc o k ++ stores d a b sp sz sc o k,
    ∀ (s : State) (w g : Nat) (v : View), s.Alone (instrForm l.instr) w g v → v.t.maskTrue v.t.words = true →
    let x := loadAddr l.instr v
    let loads_ : Prop := l ∈ loads d a b sp sz sc o k
    let z (u : State) : Prop := (l.acq = none ∧ u = s) ∨
      ∃ c, l.acq = some c ∧ ((loads_ ∧ u = s.acquireOf w c.toNat) ∨ (¬loads_ ∧ u = s.release w c.toNat false))
    let traps (c : Cause) : Prop :=
      ∃ u, z u ∧ exec l.instr s = .next (u.takeFault { hits := [(⟨w, g, v.gtid⟩, { cause := c, addr := x })] })
    (sp = 0 → 2 ^ 56 ≤ x.toNat → traps .nonCanonical) ∧
    (¬(sp = 0 ∧ 2 ^ 56 ≤ x.toNat) → x.toNat % bytesOf sz ≠ 0 → traps .misalignedAddress) ∧
    (v.t.early = [] → sp = 1 → x.toNat % bytesOf sz = 0 → v.wg.spadq * 196608 < x.toNat + bytesOf sz → traps .scratchpadRange) ∧
    (sp = 2 → x.toNat % bytesOf sz = 0 → l ∈ stores d a b sp sz sc o k → traps .readOnlySpace) ∧
    (sp = 2 → x.toNat % bytesOf sz = 0 → loads_ → v.wg.per * v.wg.recSize < x.toNat + bytesOf sz → traps .windowRange)

/-- R147 to R149: an atomic without ordering, at an aligned address that translates to this package's memory, reads the old value
at the home and stores the new one there, all in one step; every byte outside its operand is as before. An `atom` writes the old
value to its destination, an `ared` writes none. R281: one whose bucket is being handed over issues again. -/
def Obligations.Atomics : Prop :=
  ∀ d a b t q, ∀ r ∈ atomics d a b t q, ∀ (s s1 : State) (w g pa : Nat) (v : View),
    s.Alone (instrForm r.instr) w g v → v.t.maskTrue v.t.words = true → v.t.words.modifier = none →
    (v.read a).toNat % r.bytes = 0 → (v.read a).toNat < 2 ^ 56 → Settled s → Memory.wf s.mem = true →
    s.translate v.wg.ctx (v.read a).toNat .modify = (s1, .ok pa) → s1.place pa = .memory →
    (s.handing (s.bucketKey v.wg.ctx pa) = true → s.place pa = .memory →
      exec r.instr s = .next (s.setThread ⟨w, g, v.gtid⟩ v.t.reissue)) ∧
    (v.t.early = [] → v.t.request = none → s.handovers = [] →
    let old := leNat (readBytes s.mem pa r.bytes)
    let new := r.new old ((v.read b).toNat % 2 ^ (8 * r.bytes)) (v.fourth.toNat % 2 ^ (8 * r.bytes))
    ∃ x, exec r.instr s = .next x ∧
      leNat (readBytes x.mem pa r.bytes) = new % 2 ^ (8 * r.bytes) ∧
      (∀ y, y < pa ∨ pa + r.bytes ≤ y → Sparse.get x.mem y = Sparse.get s.mem y) ∧ Memory.wf x.mem = true ∧ x.hostMem = s.hostMem ∧
      x.thread? ⟨w, g, v.gtid⟩ = some (match r.dst with
        | some e => (v.t.writeDest e none (BitVec.ofNat 64 old)).step
        | none => v.t.step))

/-- R77, R141: in an inactive lane a load, a store or an atomic makes no access: the thread follows R25 and R77 and nothing else
changes. -/
def Sys2Proof.Rules.InactiveAccessesRule : Prop :=
  ∀ (s : State) (w g : Nat) (v : View) (d a b : BitVec 7) (sp : BitVec 2) (sz sc : BitVec 3) (o : BitVec 7) (k : BitVec 4)
    (t : BitVec 2) (q : BitVec 1), v.t.maskTrue v.t.words = false →
    (∀ l ∈ loads d a b sp sz sc o k, s.Alone (instrForm l.instr) w g v →
      exec l.instr s = .next (s.setThread ⟨w, g, v.gtid⟩ (v.inactiveDest d none).step)) ∧
    (∀ l ∈ stores d a b sp sz sc o k, s.Alone (instrForm l.instr) w g v →
      exec l.instr s = .next (s.setThread ⟨w, g, v.gtid⟩ v.t.step)) ∧
    (∀ r ∈ atomics d a b t q, s.Alone (instrForm r.instr) w g v →
      exec r.instr s = .next (s.setThread ⟨w, g, v.gtid⟩ (match r.dst with
        | some e => (v.inactiveDest e none).step
        | none => v.t.step)))

/-- R39, R141: where loads and stores trap, `ld.acq` and `st.rel` among them: a global address with a bit above bit 55 is the
non-canonical-address fault, else an address that is not a multiple of the access size the misaligned-address fault, else a
scratchpad access beyond the window the scratchpad-range fault and a load from the record space beyond the launch's records
the window-range fault; a store to the record space the read-only-space fault. The fault address is the access's. An acquire
has dropped what its L1 holds, and a release has performed earlier write-throughs, by then. R77, R141: in an inactive lane a
load, a store or an atomic makes no access: the thread follows R25 and R77 and nothing else changes. -/
def Obligations.AccessLimits : Prop := AddressTrapsRule ∧ InactiveAccessesRule

/-! ### Compressing stores and expanding loads -/

/-- R158, R159: the last arrival at a compressing store stores the active members' data, in ascending position, at successive
elements from the first active member's base; every member then proceeds with PCNT 0. R158, R160: the last arrival at an
expanding load gives the active members, in ascending position, the successive elements from the first active member's base. -/
def Obligations.CompressExpand : Prop :=
  (∀ (s : State) (w g pa n : Nat) (v : View) (m : Reg) (d a b : BitVec 7) (f : Nat → Supplied) (i : Instr),
    (i = .stc32 d a b ∧ n = 4) ∨ (i = .stc64 d a b ∧ n = 8) →
    Arrives s (instrForm i) b w g v m → OthersSupply v m f → v.t.pcnt = 0 →
    f v.gtid = ⟨v.read a, v.read d, v.t.maskTrue v.t.words⟩ →
    ∀ e es, actives (maskMembers m) f = e :: es → (f e).base.toNat % n = 0 → (f e).base.toNat < 2 ^ 56 →
    (∀ k, k < (e :: es).length → s.translate v.wg.ctx ((f e).base + BitVec.ofNat 64 (k * n)).toNat .write = (s, .ok (pa + k * n)) ∧
      s.place (pa + k * n) = .memory ∧ (f e).base.toNat + k * n + n ≤ 2 ^ 56) →
    ∃ t x, exec i s = .next t ∧ t.mem = s.mem ∧ t.wg? w = some x ∧
      x.writes.map (fun y => (y.addr, y.bytes)) = v.wg.writes.map (fun y => (y.addr, y.bytes)) ++
        (e :: es).zipIdx.map (fun y => (pa + y.2 * n, bytesLe n (f y.1).data.toNat)) ∧
      ∀ j ∈ maskMembers m, ∀ u, v.grp.threads[j]? = some u →
        (t.thread? ⟨w, g, j⟩).map (fun y => (y.pc, y.pcnt)) = some (u.nextPc, 0)) ∧
  (∀ (s : State) (w g pa n : Nat) (v : View) (m : Reg) (d a b : BitVec 7) (f : Nat → Supplied) (i : Instr),
    (i = .lde32 d a b ∧ n = 4) ∨ (i = .lde64 d a b ∧ n = 8) →
    Arrives s (instrForm i) b w g v m → OthersSupply v m f →
    f v.gtid = ⟨v.read a, v.fillValue, v.t.maskTrue v.t.words⟩ → Settled s → Coherent s v.wg → v.t.words.modifier = none →
    v.t.early = [] → s.handovers = [] → v.t.request = none →
    (∀ j ∈ maskMembers m, ∀ u, v.grp.threads[j]? = some u → u.words.modifier = none ∧ u.early = [] ∧ u.request = none) →
    ∀ e es, actives (maskMembers m) f = e :: es → (f e).base.toNat % n = 0 → (f e).base.toNat < 2 ^ 56 →
    (∀ k, k < (e :: es).length → s.translate v.wg.ctx ((f e).base + BitVec.ofNat 64 (k * n)).toNat .read = (s, .ok (pa + k * n)) ∧
      s.place (pa + k * n) = .memory ∧ (f e).base.toNat + k * n + n ≤ 2 ^ 56) →
    ∃ t, exec i s = .next t ∧ t.mem = s.mem ∧
      ∀ k j u, (e :: es)[k]? = some j → v.grp.threads[j]? = some u →
        t.thread? ⟨w, g, j⟩ = some ((if j = v.gtid then arriving d v.t else u).receive d
          (BitVec.ofNat 64 (leNat (readBytes s.mem (pa + k * n) n)))))

/-! ### Fences, cache maintenance, barriers, syncs -/

/-- R146, R273, R274: a fence of scope `.clu` or wider, outside lazy-release mode. As a release it leaves its workgroup no
write-through pending; as an acquire it leaves its L1 no word that it does not own, nothing sent to its window that has not landed,
and its thread no load performed early (R255); a release fence makes the thread's later writes writes of a release at its scope or a
wider one (R261). Below `.clu` a fence changes no memory, L1 or write-through; as an acquire at `.wg` it orders its group's later commands
after what was written before (R226). R268: in lazy-release mode
a `fence.rel` below `.sys` waits for nothing, a full fence and one at `.sys` for every write-through. R161,
R276: `pref` and `cinv` change no byte of memory; `cinv` drops from L1 the words of its range that the workgroup does not own and
no others; `cwb` leaves no write-through of its range pending, for a range longer than 0x4000_0000 bytes none at all, and of length 0
performs none; and each thread
proceeds, whatever the address (`pref` while no bucket of the slice map is being handed over, R281). That `icinv` has nothing to discard is the model's choice (DESIGN CHOICE: notes/assumptions/9). -/
def Obligations.FencesAndCaches : Prop :=
  (∀ (s : State) (w g : Nat) (v : View) (sc : BitVec 3) (i : Instr) (acq rel : Bool),
    (i = .fence sc ∧ acq = true ∧ rel = true) ∨ (i = .fenceAcq sc ∧ acq = true ∧ rel = false) ∨
      (i = .fenceRel sc ∧ acq = false ∧ rel = true) →
    s.Alone (instrForm i) w g v → s.lazyCtx v.wg.ctx = false →
    let after : Thread := { v.t with early := if acq then [] else v.t.early
                                     fenced := if rel then some (max sc.toNat (v.t.fenced.getD 0)) else v.t.fenced }.step
    ∃ t x, exec i s = .next t ∧ t.wg? w = some x ∧ t.thread? ⟨w, g, v.gtid⟩ = some after ∧
      (sc.toNat < 2 → t = (if acq then s.acquire w sc.toNat else s).setThread ⟨w, g, v.gtid⟩ after) ∧
      (2 ≤ sc.toNat → rel = true → x.writes = [] ∧ t.mem = (s.drainAll w).mem) ∧
      (2 ≤ sc.toNat → rel = false → x.writes = v.wg.writes ∧ t.mem = s.mem) ∧
      (2 ≤ sc.toNat → acq = true → x.inbound = [] ∧ ∀ y ∈ x.l1, y.owned = true)) ∧
  (∀ (s : State) (w g : Nat) (v : View) (sc : BitVec 3), s.lazyCtx v.wg.ctx = true →
    (s.Alone (instrForm (.fenceRel sc)) w g v → sc.toNat < 5 →
      exec (.fenceRel sc) s = .next (s.setThread ⟨w, g, v.gtid⟩
        { v.t with fenced := some (max sc.toNat (v.t.fenced.getD 0)) }.step)) ∧
    (∀ i, (i = .fence sc ∧ 2 ≤ sc.toNat) ∨ (i = .fenceRel sc ∧ sc.toNat = 5) → s.Alone (instrForm i) w g v →
      ∃ t x, exec i s = .next t ∧ t.wg? w = some x ∧ x.writes = [] ∧ t.mem = (s.drainAll w).mem)) ∧
  (∀ (s : State) (w g : Nat) (v : View) (a b : BitVec 7) (sc : BitVec 3),
    (s.Alone (instrForm (.pref a)) w g v → v.wg.writes = [] → s.handovers = [] → v.t.request = none → ∃ t, exec (.pref a) s = .next t ∧ t.mem = s.mem ∧ t.hostMem = s.hostMem ∧
      t.thread? ⟨w, g, v.gtid⟩ = some v.t.step) ∧
    (s.Alone (instrForm (.cinv a b)) w g v → ∃ t x, exec (.cinv a b) s = .next t ∧ t.mem = s.mem ∧ t.wg? w = some x ∧
      (∃ l, t.thread? ⟨w, g, v.gtid⟩ = some { v.t with early := l }.step ∧ ∀ e, e ∈ l ↔ e ∈ v.t.early ∧
        (e.global = true → s.inRange v.wg.ctx (v.read a) (v.read b).toNat e.addr e.bytes.length = false)) ∧
      (∀ y, y ∈ x.l1 ↔ y ∈ v.wg.l1 ∧
        (y.owned = false → s.inRange v.wg.ctx (v.read a) (v.read b).toNat (4 * y.addr) 4 = false))) ∧
    (s.Alone (instrForm (.cwb sc a b)) w g v → ∃ t x, exec (.cwb sc a b) s = .next t ∧ t.wg? w = some x ∧
      t.thread? ⟨w, g, v.gtid⟩ = some v.t.step ∧
      (∀ y ∈ x.writes, y ∈ v.wg.writes ∧ s.inRange v.wg.ctx (v.read a) (v.read b).toNat y.addr y.bytes.length = false) ∧
      (0x40000000 < (v.read b).toNat → x.writes = [] ∧ t.mem = (s.drainAll w).mem) ∧
      ((v.read b).toNat = 0 → x.writes = v.wg.writes ∧ t.mem = s.mem)) ∧
    (s.Alone (instrForm (.icinv sc a b)) w g v →
      exec (.icinv sc a b) s = .next (s.setThread ⟨w, g, v.gtid⟩ v.t.step)))

/-- R151: `bar.arm` arms an unarmed or broken barrier register with an expected count and byte count, disarms it with a count of
0, leaves one armed with the same count as it is, and traps in the other cases: a count or byte count too large; a count of 0 on an
unbroken barrier that has counted arrivals or bytes; another count on an armed one. The phase is kept. -/
def Sys2Proof.Rules.BarrierArmRule : Prop :=
  ∀ (s : State) (w g : Nat) (v : View) (r : BitVec 4) (a b : BitVec 7), s.Alone (instrForm (.barArm r a b)) w g v →
    let x := v.wg.barrier r
    let e := (v.read a).toNat
    let y := (v.read b).toNat
    let becomes (z : Barrier) : Prop :=
      exec (.barArm r a b) s = .next ((s.setBarrier w r z).setThread ⟨w, g, v.gtid⟩ v.t.step)
    let traps (c : Cause) : Prop := exec (.barArm r a b) s =
      .next (s.takeFault { hits := [(⟨w, g, v.gtid⟩, { cause := c, addr := BitVec.ofNat 64 r.toNat })] })
    (4095 < e ∨ 2 ^ 24 - 1 < y → traps .barrierCount) ∧
    (e = 0 → y ≤ 2 ^ 24 - 1 → (x.broken = true ∨ (x.arrive = 0 ∧ x.bytesArr = 0)) →
      becomes { armed := false, phase := x.phase, broken := false, expect := 0, arrive := 0, bytesExp := 0, bytesArr := 0 }) ∧
    (e = 0 → y ≤ 2 ^ 24 - 1 → x.broken = false → (x.arrive ≠ 0 ∨ x.bytesArr ≠ 0) → traps .barrierConflict) ∧
    (1 ≤ e → e ≤ 4095 → y ≤ 2 ^ 24 - 1 → (x.armed = false ∨ x.broken = true) →
      becomes { armed := true, phase := x.phase, broken := false, expect := e, arrive := 0, bytesExp := y, bytesArr := 0 }) ∧
    (1 ≤ e → e ≤ 4095 → y ≤ 2 ^ 24 - 1 → x.armed = true → x.broken = false → x.expect = e → becomes x) ∧
    (1 ≤ e → e ≤ 4095 → y ≤ 2 ^ 24 - 1 → x.armed = true → x.broken = false → x.expect ≠ e → traps .barrierConflict)

/-- R152, R153: `bar.arrive` at an armed, unbroken barrier that it does not overrun counts its arrival, after a release at its
scope, and proceeds; the arrival that completes the phase passes every waiter for that phase. Unarmed, broken and overrun
barriers, and a count outside 1 to 4,095, are its faults. -/
def Sys2Proof.Rules.BarrierArriveRule : Prop :=
  ∀ (s : State) (w g : Nat) (v : View) (sc : BitVec 3) (r : BitVec 4) (a : BitVec 7),
    s.Alone (instrForm (.barArrive sc r a)) w g v →
    let x := v.wg.barrier r
    let n := (v.read a).toNat
    let traps (c : Cause) : Prop := exec (.barArrive sc r a) s =
      .next (s.takeFault { hits := [(⟨w, g, v.gtid⟩, { cause := c, addr := BitVec.ofNat 64 r.toNat })] })
    (n = 0 ∨ 4095 < n → traps .barrierCount) ∧
    (1 ≤ n → n ≤ 4095 → x.armed = false → traps .unarmedBarrier) ∧
    (1 ≤ n → n ≤ 4095 → x.armed = true → x.broken = true → traps .brokenBarrier) ∧
    (1 ≤ n → n ≤ 4095 → x.armed = true → x.broken = false →
      x.expect < x.arrive + n ∨ 2 ^ 24 - 1 < x.bytesArr ∨ (x.arrive + n = x.expect ∧ x.bytesExp < x.bytesArr) → traps .barrierOverrun) ∧
    (1 ≤ n → n ≤ 4095 → x.armed = true → x.broken = false → x.arrive + n ≤ x.expect → x.bytesArr ≤ 2 ^ 24 - 1 →
      (x.arrive + n = x.expect → x.bytesArr ≤ x.bytesExp) →
      ∃ t y, exec (.barArrive sc r a) s = .next t ∧ t.wg? w = some y ∧ y.barrier r = arrived x n ∧
        (∀ k, k ≠ r → y.barrier k = v.wg.barrier k) ∧ t.mem = (s.releaseNow w sc.toNat).mem ∧
        (t.thread? ⟨w, g, v.gtid⟩).map Thread.pc = some v.t.nextPc ∧
        (x.arrive + n = x.expect → x.bytesArr = x.bytesExp → ∀ k j u c, (k, j) ≠ (g, v.gtid) → s.thread? ⟨w, k, j⟩ = some u →
          u.isLive = true → u.wait = .barrier r.toNat x.phase c → ∃ m, t.thread? ⟨w, k, j⟩ = some { u.stepPast with weave := m }))

/-- R152, R153: `bar.expect` raises the expected bytes; `bar.wait` passes a phase that has completed, with an acquire at its
scope, and waits for one that has not; `bar.test` writes whether the phase has completed, and whether it is broken and has
not, to a pair of predicates. R153: `bar.sync` arrives, after a release at its scope, and waits for the phase as it stood: an arrival
that completes it passes, with every waiter for that phase; another waits. The faults of its arrival are those of `bar.arrive`. -/
def Sys2Proof.Rules.BarrierWaitsRule : Prop :=
  (∀ (s : State) (w g : Nat) (v : View) (sc : BitVec 3) (r p : BitVec 4) (a : BitVec 7),
    let x := v.wg.barrier r
    let id : ThreadId := ⟨w, g, v.gtid⟩
    let fault (c : Cause) : Out := .next (s.takeFault { hits := [(id, { cause := c, addr := BitVec.ofNat 64 r.toNat })] })
    (s.Alone (instrForm (.barExpect r a)) w g v →
      (x.armed = true → x.broken = false → x.bytesExp + (v.read a).toNat ≤ 2 ^ 24 - 1 → exec (.barExpect r a) s =
        .next ((s.setBarrier w r { x with bytesExp := x.bytesExp + (v.read a).toNat }).setThread id v.t.step)) ∧
      (x.armed = false → exec (.barExpect r a) s = fault .unarmedBarrier) ∧
      (x.armed = true → x.broken = true → exec (.barExpect r a) s = fault .brokenBarrier) ∧
      (x.armed = true → x.broken = false → 2 ^ 24 - 1 < x.bytesExp + (v.read a).toNat → exec (.barExpect r a) s = fault .barrierCount)) ∧
    (s.Alone (instrForm (.barWait sc r a)) w g v →
      let par := (v.read a).getLsbD 0
      (x.phase ≠ par → exec (.barWait sc r a) s = .next ((s.acquire w sc.toNat).setThread id v.t.stepPast)) ∧
      (x.phase = par → x.armed = true → x.broken = false →
        exec (.barWait sc r a) s = .next (s.setThread id { v.t with wait := .barrier r.toNat par sc })) ∧
      (x.phase = par → x.armed = false → exec (.barWait sc r a) s = fault .unarmedBarrier) ∧
      (x.phase = par → x.armed = true → x.broken = true → exec (.barWait sc r a) s = fault .brokenBarrier)) ∧
    (s.Alone (instrForm (.barTest sc r a p)) w g v →
      let passed : Bool := x.phase != (v.read a).getLsbD 0
      exec (.barTest sc r a p) s = .next ((if passed then s.acquire w sc.toNat else s).setThread id
        (((if passed then v.t.acquires else v.t).writeLate (.pred p.toNat) (bit passed)).writeLate (.pred (p.toNat + 1)) (bit (x.broken && !passed))).step))) ∧
  (∀ (s : State) (w g : Nat) (v : View) (sc : BitVec 3) (r : BitVec 4) (a : BitVec 7),
    s.Alone (instrForm (.barSync sc r a)) w g v → v.t.wait = .running →
    let x := v.wg.barrier r
    let n := (v.read a).toNat
    let traps (c : Cause) : Prop := exec (.barSync sc r a) s =
      .next (s.takeFault { hits := [(⟨w, g, v.gtid⟩, { cause := c, addr := BitVec.ofNat 64 r.toNat })] })
    (n = 0 ∨ 4095 < n → traps .barrierCount) ∧
    (1 ≤ n → n ≤ 4095 → x.armed = false → traps .unarmedBarrier) ∧
    (1 ≤ n → n ≤ 4095 → x.armed = true → x.broken = true → traps .brokenBarrier) ∧
    (1 ≤ n → n ≤ 4095 → x.armed = true → x.broken = false →
      x.expect < x.arrive + n ∨ 2 ^ 24 - 1 < x.bytesArr ∨ (x.arrive + n = x.expect ∧ x.bytesExp < x.bytesArr) → traps .barrierOverrun) ∧
    (1 ≤ n → n ≤ 4095 → x.armed = true → x.broken = false → x.bytesArr ≤ 2 ^ 24 - 1 → v.t.isLive = true →
    (x.arrive + n = x.expect → x.bytesArr = x.bytesExp →
      ∃ t y m, exec (.barSync sc r a) s = .next t ∧ t.wg? w = some y ∧ y.barrier r = arrived x n ∧
        t.mem = (s.releaseNow w sc.toNat).mem ∧
        t.thread? ⟨w, g, v.gtid⟩ = some { v.t.stepPast with weave := m } ∧
        ∀ k j u c, (k, j) ≠ (g, v.gtid) → s.thread? ⟨w, k, j⟩ = some u →
          u.isLive = true → u.wait = .barrier r.toNat x.phase c → ∃ m, t.thread? ⟨w, k, j⟩ = some { u.stepPast with weave := m }) ∧
    (x.arrive + n < x.expect ∨ (x.arrive + n = x.expect ∧ x.bytesArr < x.bytesExp) →
      ∃ t y, exec (.barSync sc r a) s = .next t ∧ t.wg? w = some y ∧ y.barrier r = arrived x n ∧
        t.mem = (s.releaseNow w sc.toNat).mem ∧
        t.thread? ⟨w, g, v.gtid⟩ = some { v.t with wait := .barrier r.toNat x.phase sc })))

/-- R151: `bar.arm` arms an unarmed or broken barrier register with an expected count and byte count, disarms it with a count
of 0, leaves one armed with the same count as it is, and traps in the other cases: a count or byte count too large; a count
of 0 on an unbroken barrier that has counted arrivals or bytes; another count on an armed one. The phase is kept. R152, R153:
`bar.arrive` at an armed, unbroken barrier that it does not overrun counts its arrival, after a release at its scope, and
proceeds; the arrival that completes the phase passes every waiter for that phase. Unarmed, broken and overrun barriers, and
a count outside 1 to 4,095, are its faults. R152, R153: `bar.expect` raises the expected bytes; `bar.wait` passes a phase
that has completed, with an acquire at its scope, and waits for one that has not; `bar.test` writes whether the phase has
completed, and whether it is broken and has not, to a pair of predicates. R153: `bar.sync` arrives, after a release at its
scope, and waits for the phase as it stood: an arrival that completes it passes, with every waiter for that phase; another
waits. The faults of its arrival are those of `bar.arrive`. -/
def Obligations.Barriers : Prop := BarrierArmRule ∧ BarrierArriveRule ∧ BarrierWaitsRule

/-- R155, R157: the last participant to reach a `gsync`, a `wsync` or a `bar.swap` completes it and every participant proceeds;
before that the thread waits. Completed, it is a release and an acquire of the thread's workgroup at its scope (`bar.swap` at
`.clu`): at `.clu` or wider no write-through is pending there and L1 holds only words that it owns. `bar.swap` exchanges the exchange
area, which lies at the end of the scratchpad window, and the shadow bank of every workgroup of the cluster launch, whether it has a
live thread or not. -/
def Obligations.Syncs : Prop :=
  ∀ sc, ∀ e ∈ syncs sc, ∀ (s : State) (w g : Nat) (v : View), s.Alone (instrForm e.1) w g v → v.t.wait = .running → v.t.isLive = true →
    (s.wgs.map Workgroup.id).Nodup →
    let ps := s.participants w g (syncSet e.2.1 e.2.2)
    ((liveThreads (s.launchOf w)).all fun y => !otherSync e.2.1 v.t.pc ⟨w, g, v.gtid⟩ y) = true →
    ((∀ y ∈ ps, y.1 ≠ ⟨w, g, v.gtid⟩ → y.2.wait = .sync e.2.1 e.2.2 ∧ y.2.pc = v.t.pc) →
      ∃ t, exec e.1 s = .next t ∧
        (∀ y ∈ ps, (t.thread? y.1).map (fun u => (u.pc, u.wait)) = some (y.2.nextPc, .running)) ∧
        (∀ x, 2 ≤ e.2.2.toNat → t.wg? w = some x → x.writes = [] ∧ ∀ y ∈ x.l1, y.owned = true) ∧
        (e.2.1 = 2 → ∀ u x, s.wg? u = some x → (u = w ∨ u ∈ v.wg.peers) → x.inbound = [] → ∃ y, t.wg? u = some y ∧
          (∀ b, b < (x.spadq - x.exch) * 196608 → Sparse.get y.spad b = Sparse.get x.spad b) ∧
          ∀ b, Sparse.get y.spad ((x.spadq - x.exch) * 196608 + b) = Sparse.get x.shadow b ∧
            Sparse.get y.shadow b = Sparse.get x.spad ((x.spadq - x.exch) * 196608 + b))) ∧
    ((∃ y ∈ ps, y.1 ≠ ⟨w, g, v.gtid⟩ ∧ y.2.wait = .running) →
      (∀ y ∈ ps, y.1 ≠ ⟨w, g, v.gtid⟩ → ∀ k c, y.2.wait = .sync k c → k = e.2.1 ∧ y.2.pc = v.t.pc) →
      exec e.1 s = .next (s.setThread ⟨w, g, v.gtid⟩ { v.t with wait := .sync e.2.1 e.2.2 }))

/-! ### Ragged walks -/

/-- R162 to R164: a request word that R164 faults is the walk-configuration fault of the group, which the model gives before it reads the
descriptor (DESIGN CHOICE: notes/assumptions/105); else `walkset` grants a width no greater than asked and than the group, a multiple of the granule granted, and
`walkset` completes when its descriptor can be read, its reserved field is zero and it has rows: it takes the first step and
writes the grant word. R165: `walknext` takes the walk's next step and writes the number of its elements; before any `walkset`
it is the walk-state fault. A group whose walk must read a bucket that is being handed over issues again (R281). A step that does not pack takes elements of one row alone: position i of the group holds element
col + i of the row, as far as the row and the width reach. -/
def Sys2Proof.Rules.WalkStepsRule : Prop :=
  ((∀ (q : WalkRequest) (n : Nat), (q.grant n).width ≤ min q.width n ∧ (q.grant n).width % granule (q.grant n).align = 0 ∧
    (q.grant n).align ≤ q.align ∧ (q.grant n).ph = q.ph ∧ (q.grant n).pv = q.pv ∧ (q.grant n).pack = q.pack) ∧
  (∀ (s s1 s2 : State) (w g : Nat) (gr : Group) (pc : BitVec 56) (ws : Words) (d a b : BitVec 7) (x : Workgroup) (q : WalkRequest)
    (l : List Reg) (k : Walk), s.Together (instrForm (.walkset d a b)) w g gr pc ws → s.wg? w = some x →
    walkRequest (gr.read b) = some q → (s.gathered w g gr).walkDescriptor x.ctx w (gr.read a) = (s1, .ok l) →
    (l.getD 3 0).toNat / 2 ^ 24 % 2 ^ 8 = 0 → (l.getD 3 0).toNat % 2 ^ 24 ≠ 0 →
    s1.takeStep x.ctx w g (Walk.start l (q.grant gr.threads.length) gr.threads.length) = (s2, .ok k) →
    s2.handovers = s.handovers → exec (.walkset d a b) s = .next ((s2.writeScalarDst w g d (q.grant gr.threads.length).word).groupSteps w g)) ∧
  (∀ (s : State) (w g : Nat) (gr : Group) (pc : BitVec 56) (ws : Words) (d a b : BitVec 7) (x : Workgroup),
    s.Together (instrForm (.walkset d a b)) w g gr pc ws → s.wg? w = some x → walkRequest (gr.read b) = none →
    exec (.walkset d a b) s = .next ((s.gathered w g gr).takeFault
      ((s.gathered w g gr).groupDelivery w g { cause := .walkConfiguration, addr := 0 })))) ∧
  ((∀ (s s2 : State) (w g : Nat) (gr : Group) (pc : BitVec 56) (ws : Words) (d : BitVec 7) (x : Workgroup) (k k2 : Walk),
    s.Together (instrForm (.walknext d)) w g gr pc ws → s.wg? w = some x → gr.walk = some k →
    (s.gathered w g gr).takeStep x.ctx w g k = (s2, .ok k2) →
    (s2.handovers = s.handovers → exec (.walknext d) s =
      .next ((s2.writeScalarDst w g d (BitVec.ofNat 64 (k2.assigned.filter Option.isSome).length)).groupSteps w g)) ∧
    (s2.handovers ≠ s.handovers → exec (.walknext d) s = .next ((s.gathered w g gr).modGrp w g fun y => y.mapLive Thread.reissue))) ∧
  (∀ (s : State) (w g : Nat) (gr : Group) (pc : BitVec 56) (ws : Words) (d : BitVec 7) (x : Workgroup),
    s.Together (instrForm (.walknext d)) w g gr pc ws → s.wg? w = some x → gr.walk = none →
    exec (.walknext d) s = .next ((s.gathered w g gr).takeFault
      ((s.gathered w g gr).groupDelivery w g { cause := .walkState, addr := 0 }))) ∧
  (∀ (s : State) (c w fuel l : Nat) (k : Walk), k.pack = false → 0 < k.width → k.row < k.rows → k.len = some l → k.col < l →
    ∃ k2, State.walkStep c w (fuel + 1) 0 [] k s = (s, .ok (k2, [0])) ∧
      ∀ i, i < k.assigned.length → k2.assigned[i]? =
        if i < min (l - k.col) k.width then some (some (k.row, k.col + i, k.rowBase + k.col + i)) else k.assigned[i]?))

/-- R166: in an active lane `walkld.row` and `walkld.col` write the row or the column of the thread's element, 0xFFFF_FFFF without
one; `walkld` loads the element at the input base plus A, writing 0 without one; and `walkst` stores to the element at the output
base plus A, doing nothing without one. Before the group's first `walkset` each of them is the walk-state fault. -/
def Sys2Proof.Rules.WalkAccessRule : Prop :=
  (∀ (s : State) (w g : Nat) (v : View) (d a : BitVec 7), v.grp.walk = none → v.t.maskTrue v.t.words = true →
    ∀ i ∈ [Instr.walkldRow d, .walkldCol d, .walkld32 d a, .walkld64 d a, .walkst32 d a, .walkst64 d a], s.Alone (instrForm i) w g v →
      exec i s = .next (s.takeFault { hits := [(⟨w, g, v.gtid⟩, { cause := .walkState, addr := 0 })] })) ∧
  ∀ (s s1 : State) (w g pa n : Nat) (v : View) (d a : BitVec 7) (k : Walk), v.grp.walk = some k → v.t.maskTrue v.t.words = true →
    let mine : Option (Nat × Nat × Nat) := (k.assigned[v.gtid]?).getD none
    let id : ThreadId := ⟨w, g, v.gtid⟩
    (s.Alone (instrForm (.walkldRow d)) w g v → exec (.walkldRow d) s = .next (s.setThread id
      (v.t.writeDest d none (match mine with | none => 0xFFFFFFFF | some e => BitVec.ofNat 64 e.1)).step)) ∧
    (s.Alone (instrForm (.walkldCol d)) w g v → exec (.walkldCol d) s = .next (s.setThread id
      (v.t.writeDest d none (match mine with | none => 0xFFFFFFFF | some e => BitVec.ofNat 64 e.2.1)).step)) ∧
    (∀ i, (i = .walkld32 d a ∧ n = 4) ∨ (i = .walkld64 d a ∧ n = 8) → s.Alone (instrForm i) w g v →
      (mine = none → exec i s = .next (s.setThread id (v.t.writeDest d none 0).step)) ∧
      (∀ e, mine = some e →
        let x := k.inbase + v.read a + BitVec.ofNat 64 (e.2.2 * n)
        x.toNat % n = 0 → x.toNat < 2 ^ 56 → Settled s → Coherent s v.wg → v.t.early = [] → v.t.request = none → s.handovers = [] →
        s.translate v.wg.ctx x.toNat .read = (s1, .ok pa) → s1.place pa = .memory →
        ∃ t, exec i s = .next t ∧ t.mem = s.mem ∧
          t.thread? id = some (v.t.writeDest d none (BitVec.ofNat 64 (leNat (readBytes s.mem pa n)))).step)) ∧
    (∀ i, (i = .walkst32 d a ∧ n = 4) ∨ (i = .walkst64 d a ∧ n = 8) → s.Alone (instrForm i) w g v →
      (mine = none → exec i s = .next (s.setThread id v.t.step)) ∧
      (∀ e, mine = some e →
        let x := k.outbase + v.read a + BitVec.ofNat 64 (e.2.2 * n)
        x.toNat % n = 0 → x.toNat < 2 ^ 56 →
        s.translate v.wg.ctx x.toNat .write = (s1, .ok pa) → s1.place pa = .memory →
        ∃ t y, exec i s = .next t ∧ t.mem = s.mem ∧ t.wg? w = some y ∧ (t.thread? id).map Thread.pc = some v.t.nextPc ∧
          y.writes.map (fun z => (z.addr, z.bytes)) =
            v.wg.writes.map (fun z => (z.addr, z.bytes)) ++ [(pa, bytesLe n (v.read d).toNat)]))

/-- R162 to R164: a request word that R164 faults is the walk-configuration fault of the group, which the model gives before
it reads the descriptor (DESIGN CHOICE: notes/assumptions/105); else `walkset` grants a width no greater than asked and than
the group, a multiple of the granule granted, and `walkset` completes when its descriptor can be read, its reserved field is
zero and it has rows: it takes the first step and writes the grant word. R165: `walknext` takes the walk's next step and
writes the number of its elements; before any `walkset` it is the walk-state fault. A group whose walk must read a bucket
that is being handed over issues again (R281). A step that does not pack takes elements of one row alone: position i of the
group holds element col + i of the row, as far as the row and the width reach. R166: in an active lane `walkld.row` and
`walkld.col` write the row or the column of the thread's element, 0xFFFF_FFFF without one; `walkld` loads the element at the
input base plus A, writing 0 without one; and `walkst` stores to the element at the output base plus A, doing nothing without
one. Before the group's first `walkset` each of them is the walk-state fault. -/
def Obligations.RaggedWalks : Prop := WalkStepsRule ∧ WalkAccessRule

/-! ### Matrix engine -/

/-- R168, R169, R172, R173, R178: a product of one group that passes the checks of R172 enters its core's matrix queue with the
scalar operands it found, is counted in its group, and the group proceeds; with 16 commands in the queue the group waits. One that
names a tile that its workgroup does not hold is the unallocated-resource fault, before any other check; then one that names a gang
register that is not valid, or whose gang its group is not of, is the gang-configuration fault; and a gang with a member that has no
live thread takes the gang-mismatch fault.
A gang's member that arrives before another member waits at the latch with what it named, and the last member's
arrival enters one command, counted in every member. -/
def Obligations.ProductsEnter : Prop :=
  (∀ (s : State) (w g : Nat) (x : Workgroup) (gr : Group) (a b : BitVec 5) (c k : BitVec 3) (r : BitVec 4) (m : BitVec 6),
    ∀ i ∈ products a b c k r m, Gathers s i w g x gr →
      (x.tilesHeld ≤ c.toNat → GroupTraps s i w g gr { cause := .unallocatedResource, addr := c.setWidth 64 }) ∧
      ∀ (j : Fin 4), k.toNat = 4 + j.val → c.toNat < x.tilesHeld →
        ((x.gangs[j].valid = false ∨ x.gangs[j].members.getLsbD g = false) →
          GroupTraps s i w g gr { cause := .gangConfiguration, addr := BitVec.ofNat 64 j.val }) ∧
        (x.gangs[j].valid = true → x.gangs[j].members.getLsbD g = true →
          (∃ n, n < 16 ∧ x.gangs[j].members.getLsbD n = true ∧ ∀ y, x.groups[n]? = some y → y.liveGtids = []) →
          GroupTraps s i w g gr { cause := .gangMismatch, addr := BitVec.ofNat 64 j.val })) ∧
  (∀ (s : State) (w g : Nat) (x : Workgroup) (gr : Group) (a b : BitVec 5) (c : BitVec 3) (r : BitVec 4) (m : BitVec 6),
    ∀ i ∈ products a b c 0 r m, Gathers s i w g x gr → ProductReady s x i c (gr.scalar a) (gr.scalar b) →
      ((∀ k, s.core? x.core = some k → k.matrix.length < 16) →
        ∃ t, exec i s = .next t ∧ Entered s t w g x.core gr Core.matrix Group.matrixCount fun _ =>
          s.newCommand w g [(w, g)] [gr.scalar a, gr.scalar b] (carried s x (gr.scalar b) i) i) ∧
      ((∃ k, s.core? x.core = some k ∧ 16 ≤ k.matrix.length) → GroupHolds s i w g gr)) ∧
  (∀ (s : State) (w g : Nat) (x : Workgroup) (gr : Group) (a b : BitVec 5) (c : BitVec 3) (r : BitVec 4) (m : BitVec 6)
      (j : Fin 4) (q : Gang), x.gangs[j] = q → q.valid = true → q.members.getLsbD g = true →
    (∀ n, n < 16 → q.members.getLsbD n = true → ∃ y, x.groups[n]? = some y ∧ y.liveGtids ≠ []) →
    ∀ i ∈ products a b c (BitVec.ofNat 3 (4 + j.val)) r m, Gathers s i w g x gr →
      ProductReady s x i c (gr.scalar a) (gr.scalar b) →
      let mine : List Reg := [BitVec.ofNat 64 j.val, s.ir.setWidth 64, gr.scalar a, gr.scalar b]
      ((∃ n, n < 16 ∧ n ≠ g ∧ q.members.getLsbD n = true ∧ ∀ y, x.groups[n]? = some y → y.latch = none) →
        ∃ t, exec i s = .next t ∧ (t.grp? w g).map Group.latch = some (some mine) ∧ t.cores = s.cores ∧
          ∀ k u, gr.threads[k]? = some u → u.isLive = true →
            (t.thread? ⟨w, g, k⟩).map (fun v => (v.pc, v.wait)) = some (u.pc, .latch)) ∧
      ((∀ n y, n ≠ g → q.members.getLsbD n = true → x.groups[n]? = some y → y.latch = some mine) →
        (∀ k, s.core? x.core = some k → k.matrix.length < 16) →
        ∃ t, exec i s = .next t ∧
          (t.core? x.core).map Core.matrix = (s.core? x.core).map (fun k => k.matrix ++
            [s.newCommand w g (((List.range 16).filter fun n => q.members.getLsbD n).map fun n => (w, n))
              [gr.scalar a, gr.scalar b] (carried s x (gr.scalar b) i) i]) ∧
          ∀ n y, q.members.getLsbD n = true → x.groups[n]? = some y → Passes t w n y ∧
            (t.grp? w n).map (fun z => (z.matrixCount, z.latch)) = some (y.matrixCount + 1, none)))

/-- R177, R184, R185, R187, R188: `gang` makes its gang register valid with two to six groups, its own among them, or invalid;
`accld`, `accst` and `acczero` of an allotted tile, with a legal descriptor whose blocks lie in the window, enter the
matrix queue; `mwait` waits for all but n commands; and once its group has no command left `mflags` reads the engine
flags and clears those that A names. -/
def Obligations.MatrixControl : Prop :=
  ∀ (s : State) (w g : Nat) (x : Workgroup) (gr : Group) (k : BitVec 3) (e : BitVec 5) (a : BitVec 7),
    (Gathers s (.gang k a) w g x gr →
      let v : BitVec 16 := (gr.read a).setWidth 16
      let n := ((List.range 16).filter fun j => v.getLsbD j).length
      (∀ y ∈ x.groups, ∀ l, y.latch = some l → l.head? ≠ some (k.setWidth 64)) →
      (v = 0 ∨ (2 ≤ n ∧ n ≤ 6 ∧ v.getLsbD g = true ∧ ∀ j, j < 16 → v.getLsbD j = true → j < x.groups.length)) →
      ∃ t y, exec (.gang k a) s = .next t ∧ Passes t w g gr ∧ t.wg? w = some y ∧
        ∀ j : Fin 4, y.gangs[j] = if j.val = k.toNat then { valid := decide (v ≠ 0), members := v } else x.gangs[j]) ∧
    ((∀ q, s.core? x.core = some q → q.matrix.length < 16) → k.toNat < x.tilesHeld →
      (∀ i store, (i = .accld k e ∧ store = false) ∨ (i = .accst k e ∧ store = true) → Gathers s i w g x gr →
        CopyReady store (x.spadq * 196608) (gr.scalar e) → ∃ t, exec i s = .next t ∧
          Entered s t w g x.core gr Core.matrix Group.matrixCount fun _ => s.newCommand w g [(w, g)] [gr.scalar e] [] i) ∧
      (Gathers s (.acczero k) w g x gr → ∃ t, exec (.acczero k) s = .next t ∧
        Entered s t w g x.core gr Core.matrix Group.matrixCount fun _ => s.newCommand w g [(w, g)] [] [] (.acczero k))) ∧
    (∀ i, i ∈ [Instr.accld k e, .accst k e, .acczero k] → Gathers s i w g x gr → x.tilesHeld ≤ k.toNat →
      GroupTraps s i w g gr { cause := .unallocatedResource, addr := k.setWidth 64 }) ∧
    (Gathers s (.mwait k) w g x gr →
      (gr.matrixCount ≤ k.toNat → ∃ t, exec (.mwait k) s = .next t ∧ Passes t w g gr ∧ t.mem = s.mem ∧ t.cores = s.cores) ∧
      (k.toNat < gr.matrixCount → GroupHolds s (.mwait k) w g gr)) ∧
    (Gathers s (.mflags e a) w g x gr →
      (gr.matrixCount ≠ 0 ∨ gr.lookupCount ≠ 0 → GroupHolds s (.mflags e a) w g gr) ∧
      (gr.matrixCount = 0 → gr.lookupCount = 0 → gr.pendFault = none →
        ∃ t y, exec (.mflags e a) s = .next t ∧ Passes t w g gr ∧ t.wg? w = some y ∧
          y.eflags = x.eflags &&& ~~~((gr.read a).setWidth 5) ∧
          (t.grp? w g).map Group.scalars = some (gr.scalars.setIfInBounds e.toNat (x.eflags.setWidth 64))))

/-- R169, R171, R175, R180, R185, R186: the oldest command of a matrix queue completes: it leaves the queue and its group's count
falls. `acczero` leaves the tile zero; `accld` and `accst` of FP32 copy each enabled element between the tile and its
place in scratchpad; an `mma` adds to each enabled element the sum of the products of its row and column, exact
modulo 2^32 for 8-bit integers, block by block as R60 has it for the 16-bit floats; every other element is as before. R189: a byte
that others have written since the command was accepted, or whose write was not ordered before its acceptance, reads as what it holds
or as one of the values that it held. -/
def Obligations.MatrixCompletion : Prop :=
  (∀ (s : State) (w : Option Nat) (a order : Nat) (v : Byte), s.acting = some order →
    (s.racedByte w a v).2 = v ∨ ∃ e ∈ s.overwritten, e.wg = w ∧ e.addr = a ∧ (order < e.stamp ∨ order ∈ e.races) ∧ e.writer ≠ some order ∧
      (s.racedByte w a v).2 = e.old) ∧
  ∀ (s : State) (c : Command) (rest : List Command) (k : Core) (x : Workgroup) (gr : Group), MatrixHead s c rest k x gr →
    (∀ j : Fin 8, TileOk x.tiles[j]) →
    ∃ t y, exec .matrixCommandComplete s = .next t ∧ (t.core? s.input.unit).map Core.matrix = some rest ∧
      (t.grp? c.wg c.grp).map Group.matrixCount = some (gr.matrixCount - 1) ∧ t.wg? c.wg = some y ∧ t.mem = s.mem ∧
      (∀ j : Fin 8, TileOk y.tiles[j]) ∧ (∀ j : Fin 8, c.tile? ≠ some j.val → y.tiles[j] = x.tiles[j]) ∧
      (∀ q : BitVec 3, c.op = .acczero q → ∀ m n, elementAt y.tiles[q.toFin] m n = 0) ∧
      (∀ (q : BitVec 3) (e : BitVec 5), c.op = .accld q e → (bf (c.regs.getD 0 0) 60 4).toNat = 8 → ∀ m n, m < 128 → n < 192 →
        elementAt y.tiles[q.toFin] m n =
          if (bf (c.regs.getD 0 0) 52 4).getLsbD (m / 32) && (bf (c.regs.getD 0 0) 46 6).getLsbD (n / 32) then
            BitVec.ofNat 32 (leNat (readBytes x.spad ((bf (c.regs.getD 0 0) 0 23).toNat + m * (bf (c.regs.getD 0 0) 23 23).toNat + 4 * n) 4))
          else elementAt x.tiles[q.toFin] m n) ∧
      (∀ (q : BitVec 3) (e : BitVec 5), c.op = .accst q e → y.tiles = x.tiles) ∧
      (∀ (q : BitVec 3) (e : BitVec 5), c.op = .accst q e → (bf (c.regs.getD 0 0) 60 4).toNat = 8 →
        768 ≤ (bf (c.regs.getD 0 0) 23 23).toNat → Memory.wf x.spad = true → ∀ m n, m < 128 → n < 192 →
        (bf (c.regs.getD 0 0) 52 4).getLsbD (m / 32) = true → (bf (c.regs.getD 0 0) 46 6).getLsbD (n / 32) = true →
        leNat (readBytes y.spad ((bf (c.regs.getD 0 0) 0 23).toNat + m * (bf (c.regs.getD 0 0) 23 23).toNat + 4 * n) 4) =
          (elementAt x.tiles[q.toFin] m n).toNat) ∧
      (∀ (q : BitVec 3) (da db : Reg), isProduct c.op = true → c.tile? = some q.toNat → c.regs = [da, db] →
        (operandOf da).rem = false → (operandOf da).type ∈ [0, 4] → bf da 54 2 = 1 → (isMma c.op = true → (operandOf db).rem = false ∧
          (operandOf db).type ∈ [0, 4]) → ∀ m n, m < 128 → n < 192 →
          elementAt y.tiles[q.toFin] m n = match addend x.spad c da db m n with
            | none => elementAt x.tiles[q.toFin] m n
            | some v => (if da.getLsbD 56 then 0 else elementAt x.tiles[q.toFin] m n) + BitVec.ofInt 32 v) ∧
      (∀ (a b : BitVec 5) (q v : BitVec 3) (r : BitVec 4) (z : BitVec 6) (da db : Reg), c.op = .mma a b q v r z → c.regs = [da, db] →
        (operandOf da).rem = false → (operandOf db).rem = false → (operandOf da).type ∈ [9, 10] →
        (operandOf db).type = (operandOf da).type → bf da 54 2 = 0 → ∀ m n, m < 128 → n < 192 →
        elementAt y.tiles[q.toFin] m n =
          if r.getLsbD (m / 32) && z.getLsbD (n / 32) then
            BitVec.ofNat 32 (accumulateBlocks .rne 8 (operandOf da).kb (if da.getLsbD 56 then 0 else elementAt x.tiles[q.toFin] m n).toNat
              ((List.range ((operandOf da).kb * 8)).map fun j => (halfAt x.spad da m j, halfAt x.spad db n j))).1
          else elementAt x.tiles[q.toFin] m n)

/-! ### Lookup engine -/

/-- R33, R196, R207, R208: `tcfg` sets the group size and entry format of its group; `tinv` makes the tables of its mask invalid;
`tstat` reads a table's state image; `twait` waits for the group's lookup commands and takes a pending table-range fault;
`twait.poll` reads the poll register and clears it. A reserved configuration is the lookup-descriptor fault, a table
that is not allotted the unallocated-resource fault. That the table-range fault of `twait` has unit 1, and that `tinv` keeps the group
size and the formats of a table, is the model's choice (DEDUCED: notes/assumptions/19; DEDUCED: notes/assumptions/43). -/
def Sys2Proof.Rules.LookupControlRule : Prop :=
  ∀ (s : State) (w g : Nat) (x : Workgroup) (gr : Group) (c : BitVec 5) (t : BitVec 3) (mask : BitVec 8),
    (Gathers s (.tcfg c) w g x gr →
      let v := (gr.scalar c).toNat
      (v < 16 → v / 4 ≠ 3 → v % 4 ≠ 3 → ∃ u y, exec (.tcfg c) s = .next u ∧ Passes u w g gr ∧ u.grp? w g = some y ∧
        y.gsel.toNat = v % 4 ∧ y.efmt.toNat = v / 4 ∧ u.mem = s.mem) ∧
      (16 ≤ v ∨ v / 4 = 3 ∨ v % 4 = 3 → GroupTraps s (.tcfg c) w g gr { cause := .lookupDescriptor, addr := c.setWidth 64 })) ∧
    (Gathers s (.tinv mask) w g x gr →
      ((∀ k ∈ named mask, k.toNat < x.tablesHeld) → ∃ u y, exec (.tinv mask) s = .next u ∧ Passes u w g gr ∧ u.wg? w = some y ∧
        ∀ k, if mask.getLsbD k.toNat then (y.table k).state = .invalid ∧ (y.table k).ngroups = 0 ∧ (y.table k).srclen = 0 ∧
            (y.table k).srcbase = 0 ∧ (y.table k).gsel = (x.table k).gsel ∧ (y.table k).efmt = (x.table k).efmt ∧
            (y.table k).sfmt = (x.table k).sfmt
          else y.table k = x.table k) ∧
      (∀ k l, named mask = l ++ k :: (named mask).drop (l.length + 1) → (∀ j ∈ l, j.toNat < x.tablesHeld) → x.tablesHeld ≤ k.toNat →
        GroupTraps s (.tinv mask) w g gr { cause := .unallocatedResource, addr := k.setWidth 64 })) ∧
    (Gathers s (.tstat t c) w g x gr →
      (t.toNat < x.tablesHeld → (x.table t).ngroups < 2 ^ 11 → (x.table t).srclen < 2 ^ 14 → (x.table t).srcbase < 2 ^ 23 →
        ∃ u, exec (.tstat t c) s = .next u ∧ Passes u w g gr ∧
          (u.grp? w g).map Group.scalars = some (gr.scalars.setIfInBounds c.toNat (BitVec.ofNat 64 (imageWord (x.table t))))) ∧
      (x.tablesHeld ≤ t.toNat → GroupTraps s (.tstat t c) w g gr { cause := .unallocatedResource, addr := t.setWidth 64 })) ∧
    (Gathers s .twait w g x gr →
      (gr.lookupCount ≠ 0 → GroupHolds s .twait w g gr) ∧
      (gr.lookupCount = 0 → gr.pendFault = none → ∃ u, exec .twait s = .next u ∧ Passes u w g gr ∧ u.mem = s.mem ∧
        u.cores = s.cores) ∧
      (∀ o, gr.lookupCount = 0 → gr.pendFault = some o →
        let z := (s.gathered w g gr).modGrp w g fun y => { y with pendFault := none }
        exec .twait s = .next (z.takeFault
          { hits := gr.liveGtids.map fun j => (⟨w, g, j⟩, { cause := .tableRange, addr := o.setWidth 64, unit := 1 }) }))) ∧
    (Gathers s (.twaitPoll c) w g x gr →
      (gr.lookupCount ≠ 0 → GroupHolds s (.twaitPoll c) w g gr) ∧
      (gr.lookupCount = 0 → ∃ u y, exec (.twaitPoll c) s = .next u ∧ Passes u w g gr ∧ u.grp? w g = some y ∧ y.poll = 0 ∧
        y.scalars = gr.scalars.setIfInBounds c.toNat gr.poll))

/-- R193, R197, R198, R201, R204, R209, R210, R323: a `tbuild`, `tlook`, `tspill` or `tfill` that passes its checks enters its core's
lookup queue; one that finds no room there, or not the snapshot slots it needs (one for a `tbuild`, one for each evicted table
of the others), waits. A source byte that a write not ordered before the acceptance has changed may be read as it was (R189). At that point a `tbuild` makes its table valid, each entry the sum of the activations that its number selects; a
`tlook` and a `tspill` find their evicted tables rebuilt; and a `tfill` makes its table the one whose image it reads. -/
def Sys2Proof.Rules.LookupCommandsRule : Prop :=
  ∀ (s : State) (w g : Nat) (x : Workgroup) (gr : Group) (d : BitVec 5) (t : BitVec 3) (mask : BitVec 8),
    let v := gr.scalar d
    let enters (u : State) (c : Command) : Prop := Entered s u w g x.core gr Core.lookup Group.lookupCount fun _ => c
    (∀ sf : BitVec 2, Gathers s (.tbuild t d) w g x gr → t.toNat < x.tablesHeld → (bf v 60 4).toNat = 10 + sf.toNat → sf ≠ 3 →
      bf v 23 27 = 0 → (bf v 0 23).toNat % 64 = 0 →
      let n := (bf v 50 10).toNat + 1
      let e := if sf = 0 then 2 else 1
      let len := (gr.gsel.toNat + 2) * n * e
      (bf v 0 23).toNat + len ≤ x.spadq * 196608 →
      ((s.core? x.core).isSome = true → ¬ LookRoom s x.core 1 → GroupHolds s (.tbuild t d) w g gr) ∧
      (LookRoom s x.core 1 → s.overwritten = [] →
      ∃ u y fl, exec (.tbuild t d) s = .next u ∧ u.wg? w = some y ∧
        enters u { s.newCommand w g [(w, g)] [v, fl] [] (.tbuild t d) with slack := 1 } ∧
        (∀ k, k ≠ t → y.table k = x.table k) ∧ (y.table t).state = .valid ∧ (y.table t).gsel = gr.gsel ∧
        (y.table t).efmt = gr.efmt ∧ (y.table t).sfmt = sf ∧ (y.table t).ngroups = n ∧ (y.table t).srclen = len ∧
        (y.table t).srcbase = (bf v 0 23).toNat ∧
        ∀ j i, j < n → i < 2 ^ (gr.gsel.toNat + 2) → entryOf (y.table t) j i =
          (tableEntry gr.efmt ((List.range (gr.gsel.toNat + 2)).map fun q => (sourceFmt sf).decode
            (leNat (readBytes x.spad ((bf v 0 23).toNat + (j * (gr.gsel.toNat + 2) + q) * e) e))) i).1)) ∧
    (∀ a : BitVec 3, Gathers s (.tlook d a mask) w g x gr → LookReady x a mask v (gr.scalar (d + 1)) →
      let slots := evictedOf x (named mask)
      ((s.core? x.core).isSome = true → ¬ LookRoom s x.core slots → GroupHolds s (.tlook d a mask) w g gr) ∧
      (LookRoom s x.core slots → slots = 0 ∨ s.overwritten = [] →
      ∃ u y, exec (.tlook d a mask) s = .next u ∧ u.wg? w = some y ∧
        enters u { s.newCommand w g [(w, g)] [v, gr.scalar (d + 1), 0] [] (.tlook d a mask) with
          tables := (named mask).map (fun k => afresh x.spad (x.table k)), slack := slots } ∧
        ∀ k, y.table k = if mask.getLsbD k.toNat then afresh x.spad (x.table k) else x.table k)) ∧
    (∀ a : BitVec 3, Gathers s (.tlook d a mask) w g x gr → a.toNat < x.tilesHeld → (∀ k ∈ named mask, k.toNat < x.tablesHeld) →
      ((lookDesc v (gr.scalar (d + 1))).illegal (gr.scalar (d + 1)) d.toNat (named mask).length).isNone = true →
      bf v 32 6 ≠ 0 → ∀ k l, named mask = l ++ k :: (named mask).drop (l.length + 1) →
      (∀ j ∈ l, (x.table j).state = .valid ∨ (x.table j).state = .evicted) →
      (x.table k).state = .invalid ∨ (x.table k).state = .stale → v.getLsbD 60 = false →
      GroupTraps s (.tlook d a mask) w g gr { cause := .staleTable, addr := k.setWidth 64 }) ∧
    (Gathers s (.tspill t d) w g x gr → t.toNat < x.tablesHeld → bf v 23 41 = 0 → v.toNat % 64 = 0 → (x.table t).state ≠ .stale →
      v.toNat + (imageOf (afresh x.spad (x.table t))).length ≤ x.spadq * 196608 →
      let slots := evictedOf x [t]
      ((s.core? x.core).isSome = true → ¬ LookRoom s x.core slots → GroupHolds s (.tspill t d) w g gr) ∧
      (LookRoom s x.core slots → slots = 0 ∨ s.overwritten = [] →
      ∃ u y, exec (.tspill t d) s = .next u ∧ u.wg? w = some y ∧ y.table t = afresh x.spad (x.table t) ∧
        enters u { s.newCommand w g [(w, g)] [v] [] (.tspill t d) with tables := [afresh x.spad (x.table t)], slack := slots })) ∧
    (∀ z : Table, LookRoom s x.core 0 → s.overwritten = [] → Gathers s (.tfill t d) w g x gr → t.toNat < x.tablesHeld → bf v 23 41 = 0 → v.toNat % 64 = 0 →
      x.spadq ≤ 24 → TableOk (x.spadq * 196608) z → v.toNat + (imageOf z).length ≤ x.spadq * 196608 →
      readBytes x.spad v.toNat (imageOf z).length = imageOf z →
      ∃ u y, exec (.tfill t d) s = .next u ∧ u.wg? w = some y ∧ y.table t = z ∧ (∀ k, k ≠ t → y.table k = x.table k) ∧
        enters u { s.newCommand w g [(w, g)] [v] [] (.tfill t d) with tables := [{ z with entries := [] }] })

/-- R33, R196, R207, R208: `tcfg` sets the group size and entry format of its group; `tinv` makes the tables of its mask
invalid; `tstat` reads a table's state image; `twait` waits for the group's lookup commands and takes a pending table-range
fault; `twait.poll` reads the poll register and clears it. A reserved configuration is the lookup-descriptor fault, a table
that is not allotted the unallocated-resource fault. That the table-range fault of `twait` has unit 1, and that `tinv` keeps
the group size and the formats of a table, is the model's choice (DEDUCED: notes/assumptions/19; DEDUCED:
notes/assumptions/43). R193, R197, R198, R201, R204, R209, R210, R323: a `tbuild`, `tlook`, `tspill` or `tfill` that passes
its checks enters its core's lookup queue; one that finds no room there, or not the snapshot slots it needs (one for a
`tbuild`, one for each evicted table of the others), waits. A source byte that a write not ordered before the acceptance has
changed may be read as it was (R189). At that point a `tbuild` makes its table valid, each entry the sum of the activations
that its number selects; a `tlook` and a `tspill` find their evicted tables rebuilt; and a `tfill` makes its table the one
whose image it reads. -/
def Obligations.LookupIssue : Prop := LookupControlRule ∧ LookupCommandsRule

/-- R193, R200, R205, R206, R209: the oldest command of a lookup queue completes: it leaves the queue and its group's count falls.
A `tlook` whose codes are in range writes each enabled element of its rows, block by block, and no other; one with a code
out of range writes nothing and is recorded: without POLL in the group's pending-fault register, with POLL as a failure in its poll
register, which keeps the first failure and counts them all. A `tspill` writes the
image of the table that it carries. -/
def Obligations.LookupCompletion : Prop :=
  ∀ (s : State) (c : Command) (rest : List Command) (k : Core) (x : Workgroup) (gr : Group), LookupHead s c rest k x gr →
    (∀ j : Fin 8, TileOk x.tiles[j]) →
    ∃ t y, exec .lookupCommandComplete s = .next t ∧ (t.core? s.input.unit).map Core.lookup = some rest ∧
      (t.grp? c.wg c.grp).map Group.lookupCount = some (gr.lookupCount - 1) ∧ t.wg? c.wg = some y ∧ t.mem = s.mem ∧
      (∀ j : Fin 8, c.tile? ≠ some j.val → y.tiles[j] = x.tiles[j]) ∧
      (∀ (d : BitVec 5) (q : BitVec 3) (mask : BitVec 8) (a b : Reg) (G : BitVec 2), c.op = .tlook d q mask → c.regs = [a, b, 0] →
        c.tables ≠ [] → (∀ z ∈ c.tables, z.gsel = G ∧ (bf a 38 10).toNat + (bf a 48 10).toNat + 1 ≤ z.ngroups) →
        let n := (bf a 48 10).toNat + 1
        let inRange := ∀ p col i, p ≤ (bf a 61 3).toNat → col < 192 → i < n → (bf a 32 6).getLsbD (col / 32) = true →
          codeAt x.spad a p col i < 2 ^ (G.toNat + 2)
        (inRange → (t.grp? c.wg c.grp).map Group.pendFault = some gr.pendFault ∧ TileOk y.tiles[q.toFin] ∧
          ∀ r col, r < 128 → col < 192 → elementAt y.tiles[q.toFin] r col =
            match c.tables[r - (bf b 57 7).toNat]? with
            | some z => if (bf b 57 7).toNat ≤ r ∧ (bf a 32 6).getLsbD (col / 32) = true then
                lookElement x.spad a b z col (elementAt x.tiles[q.toFin] r col) else elementAt x.tiles[q.toFin] r col
            | none => elementAt x.tiles[q.toFin] r col) ∧
        (¬ inRange → y.tiles = x.tiles ∧ y.eflags = x.eflags ∧
          (a.getLsbD 60 = false → (∀ o, gr.pendFault = some o → (t.grp? c.wg c.grp).map Group.pendFault = some (some o)) ∧
            ∃ o, (t.grp? c.wg c.grp).map Group.pendFault = some (some o)) ∧
          (a.getLsbD 60 = true → ∃ z, t.grp? c.wg c.grp = some z ∧ z.pendFault = gr.pendFault ∧
            (bf z.poll 62 2).toNat = (if bf gr.poll 62 2 = 0 then 3 else (bf gr.poll 62 2).toNat) ∧
            (bf z.poll 48 8).toNat = min ((bf gr.poll 48 8).toNat + 1) 255))) ∧
      (∀ (q : BitVec 3) (d : BitVec 5) (v : Reg) (z : Table), c.op = .tspill q d → c.regs = [v] → c.tables = [z] →
        z.ngroups < 2 ^ 11 → z.srclen < 2 ^ 14 → z.srcbase < 2 ^ 23 → Memory.wf x.spad = true →
        readBytes y.spad v.toNat (imageOf z).length = imageOf z ∧
        ∀ i, i < v.toNat ∨ v.toNat + (imageOf z).length ≤ i → Sparse.get y.spad i = Sparse.get x.spad i)

/-! ### Records, ends of threads -/

/-- R244, R245, R247, R248: `rec` puts a word into its slot of the record buffer; `eport` declares a port done; `emit` puts the record
into the target's queue when it has room, after a release, and else leaves it waiting there with its thread; `emitq` does
so only when the record would enter at once, and says which. R245, R355: over a remote edge the record leaves with one of the edge's
credits, of which there are 32 at first, and without a credit the thread waits, or is told so. An undeclared, completion or finished port is the
unbound-port fault, a depth beyond the target's bound the recursion-bound fault. That a remote record carries the whole record buffer is
the model's choice (DEDUCED: notes/assumptions/50). -/
def Sys2Proof.Rules.RecordsRule : Prop :=
  (∀ (s : State) (w g : Nat) (ts : List Nat) (a : BitVec 7) (n : BitVec 4), s.Executes (instrForm (.recInit a n)) w g ts →
    exec (.recInit a n) s = .next (s.lanes w g ts fun v => ({ v.t with recbuf := v.t.recbuf.set n.toNat (v.read a) n.isLt } : Thread).step)) ∧
  (∀ (s : State) (w g : Nat) (v : View) (p : BitVec 3) (q : BitVec 4) (e : Port) (nd : Node) (b : Reg),
    let x := v.wg
    let id : ThreadId := ⟨w, g, v.gtid⟩
    (s.Alone (instrForm (.eport p)) w g v → ∃ t, exec (.eport p) s = .next t ∧ t.mem = s.mem ∧
      t.thread? id = some ({ v.t with ports := v.t.ports ||| (1 <<< p.toNat) } : Thread).step) ∧
    (∀ i, i = .emit p ∨ i = .emitq p q → s.Alone (instrForm i) w g v →
      (∀ own, s.node? x.graph x.node = some own →
        (∀ f, own.desc.ports[p.toNat]? = some f → f.valid = false ∨ f.compl = true) ∨ v.t.ports.getLsbD p.toNat = true →
        exec i s = .next (s.takeFault { hits := [(id, { cause := .unboundPort, addr := p.setWidth 64 })] })) ∧
      (LocalPort s x p e nd → v.t.ports.getLsbD p.toNat = false → nd.desc.depth < depthOver x e →
        exec i s = .next (s.takeFault { hits := [(id, { cause := .recursionBound, addr := p.setWidth 64 })] }))) ∧
    (LocalPort s x p e nd → v.t.ports.getLsbD p.toNat = false → depthOver x e ≤ nd.desc.depth → nd.killed = false →
      nd.desc.kind ≠ .join → nd.finalClosed = false →
      let rec_ := (recordFor nd v.t, depthOver x e)
      (nd.waiting = [] → s.hasRoom x.graph e.node = true →
        (s.Alone (instrForm (.emit p)) w g v → ∃ t n, exec (.emit p) s = .next t ∧ t.thread? id = some v.t.step ∧
          t.mem = (s.releaseNow w 3).mem ∧ t.node? x.graph e.node = some n ∧ held n = held nd ++ [rec_]) ∧
        (s.Alone (instrForm (.emitq p q)) w g v → ∃ t n, exec (.emitq p q) s = .next t ∧
          t.thread? id = some (v.t.writeLate (.pred q.toNat) 1).step ∧ t.node? x.graph e.node = some n ∧ held n = held nd ++ [rec_])) ∧
      (nd.waiting ≠ [] ∨ s.hasRoom x.graph e.node = false →
        (s.Alone (instrForm (.emit p)) w g v → ∃ t n, exec (.emit p) s = .next t ∧
          t.thread? id = some { v.t with wait := .emitting p.toNat } ∧ t.node? x.graph e.node = some n ∧ held n = held nd ∧
          n.waiting = nd.waiting ++ [{ who := .thread id, bytes := rec_.1, depth := rec_.2 }]) ∧
        (s.Alone (instrForm (.emitq p q)) w g v →
          exec (.emitq p q) s = .next (s.setThread id (v.t.writeLate (.pred q.toNat) 0).step)))) ∧
    ((∃ n, s.node? x.graph x.node = some n ∧ n.desc.ports[p.toNat]? = some e) → e.valid = true → e.compl = false → e.remote = true →
      v.t.ports.getLsbD p.toNat = false → x.depth + 1 ≤ e.rdepth →
      ((s.graph? x.graph).bind (fun z => z.credits.lookup (x.node, p.toNat)) = some 0 →
        (s.Alone (instrForm (.emit p)) w g v → exec (.emit p) s = .next (s.setThread id { v.t with wait := .emitting p.toNat })) ∧
        (s.Alone (instrForm (.emitq p q)) w g v →
          exec (.emitq p q) s = .next (s.setThread id (v.t.writeLate (.pred q.toNat) 0).step))) ∧
      (∀ z k, s.graph? x.graph = some z → (z.credits.lookup (x.node, p.toNat)).getD 32 = k + 1 → s.binding z.ctx e.pkg = some b →
        bindingValid b = true → x.writes = [] →
        ∀ i, i = .emit p ∨ i = .emitq p q → s.Alone (instrForm i) w g v →
        ∃ t y, exec i s = .next t ∧ (t.thread? id).map Thread.pc = some v.t.nextPc ∧ t.graph? x.graph = some y ∧
          y.credits.lookup (x.node, p.toNat) = some k ∧
          t.outbox = .record e.pkg (peerCtx b) e.node z.graphid (v.t.recbuf.toList.flatMap fun r => bytesLe 8 r.toNat) (x.depth + 1) :: s.outbox)))

/-- R14, R206, R250: `exit` ends its thread, whose record buffer is cleared; the last thread of a workgroup that has no command left
ends the workgroup, which leaves its core; while its group has a lookup command outstanding the thread waits; with a
table-range fault pending the group takes it and no thread exits; its unit 1 is the model's choice (DEDUCED: notes/assumptions/19). -/
def Sys2Proof.Rules.ThreadExitRule : Prop :=
  ∀ (s : State) (w g : Nat) (v : View), s.Alone (instrForm .exit) w g v → v.t.isLive = true →
    let id : ThreadId := ⟨w, g, v.gtid⟩
    (v.grp.lookupCount ≠ 0 → exec .exit s = .next (s.modThread id fun t => { t with wait := .engine })) ∧
    (∀ o, v.grp.lookupCount = 0 → v.grp.pendFault = some o →
      let z := s.modGrp w g fun y => { y with pendFault := none }
      exec .exit s = .next (z.takeFault
        { hits := v.grp.liveGtids.map fun j => (⟨w, g, j⟩, { cause := .tableRange, addr := o.setWidth 64, unit := 1 }) })) ∧
    (v.grp.lookupCount = 0 → v.grp.pendFault = none →
      (∀ u ∈ v.grp.threads, u.wait.mask? = none) →
      (∀ j u, j ≠ v.gtid → v.grp.threads[j]? = some u → u.isLive = true → u.wait = .running →
        ∃ t y, exec .exit s = .next t ∧ t.thread? id = some y ∧ y.life = .exited ∧ y.recbuf = Vector.replicate 16 0 ∧
          y.regs = v.t.regs ∧ t.mem = s.mem ∧ (t.thread? ⟨w, g, j⟩).map Thread.life = some .live) ∧
      (v.wg.ongoing = true → v.wg.peers = [] → s.commandsOf w = [] → (∀ y ∈ v.wg.groups, y.latch = none) →
        (∀ k j u, (k, j) ≠ (g, v.gtid) → s.thread? ⟨w, k, j⟩ = some u → u.isLive = false) →
        ∃ t, exec .exit s = .next t ∧ t.wg? w = none))

/-- R244, R245, R247, R248: `rec` puts a word into its slot of the record buffer; `eport` declares a port done; `emit` puts
the record into the target's queue when it has room, after a release, and else leaves it waiting there with its thread;
`emitq` does so only when the record would enter at once, and says which. R245, R355: over a remote edge the record leaves
with one of the edge's credits, of which there are 32 at first, and without a credit the thread waits, or is told so. An
undeclared, completion or finished port is the unbound-port fault, a depth beyond the target's bound the recursion-bound
fault. That a remote record carries the whole record buffer is the model's choice (DEDUCED: notes/assumptions/50). R14, R206,
R250: `exit` ends its thread, whose record buffer is cleared; the last thread of a workgroup that has no command left ends
the workgroup, which leaves its core; while its group has a lookup command outstanding the thread waits; with a table-range
fault pending the group takes it and no thread exits; its unit 1 is the model's choice (DEDUCED: notes/assumptions/19). -/
def Obligations.RecordsAndExit : Prop := RecordsRule ∧ ThreadExitRule

/-! ### Copy engine, tambour, collectives -/

/-- R215, R218, R223, R225, R231, R235, R238, R318: a legal `topk`, `texp`, or `cpy` of a workgroup's only live group enters its core's
copy-engine queue and is counted; with 64 commands in the queue it waits; a `cpy` of one live group of several waits for the others; a legal `lay` enters the queue
of its cluster's tambour likewise; `layq` writes the number of passes and the merged dimensions; `cwait` waits for all but n engine
commands. That an acceptance performs the write-throughs of the workgroup, so that the engine reads what is ordered before it (R226,
R265), is the model's form of that order (DESIGN CHOICE: notes/assumptions/9, notes/assumptions/18). -/
def Obligations.EngineCommands : Prop :=
  ∀ (s : State) (w g : Nat) (x : Workgroup) (gr : Group) (r : BitVec 4) (a b : BitVec 5) (nb : BitVec 1),
    let room := ∀ k, s.core? x.core = some k → k.copy.length < 64
    let full := ∃ k, s.core? x.core = some k ∧ 64 ≤ k.copy.length
    let enters (t : State) (c : Command) : Prop := (t.wg? w).map Workgroup.writes = some [] ∧
      Entered (s.drainAll w) t w g x.core gr Core.copy Group.engineCount fun k =>
        { c with bar := barOf r nb, completedAt := k.copyCompleted }
    (Gathers s (.topk r a nb) w g x gr → room → TopkReady (x.spadq * 196608) (gr.scalar a) (gr.scalar (a + 1)) →
      ∃ t, exec (.topk r a nb) s = .next t ∧
        enters t (s.newCommand w g [(w, g)] [gr.scalar a, gr.scalar (a + 1)] [] (.topk r a nb))) ∧
    (full → (Gathers s (.topk r a nb) w g x gr → TopkReady (x.spadq * 196608) (gr.scalar a) (gr.scalar (a + 1)) →
        GroupHolds s (.topk r a nb) w g gr) ∧
      (Gathers s (.texp r a nb) w g x gr → TexpReady s x (gr.scalar a) (gr.scalar (a + 1)) → GroupHolds s (.texp r a nb) w g gr)) ∧
    (Gathers s (.texp r a nb) w g x gr → room → s.overwritten = [] → TexpReady s x (gr.scalar a) (gr.scalar (a + 1)) →
      ∃ t, exec (.texp r a nb) s = .next t ∧
        enters t (s.newCommand w g [(w, g)] [gr.scalar a, gr.scalar (a + 1)]
          (readBytes x.spad (bf (gr.scalar a) 0 23).toNat (4 * ((bf (gr.scalar a) 52 8).toNat + 1))) (.texp r a nb))) ∧
    (Gathers s (.cpy r a b nb) w g x gr →
      let ws := (List.range 8).map fun i => gr.scalar (a + BitVec.ofNat 5 i)
      let d := copyDesc ws
      (room → (∀ i y, x.groups[i]? = some y → y.liveGtids ≠ [] → i = g) → d.illegal ws = none → bf (gr.scalar b) 32 32 = 0 →
        bf d.base 56 8 = 0 → badRank x d.mcast = none → lowestBeyond (x.spadq * 196608) ((d.units [gr.scalar b]).flatMap d.ranges) = none →
        ∃ t, exec (.cpy r a b nb) s = .next t ∧ (t.grp? w g).map Group.cpyIssued = some (gr.cpyIssued + 1) ∧
          enters t { s.newCommand w g [(w, g)] (ws ++ [gr.scalar b]) [] (.cpy r a b nb) with slack := d.slack }) ∧
      ((∃ i y, i ≠ g ∧ x.groups[i]? = some y ∧ y.liveGtids ≠ [] ∧ y.formation = none) ∨
          (full ∧ (∀ i y, x.groups[i]? = some y → y.liveGtids ≠ [] → i = g) ∧ d.illegal ws = none ∧ bf (gr.scalar b) 32 32 = 0 ∧
            bf d.base 56 8 = 0 ∧ badRank x d.mcast = none ∧
            lowestBeyond (x.spadq * 196608) ((d.units [gr.scalar b]).flatMap d.ranges) = none) →
        ∃ t, exec (.cpy r a b nb) s = .next t ∧ t.cores = s.cores ∧ t.mem = s.mem ∧
          ∀ j u, gr.threads[j]? = some u → u.isLive = true →
            (t.thread? ⟨w, g, j⟩).map (fun v => (v.pc, v.wait)) = some (u.pc, .formation))) ∧
    (Gathers s (.lay r a b nb) w g x gr → (layDesc (layWords gr a b)).check x.window (layRegs a b) = none →
      ∀ q, s.tambours[x.core / 4]? = some q →
      (q.length < 16 → ∃ t, exec (.lay r a b nb) s = .next t ∧ Passes t w g gr ∧ t.mem = (s.drainAll w).mem ∧
        (t.wg? w).map Workgroup.writes = some [] ∧ t.tambours[x.core / 4]? = some (q ++ [{ s.newCommand w g [(w, g)] (layWords gr a b) [] (.lay r a b nb) with bar := barOf r nb }]) ∧
        (t.grp? w g).map Group.engineCount = some (gr.engineCount + 1)) ∧
      (16 ≤ q.length → GroupHolds s (.lay r a b nb) w g gr)) ∧
    (∀ c : BitVec 5, Gathers s (.layq a b c) w g x gr → (layDesc (layWords gr a b)).check x.window (layRegs a b) = none →
      let d := layDesc (layWords gr a b)
      ∃ t, exec (.layq a b c) s = .next t ∧ Passes t w g gr ∧ t.mem = s.mem ∧
        (t.grp? w g).map Group.scalars = some (gr.scalars.setIfInBounds c.toNat (BitVec.ofNat 64 (d.passes + 4 * (d.merged - 1))))) ∧
    (Gathers s .cwait w g x gr →
      (gr.engineCount ≤ (s.ir.setWidth 8 : BitVec 8).toNat →
        ∃ t, exec .cwait s = .next t ∧ Passes t w g gr ∧ t.mem = s.mem ∧ t.cores = s.cores) ∧
      ((s.ir.setWidth 8 : BitVec 8).toNat < gr.engineCount → GroupHolds s .cwait w g gr))

/-- R229 to R231: the destination place of a source element is the sum of its indices times the destination strides, and those are the
products of the sizes placed before it; and the passes of a layout are 0 for an empty tensor, 1 when two elements share a
source block exactly when they share a destination block, and else 2. -/
def Sys2Proof.Rules.LayoutPlacesRule : Prop :=
  (∀ (d : LayDesc) (xs : List Nat), xs.length = d.dims → (∀ j, j < d.dims → xs.getD j 0 < d.sizes.getD j 1) →
    d.place ((List.range d.dims).map fun j => xs.getD j 0 * (d.sizes.take j).prod).sum =
      ((List.range d.dims).map fun j => xs.getD j 0 * d.dstStride j).sum) ∧
  (∀ (d : LayDesc) (k : Nat), k < d.dims → (∀ q, q < k → d.perm q ≠ d.perm k) →
    d.dstStride (d.perm k) = ((List.range k).map fun q => d.sizes.getD (d.perm q) 1).prod) ∧
  (∀ d : LayDesc, d.passes = 0 ↔ d.elements = 0) ∧
  (∀ d : LayDesc, d.elements ≠ 0 → (d.passes = 1 ↔ ∀ i j, i < d.elements → j < d.elements →
    (i * d.esz / 512 = j * d.esz / 512 ↔ d.place i * d.esz / 512 = d.place j * d.esz / 512))) ∧
  (∀ d : LayDesc, d.passes ≤ 2)

/-- R217, R222, R225, R232, R236, R237, R239, R240, R253: the running command of a copy engine completes: it leaves the queue and its
group's count falls. One row of `topk` leaves in scratchpad the mask and the ranked list of the k columns with the greatest keys. The
bytes that a `cpy` moves are those of R222, element by element: of plain elements, of Denusk blocks to slabs; a row of plain
elements lands whole at its other place, and no other byte changes. A `cpy` lands as many pieces as come, and one whose accesses fault
stops there and is delivered to its workgroup. A `texp` produces the records of R239 up to its capacity: in MODE 1 it writes them to its
memory queue, then PUB; in MODE 0 it emits them. The `lay` at the
head of a tambour completes in the same way, its elements at their places. -/
def Sys2Proof.Rules.EngineCompletionRule : Prop :=
  (∀ (d : CopyDesc) (slice : Reg), d.gfmt = 0 → d.stype ≤ 12 → (d.arr = 0 ∨ (d.arr ≤ 2 ∧ d.stype ∈ [0, 4, 9, 10, 11, 12])) → ∀ y,
    y ∈ (d.partUnits slice).flatMap movedBytes ↔ ∃ i0 ∈ d.indices slice 0, ∃ i1 ∈ d.indices slice 1, ∃ i2 ∈ d.indices slice 2,
      ∃ i3 ∈ d.indices slice 3, ∃ k, k < elementBytes d.stype ∧ y = plainPlace d i0 i1 i2 i3 k) ∧
  (∀ (d : CopyDesc) (slice : Reg), d.gfmt = 1 → d.stype = 13 ∨ d.stype = 14 → d.arr = 1 ∨ d.arr = 2 → d.dir = false → d.sdim ≠ 0 → ∀ y,
    y ∈ (d.partUnits slice).flatMap movedBytes ↔ ∃ i0 ∈ d.indices slice 0, ∃ i1 ∈ d.indices slice 1, ∃ i2 ∈ d.indices slice 2,
      ∃ i3 ∈ d.indices slice 3, (∃ k, k < 2 ∧ y = blockPlace d i0 i1 i2 i3 k true) ∨ y = blockPlace d i0 i1 i2 i3 0 false) ∧
  (∀ counts : List Nat, expertRecords counts = tileRecords counts) ∧
  (∀ (us : List Nat) (k : Nat), let sel := rankColumns us k []
    sel.length = min k us.length ∧ sel.Nodup ∧ (∀ c ∈ sel, c < us.length) ∧ sel.Pairwise (ranksBefore us) ∧
    ∀ c ∈ sel, ∀ e, e < us.length → e ∉ sel → ranksBefore us c e) ∧
  (∀ (s : State) (c : Command) (k : Core) (x : Workgroup) (gr : Group) (r : BitVec 4) (a b : BitVec 5) (nb : BitVec 1),
    CopyHead s c k x gr →
    (∀ p q : Reg, c.op = .topk r a nb → c.regs = [p, q] → c.bar = none → c.progress = 0 → bf p 36 12 = 0 → TopkReady (x.spadq * 196608) p q →
      (bf q 23 23).toNat + 16 ≤ (bf q 0 23).toNat ∨ (bf q 0 23).toNat + 32 ≤ (bf q 23 23).toNat → Memory.wf x.spad = true →
      let size := if (bf p 60 4).toNat ∈ [1, 5, 9, 10] then 2 else 4
      let us := (List.range ((bf p 48 8).toNat + 1)).map fun j =>
        mapped (bf p 60 4).toNat (leNat (readBytes x.spad ((bf p 0 23).toNat + j * size) size))
      let sel := rankColumns us ((bf p 56 3).toNat + 1) []
      ∃ t y, exec .copyCommandComplete s = .next t ∧ t.wg? c.wg = some y ∧ t.mem = s.mem ∧
        (t.core? s.input.unit).map Core.copy = some (k.copy.filter fun e => e.order ≠ c.order) ∧
        (t.grp? c.wg c.grp).map Group.engineCount = some (gr.engineCount - 1) ∧
        (∀ j, j < 256 → (Sparse.get y.spad ((bf q 0 23).toNat + j / 8)).getLsbD (j % 8) = decide (j ∈ sel)) ∧
        ∀ j, j < 8 → leNat (readBytes y.spad ((bf q 23 23).toNat + 2 * j) 2) = sel.getD j 0xFFFF) ∧
    (∀ (pa : Nat) (slice : Reg), c.op = .cpy r a b nb → c.regs.drop 8 = [slice] → c.bar = none → c.progress = 0 →
      Settled s → s.handovers = [] → Memory.wf s.mem = true → Memory.wf x.spad = true →
      let d := copyDesc (c.regs.take 8)
      d.arr = 0 → d.gfmt = 0 → d.mcast = 0 → d.splitg = 0 → d.sdim = 0 → d.e 1 = 1 → d.e 2 = 1 → d.e 3 = 1 →
      let lo := (bf slice 0 16).toNat * elementBytes d.stype
      let n := (min ((bf slice 0 16).toNat + (bf slice 16 16).toNat) (d.e 0) - (bf slice 0 16).toNat) * elementBytes d.stype
      d.base.toNat + lo + n ≤ 2 ^ 56 →
      (∀ j, j < n → s.translate x.ctx (d.base.toNat + lo + j) (if d.dir then .write else .read) = (s, .ok (pa + j)) ∧
        s.place (pa + j) = .memory) →
      ∃ t y, exec .copyCommandComplete s = .next t ∧ t.wg? c.wg = some y ∧
        (t.core? s.input.unit).map Core.copy = some (k.copy.filter fun e => e.order ≠ c.order) ∧
        (t.grp? c.wg c.grp).map Group.engineCount = some (gr.engineCount - 1) ∧
        (d.dir = false → t.mem = s.mem ∧ (∀ j, j < n → Sparse.get y.spad (d.soff + lo + j) = Sparse.get s.mem (pa + j)) ∧
          ∀ j, j < d.soff + lo ∨ d.soff + lo + n ≤ j → Sparse.get y.spad j = Sparse.get x.spad j) ∧
        (d.dir = true → y.spad = x.spad ∧ (∀ j, j < n → Sparse.get t.mem (pa + j) = Sparse.get x.spad (d.soff + lo + j)) ∧
          ∀ j, j < pa ∨ pa + n ≤ j → Sparse.get t.mem j = Sparse.get s.mem j)) ∧
    (∀ (pa : Nat), c.op = .texp r a nb → c.bar = none → c.progress = 0 → (c.regs.getD 0 0).getLsbD 63 = true →
      s.handovers = [] → Memory.wf s.mem = true →
      let n := (produced c).length
      let q := (c.regs.getD 1 0).toNat
      q + 16 + 16 * n ≤ 2 ^ 56 →
      (∀ j, 4 ≤ j → j < 16 + 16 * n → s.translate x.ctx (q + j) .write = (s, .ok (pa + j)) ∧ s.place (pa + j) = .memory) →
      ∃ t y, exec .copyCommandComplete s = .next t ∧ t.wg? c.wg = some y ∧ y.spad = x.spad ∧
        (t.core? s.input.unit).map Core.copy = some (k.copy.filter fun e => e.order ≠ c.order) ∧
        (t.grp? c.wg c.grp).map Group.engineCount = some (gr.engineCount - 1) ∧
        (∀ i z, (produced c)[i]? = some z → readBytes t.mem (pa + 16 + 16 * i) 16 = z) ∧
        leNat (readBytes t.mem (pa + 4) 4) = n + 2 ^ 31 + (if n < (tileRecords ((List.range ((bf (c.regs.getD 0 0) 52 8).toNat + 1)).map
          fun i => leNat ((c.data.drop (4 * i)).take 4))).length then 2 ^ 30 else 0) ∧
        ∀ j, j < pa + 4 ∨ (pa + 8 ≤ j ∧ j < pa + 16) ∨ pa + 16 + 16 * n ≤ j → Sparse.get t.mem j = Sparse.get s.mem j) ∧
    (∀ (z : List Byte) (e : Port) (nd : Node), c.op = .texp r a nb → c.bar = none → c.progress = 0 →
      (c.regs.getD 0 0).getLsbD 63 = false → produced c = [z] → LocalPort s x (bf (c.regs.getD 0 0) 60 3) e nd →
      depthOver x e ≤ nd.desc.depth → nd.killed = false → nd.desc.kind ≠ .join → nd.finalClosed = false → nd.waiting = [] →
      s.hasRoom x.graph e.node = true → s.texpWaits s.input.unit c.order = false →
      ∃ t m, exec .copyCommandComplete s = .next t ∧ (t.grp? c.wg c.grp).map Group.engineCount = some (gr.engineCount - 1) ∧
        t.node? x.graph e.node = some m ∧
        held m = held nd ++ [((z ++ List.replicate 112 0).take (recordFor nd (Thread.entry 0 0 0)).length, depthOver x e)]) ∧
    (∀ (s1 : State) (n y : Nat) (e : Option Trap), c.op = .cpy r a b nb → s.input.sub = 0 →
      State.copyPieces (copyDesc (c.regs.take 8)) x (s.receivers x (copyDesc (c.regs.take 8)))
        (s.copyLeft c x).2.2.flatten { s with acting := some c.order } = (s1, n, y, e) →
      exec .copyBytesLanded s = .next { (s1.modCopy s.input.unit c.order fun e => { e with progress := e.progress + n }).landed c
        (s.receivers x (copyDesc (c.regs.take 8))) y with acting := none }) ∧
    (∀ (s1 : State) (e : Trap), s.input.sub = 0 → s.advanceCopy s.input.unit c x = (s1, none, some e) →
      let z := s1.modCopy s.input.unit c.order fun q => { q with stopped := true }
      exec .engineTranslationFault s = .next (z.takeFault (z.commandDelivery c.wg c.order e)) ∧
      exec .copyCommandComplete s = .next s)) ∧
  (∀ (s : State) (c : Command) (rest : List Command) (x : Workgroup) (gr : Group), TambourHead s c rest x gr →
    let d := layDesc c.regs
    (c.bar = none → d.ssp = true → d.dsp = true → d.check (x.spadq * 196608) [] = none → d.overlaps = false →
      d.splitg = 0 → Memory.wf x.spad = true → c.progress = 0 →
      (∀ z ∈ s.graphs, ∀ n ∈ z.nodes, n.copyLaunches = []) →
      ∃ t y, exec .tambourCommandComplete s = .next t ∧ t.tambours[s.input.unit]? = some rest ∧ t.wg? c.wg = some y ∧ t.mem = s.mem ∧
        (t.grp? c.wg c.grp).map Group.engineCount = some (gr.engineCount - 1) ∧
        y.spad = (List.range d.elements).foldl (fun m i => writeBytes m ((d.dst + BitVec.ofNat 64 (d.place i * d.esz)).toNat)
          (readBytes m ((d.src + BitVec.ofNat 64 (i * d.esz)).toNat) d.esz)) x.spad) ∧
    (∀ (s1 : State) (n : Nat) (e : Trap), s.input.sub = 1 →
      s.advanceLay s.input.unit c ⟨x.ctx, some c.wg⟩ = (s1, n, some e) →
      let z := s1.modLay s.input.unit fun q => { q with progress := q.progress + n, stopped := true }
      exec .engineTranslationFault s = .next (z.takeFault (z.commandDelivery c.wg c.order e)) ∧
      exec .tambourCommandComplete s = .next s))

/-- R229 to R231: the destination place of a source element is the sum of its indices times the destination strides, and
those are the products of the sizes placed before it; and the passes of a layout are 0 for an empty tensor, 1 when two
elements share a source block exactly when they share a destination block, and else 2. R217, R222, R225, R232, R236, R237,
R239, R240, R253: the running command of a copy engine completes: it leaves the queue and its group's count falls. One row of
`topk` leaves in scratchpad the mask and the ranked list of the k columns with the greatest keys. The bytes that a `cpy`
moves are those of R222, element by element: of plain elements, of Denusk blocks to slabs; a row of plain elements lands
whole at its other place, and no other byte changes. A `cpy` lands as many pieces as come, and one whose accesses fault stops
there and is delivered to its workgroup. A `texp` produces the records of R239 up to its capacity: in MODE 1 it writes them
to its memory queue, then PUB; in MODE 0 it emits them. The `lay` at the head of a tambour completes in the same way, its
elements at their places. -/
def Obligations.LayoutAndEngines : Prop := LayoutPlacesRule ∧ EngineCompletionRule

/-- R241 to R243, R358 to R361: a legal `coll` on a communicator that this package takes part in is accepted: its workgroup's
write-throughs are performed before its descriptor is read (R226; notes/assumptions/9 and 18 are the model's form of it), it takes the
communicator's next number, its status word is cleared and its group counts it and goes on.
With what the other participants sent it completes with what R242 gives each element of RBUF, when no participant is halted and none of
its communicator came before it; while a participant or its own workgroup is halted, or an earlier one of its communicator is
not complete, it does not; a participant that halts holds it up
until it resumes; and one that is lost ends it with a status word of DONE and PEER_LOST, and MISMATCH at most beside them, which its
completion writes at STAT. A sum of naturals is taken over the ranks modulo the element's width, a minimum or
maximum is the least or greatest of the values, and a NaN among floats gives the canonical NaN. -/
def Obligations.Collectives : Prop :=
  (∀ (s s1 s2 s3 : State) (w g : Nat) (x : Workgroup) (gr : Group) (r : BitVec 4) (a : BitVec 5) (nb : BitVec 1) (bytes : List Byte)
      (rank : Nat) (members : List Nat), Gathers s (.coll r a nb) w g x gr →
    bf (gr.scalar a) 56 8 = 0 → (gr.scalar a).toNat % 64 = 0 →
    (s.gathered w g gr).collWords x g (gr.scalar a) = (s1, .ok bytes) →
    let ws := (List.range 8).map fun i => leReg ((bytes.drop (8 * i)).take 8)
    let d := collDesc ws
    d.illegal ws = false → d.nonCanonical = none →
    ({ s1 with acting := none } : State).communicator x.ctx d.comm = some (rank, members) →
    s1.collInWindow x.ctx d members.length = (s3, false) → s3.gangMembers = [] →
    ({ s3 with acting := none } : State).engineWrite x.ctx d.stat (bytesLe 8 0) = (s2, .ok ()) →
    ∃ t c, exec (.coll r a nb) s = .next t ∧ t.colls = s2.colls ++ [c] ∧ t.mem = s2.mem ∧
      (t.wg? w).map Workgroup.writes = some [] ∧ Passes t w g gr ∧
      (t.grp? w g).map Group.engineCount = some (gr.engineCount + 1) ∧ c.ctx = x.ctx ∧ c.comm = d.comm ∧
      c.number = (s2.collNext.lookup (x.ctx, d.comm)).getD 0 ∧ c.rank = rank ∧ c.members = members ∧ c.halted = [] ∧
      c.cmd.regs = ws ∧ c.cmd.bar = barOf r nb ∧ (t.collNext.lookup (x.ctx, d.comm)) = some (c.number + 1)) ∧
  (∀ (s : State) (c : Coll), s.power = true → s.running = true →
    (∀ (s1 s2 : State) (k : CollWork), s.collReady s.input.unit = some c → (∀ y ∈ s.colls, y.id = s.input.unit → y = c) →
      { s with acting := some c.cmd.order }.collWork c s.input.data = (s1, .ok k) →
      State.collStore c (collDesc c.cmd.regs) k.granules.flatten (s1.sendColl c k) = (s2, none) →
      exec .collComplete s = .next ({ s2 with acting := none }.finishColl c (if k.mismatch then 9 else 1))) ∧
    ((∀ y ∈ s.colls, y.id = s.input.unit → y = c) → c.cmd.dying = false →
      (c.halted ≠ [] ∨ (∃ y, s.wg? c.cmd.wg = some y ∧ ∃ gr ∈ y.groups, ∃ q, gr.stop = .halted q) ∨
        ∃ y ∈ s.colls, y.ctx = c.ctx ∧ y.comm = c.comm ∧ y.number < c.number) → exec .collComplete s = .next s) ∧
    ((s.colls.find? fun y => y.id == s.input.unit) = some c → s.input.sub < c.members.length → s.input.sub ≠ c.rank →
      (c.halted.contains s.input.sub = false → ∃ t, exec .peerHaltedNotice s = .next t ∧
        t.colls = s.colls.map (fun y => if y.id = c.id then { y with halted := s.input.sub :: y.halted } else y)) ∧
      (c.halted.contains s.input.sub = true → ∃ t, exec .peerResumedNotice s = .next t ∧
        t.colls = s.colls.map (fun y => if y.id = c.id then
          { y with halted := c.halted.filter (· ≠ s.input.sub), since := s.tick } else y)) ∧
      (s.input.ok = true → c.cmd.dying = false → ∃ (u : State) (v : Nat), exec .collPeerLost s = .next (u.finishColl c v) ∧
        v < 16 ∧ v.testBit 0 = true ∧ v.testBit 1 = false ∧ v.testBit 2 = true))) ∧
  (∀ (s s1 : State) (c : Coll) (v : Nat), s.engineWrite c.ctx (collDesc c.cmd.regs).stat (bytesLe 8 v) = (s1, .ok ()) →
    (∀ y ∈ (s.finishColl c v).colls, y.id ≠ c.id) ∧
    (c.cmd.bar = none → (∃ x, s1.wg? c.cmd.wg = some x ∧ x.anyLive = true) → (s.finishColl c v).mem = s1.mem)) ∧
  (∀ (s s1 : State) (c : Coll) (others : List Byte) (bs : List (List Byte)),
    let d := collDesc c.cmd.regs
    let n := c.members.length
    d.op ≠ 3 → State.collBlocks c d ((List.range n).map fun q => (if d.op = 2 then q * d.count else 0, d.count)) s = (s1, .ok bs) →
    s.collWork c others = (s1, .ok (gathered c d bs others))) ∧
  (∀ (c : Coll) (d : CollDesc) (bs : List (List Byte)) (others : List Byte),
    let n := c.members.length
    let of (p : Nat) : List Byte := if p = c.rank then bs.getD c.rank []
      else (others.drop ((if p < c.rank then p else p - 1) * (d.count * d.esz))).take (d.count * d.esz)
    (bs.getD c.rank []).length = d.count * d.esz → others.length = (n - 1) * (d.count * d.esz) → c.rank < n →
    (d.op = 1 → ∀ y, y ∈ (gathered c d bs others).granules.flatten ↔ ∃ p i, p < n ∧ i < d.count ∧
      y = (p * d.count + i, ((of p).drop (i * d.esz)).take d.esz)) ∧
    (d.op ≠ 1 → (gathered c d bs others).granules.flatten = (List.range d.count).map fun i =>
      (i, bytesLe d.esz (reduceAll d.red d.type ((List.range n).map fun p => leNat (((of p).drop (i * d.esz)).take d.esz)))))) ∧
  (∀ (c : Coll) (e : Nat) (tb : List Byte) (bs : List (List Byte)) (others : List Byte) (y : Nat × List Byte),
    let n := c.members.length
    let word (j : Nat) : Nat := leNat ((tb.drop (4 * j)).take 4)
    let peers := peerBlocks n c.rank e ((List.range n).filter (· ≠ c.rank)) others
    tb.length = 16 * n → c.rank < n →
    (y ∈ (allToAll c e tb bs others).granules.flatten ↔
      (∃ i, i < min (word (2 * n + c.rank)) (word c.rank) ∧
        y = (word (3 * n + c.rank) + i, elementOf (bs.getD c.rank []) e i)) ∨
      ∃ p k i, p < n ∧ p ≠ c.rank ∧ peers.lookup p = some k ∧ i < min (word (2 * n + p)) (k.scnt.getD c.rank 0) ∧
        y = (word (3 * n + p) + i, elementOf k.block e i))) ∧
  (∀ (xs : List Nat), xs ≠ [] → (∀ v ∈ xs, v < 2 ^ 32) → reduceAll 0 6 xs = xs.sum % 2 ^ 32) ∧
  (∀ (xs : List Nat), xs ≠ [] → (∀ v ∈ xs, v < 2 ^ 32) → (reduceAll 2 6 xs ∈ xs ∧ ∀ v ∈ xs, v ≤ reduceAll 2 6 xs) ∧
    reduceAll 1 6 xs ∈ xs ∧ ∀ v ∈ xs, reduceAll 1 6 xs ≤ v) ∧
  (∀ (xs : List Nat) (red type v : Nat), red < 3 → type ∈ [8, 9, 10] → v ∈ xs →
    (((fmtOfType type).getD fp32).decode v).isNan = true → reduceAll red type xs = ((fmtOfType type).getD fp32).nan)


/-! ### Boot, power, clocks -/

/-- R387, R388, R390: the boot sequence. The ROM clears the measurements and extends MR0; an image that passes the format check is
measured into MR1 and MR3 and its code sections into MR2, any other leads to Recovery with code 3; a stack or a host port that
does not train leads to Failed; an enabled scale-up port that is Down, and whose island may be powered, starts to detect, and the
module is Ready when each enabled port is Up or Failed, with which the CXL ports that report a capacity are fixed (R396, R398). R390: extending MRn by D writes the digest of the bytes of MRn and then those of D. What the capabilities of
the CXL ports are fixed to is the model's choice (DEDUCED: notes/assumptions/94). -/
def Sys2Proof.Rules.BootRule : Prop :=
  (∀ m d : BitVec 384, extendMr m d = sha384 (beBytes 48 m.toNat ++ beBytes 48 d.toNat)) ∧
  ∀ s : State, s.power = true → s.stopped = false →
    let img := if s.bootRecovery then s.staged.getD [] else s.image
    let code := (imageSections img).filter fun x => x.kind ≤ 2
    let enabled (p : Nat) := s.portEn.getLsbD p && s.portsFitted.getLsbD p
    let powered (p : Nat) := !s.islandMask.getLsbD (896 + p)
    (s.bootState = 0 → ∃ t, exec .powerOn s = .next t ∧ t.bootState = 1 ∧
      t.mrs[0] = extendMr 0 (Config.romDigest ()) ∧ ∀ i : Fin 8, i ≠ 0 → t.mrs[i] = 0) ∧
    (s.bootState = 1 → imageOk img = true → ∃ t, exec .bootMeasure s = .next t ∧ t.bootState = 2 ∧ t.portEn = imagePorts img ∧
      t.mrs[1] = extendMr s.mrs[1] (sha384 (wholeImage img)) ∧ t.mrs[3] = extendMr s.mrs[3] (configDigest img) ∧
      (∀ i : Fin 8, i ≠ 1 → i ≠ 3 → t.mrs[i] = s.mrs[i])) ∧
    (s.bootState = 1 → imageOk img = false → exec .bootMeasure s = .next { s with bootState := 7, bootErr := 3 }) ∧
    (s.bootState = 2 → ∃ t, exec .bootLoad s = .next t ∧ t.bootState = 3 ∧ (∀ i : Fin 8, i ≠ 2 → t.mrs[i] = s.mrs[i]) ∧
      t.mrs[2] = code.foldl (fun m x => extendMr m (sha384 (sectionBytes img x))) s.mrs[2]) ∧
    (s.bootState = 3 → exec .hbmTrainingDone s =
      .next (if s.input.ok then { s with bootState := 4 } else { s with bootState := 15, bootErr := 1 })) ∧
    (s.bootState = 4 → s.input.ok = false → exec .linkTrainingDone s = .next { s with bootState := 15, bootErr := 2 }) ∧
    (s.bootState = 4 → s.input.ok = true → ∃ t, exec .linkTrainingDone s = .next t ∧ t.bootState = 5 ∧ t.mem = s.mem ∧
      (∀ i, i < 8 → t.cxlUp.getLsbD i = (s.cxlUp.getLsbD i && !s.input.val.getLsbD i)) ∧
      ∀ (p : Nat) (l : Link), p < 96 → s.links[p]? = some l →
        t.links[p]? = some (if enabled p && powered p && l.state == .down then { state := .detect, attempts := 0, since := s.tick } else l)) ∧
    (s.bootState = 5 → (∀ (p : Nat) (l : Link), p < 96 → enabled p = true → s.links[p]? = some l → l.state = .up ∨ l.state = .failed) →
      exec .fabricPortsSettled s = .next { s with bootState := 6, cxlCap := ~~~s.cxlPeer &&& s.cxlUp }) ∧
    (s.bootState = 5 → (∃ (p : Nat) (l : Link), p < 96 ∧ enabled p = true ∧ s.links[p]? = some l ∧ l.state ≠ .up ∧ l.state ≠ .failed) →
      exec .fabricPortsSettled s = .next s)

/-- R387, R393: a RESET leaves the image slot and enters ROM with the rest of the module as after reset; a loss of power leaves
the module without power, in which nothing but the return of power comes about, and the slot of an image write that was under way
with no image that passes; its return enters ROM. When a RESET acts, what it keeps, and that it clears memory, are the model's choice
(DEDUCED: notes/assumptions/72). -/
def Sys2Proof.Rules.ResetAndPowerRule : Prop :=
  (∀ s : State, s.power = true → s.stopped = false → s.mbDone = false → s.mbOp = 15 → ∃ t, exec .reset s = .next t ∧ t.bootState = 0 ∧ t.image = s.image ∧
    t.mem = [] ∧ t.wgs = [] ∧ t.graphs = [] ∧ t.ctxs = [] ∧ t.queues = [] ∧ t.tick = 0 ∧ t.mrs = Vector.replicate 8 0 ∧
    t.cxlPeer = s.cxlPeer ∧ t.bootCount = s.bootCount + 1) ∧
  (∀ s : State, s.power = true → ∃ t, exec .powerLoss s = .next t ∧ t.power = false ∧ t.mem = [] ∧
    (s.mbDone = true ∨ s.mbOp ≠ 14 → t.image = s.image) ∧ (s.mbDone = false → s.mbOp = 14 → imageOk t.image = false) ∧
    t.wgs = [] ∧ t.graphs = [] ∧ t.ctxs = [] ∧ t.queues = [] ∧ t.mrs = Vector.replicate 8 0) ∧
  (∀ s : State, s.power = false → (∃ t, exec .powerOn s = .next t ∧ t.power = true ∧ t.bootState = 1 ∧ t.image = s.image ∧ t.mem = [] ∧
    t.wgs = [] ∧ t.graphs = [] ∧ t.ctxs = [] ∧ t.queues = [] ∧ t.bootCount = s.bootCount + 1) ∧
    exec .reset s = .fault .noPower ∧ exec .bootMeasure s = .fault .noPower ∧ exec .tailWrite s = .fault .noPower)

/-- R387, R388, R390: the boot sequence. The ROM clears the measurements and extends MR0; an image that passes the format
check is measured into MR1 and MR3 and its code sections into MR2, any other leads to Recovery with code 3; a stack or a host
port that does not train leads to Failed; an enabled scale-up port that is Down, and whose island may be powered, starts to
detect, and the module is Ready when each enabled port is Up or Failed, with which the CXL ports that report a capacity are
fixed (R396, R398). R390: extending MRn by D writes the digest of the bytes of MRn and then those of D. What the capabilities
of the CXL ports are fixed to is the model's choice (DEDUCED: notes/assumptions/94). R387, R393: a RESET leaves the image
slot and enters ROM with the rest of the module as after reset; a loss of power leaves the module without power, in which
nothing but the return of power comes about, and the slot of an image write that was under way with no image that passes; its
return enters ROM. When a RESET acts, what it keeps, and that it clears memory, are the model's choice (DEDUCED:
notes/assumptions/72). -/
def Obligations.BootAndReset : Prop := BootRule ∧ ResetAndPowerRule

/-- R384, R397: the controller sets an island to a point of the ladder in normal mode, and none in locked mode; the critical temperature drops every island to point 0, which in
locked mode is a loss of lock; 1 s later the module has cooled or fails. An island that cannot hold the point in locked mode
takes all with it, and LOST stays until it is cleared. A clock mode takes effect at a tick that is a multiple of 65,536. That points and
temperatures change by events of the environment, and when those act, is the model's choice (DESIGN CHOICE: notes/assumptions/101). -/
def Sys2Proof.Rules.PowerAndClocksRule : Prop :=
  ∀ s : State, s.power = true →
    (∀ i, s.input.unit = i → i < 1024 → s.clkMode = false → s.input.val.toNat ≤ 20 → (s.input.val = 0 ∨ s.critical = none) → ∃ t, exec .powerThrottle s = .next t ∧
      t.pointOf i = s.input.val.toNat ∧ (∀ j, j ≠ i → t.pointOf j = s.pointOf j) ∧ t.clkPoint = s.clkPoint ∧ t.mem = s.mem) ∧
    (s.clkMode = true ∨ (s.input.val ≠ 0 ∧ s.critical ≠ none) → exec .powerThrottle s = .next s) ∧
    (∃ t, exec .criticalTemperature s = .next t ∧ (∀ j, t.pointOf j = 0) ∧ t.critical = some (s.critical.getD s.tick) ∧
      (s.clkMode = true → 0 < s.clkPoint → t.lockLost = true ∧ t.lockTick = BitVec.ofNat 48 s.tick) ∧
      (s.clkMode = false → t.lockLost = s.lockLost ∧ t.lockTick = s.lockTick)) ∧
    (∀ k, s.critical = some k →
      (s.tick < k + 1000000000 → exec .criticalTemperatureTimeout s = .next s) ∧
      (k + 1000000000 ≤ s.tick → exec .criticalTemperatureTimeout s =
        .next { s with critical := none, bootState := if s.input.ok then 15 else s.bootState })) ∧
    (s.clkMode = true → s.input.val.toNat < s.clkPoint → ∃ t, exec .lockLost s = .next t ∧ t.lockLost = true ∧
      t.lockTick = BitVec.ofNat 48 s.tick ∧ (∀ j, t.pointOf j = s.input.val.toNat) ∧ t.mem = s.mem) ∧
    (s.input.val.getLsbD 63 = true → exec .lockstClear s = .next { s with lockLost := false }) ∧
    (∀ m p k, s.clkPending = some (m, p, k) → k < s.tick →
      (s.tick % 65536 = 0 → exec .clockModeChange s =
        .next { s with clkMode := m, clkPoint := p, clkPending := none, islandPoint := [] }) ∧
      (s.tick % 65536 ≠ 0 → exec .clockModeChange s = .next s)) ∧
    (∀ i ∈ clockEvents, ∃ t, exec i s = .next t ∧ (s.lockLost = true → t.lockLost = true))

/-- R371 to R373: a value above the tick arms a stop, any other disarms it; the module stops when the tick has reached STOPTICK, and
goes on when RESUME is written; while it stands no thread issues, and no queue, engine, timer, link or mailbox goes on. To agree with its partners the tick is held or
doubled, at most once in 1,024 ticks and only with a port Up. What a STOPTICK that is not above the tick does is the model's choice
(DEDUCED: notes/assumptions/66). -/
def Sys2Proof.Rules.StopsAndTickRule : Prop :=
  ∀ s : State, s.power = true →
    (exec .stoptickWrite s = .next { s with stopTick := s.input.val, stopArmed := decide (s.tick < s.input.val.toNat) }) ∧
    (s.stopArmed = true → s.stopTick.toNat ≤ s.tick → exec .moduleStop s = .next { s with stopped := true, stopArmed := false }) ∧
    ((s.stopArmed = false ∨ s.tick < s.stopTick.toNat) → exec .moduleStop s = .next s) ∧
    (s.input.val.getLsbD 2 = true → exec .stopResume s = .next { s with stopped := false }) ∧
    (s.stopped = true → (∀ i ∈ clockedEvents, exec i s = .next s) ∧ (∀ i ∈ mailboxEvents, exec i s = .next s) ∧
      (∀ u, s.issue u = .next s) ∧ s.ownIssue = none ∧ s.ownEvent = none) ∧
    (s.stopped = false → s.bootState ≠ 15 →
      let may := (∃ l ∈ s.links, l.state = .up) ∧ ∀ k, s.corrected = some k → k + 1024 ≤ s.tick
      (¬ may → exec .tickCorrection s = .next s) ∧
      (may → s.input.ok = false → exec .tickCorrection s = .next { s with corrected := some s.tick }) ∧
      (may → s.input.ok = true → ∃ t, exec .tickCorrection s = .next t ∧ t.tick = s.tick + 1 ∧ t.corrected = some s.tick))

/-- R384, R397: the controller sets an island to a point of the ladder in normal mode, and none in locked mode; the critical
temperature drops every island to point 0, which in locked mode is a loss of lock; 1 s later the module has cooled or fails.
An island that cannot hold the point in locked mode takes all with it, and LOST stays until it is cleared. A clock mode takes
effect at a tick that is a multiple of 65,536. That points and temperatures change by events of the environment, and when
those act, is the model's choice (DESIGN CHOICE: notes/assumptions/101). R371 to R373: a value above the tick arms a stop,
any other disarms it; the module stops when the tick has reached STOPTICK, and goes on when RESUME is written; while it
stands no thread issues, and no queue, engine, timer, link or mailbox goes on. To agree with its partners the tick is held or
doubled, at most once in 1,024 ticks and only with a port Up. What a STOPTICK that is not above the tick does is the model's
choice (DEDUCED: notes/assumptions/66). -/
def Obligations.ClocksAndStops : Prop := PowerAndClocksRule ∧ StopsAndTickRule

/-- R379 to R383: a configuration whose period or size is out of range is refused; a change of EN from 0 to 1 clears the counters.
A sample is latched at a tick that is a multiple of 2^K: its tick, the lock state, and from byte 64 the counters; it is lost,
and counted as lost, when its ring is full: after 2^SIZE samples, which is the model's choice (DEDUCED: notes/assumptions/31); and which counters have a
value that the spec fixes is (DEDUCED: notes/assumptions/17). -/
def Sys2Proof.Rules.SamplerRule : Prop :=
  ∀ s : State, s.power = true → s.running = true →
    let v := s.input.val
    let base : Reg := s.sampler0[0]
    let cfg : Reg := s.sampler0[1]
    let prod : Reg := s.sampler0[2]
    let k := (bf v 3 5).toNat
    let z := (bf v 24 8).toNat
    let legal := v.getLsbD 0 = true → (10 ≤ k ∧ k ≤ 24 ∧ 4 ≤ z ∧ z ≤ 20)
    (s.input.unit = 1024 →
      (¬ legal → exec .samplerConfigWrite s = .next s) ∧
      (legal → ∃ t, exec .samplerConfigWrite s = .next t ∧ (t.sampler0[1] : Reg) = v &&& 0xFF0000F9 ∧ (t.sampler0[0] : Reg) = base ∧
        (v.getLsbD 0 = true → cfg.getLsbD 0 = false → t.counters0 = []) ∧
        ((v.getLsbD 0 = false ∨ cfg.getLsbD 0 = true) → t.counters0 = s.counters0)) ∧
      (cfg.getLsbD 0 = true → s.tick % 2 ^ (bf cfg 3 5).toNat = 0 → s.sampled0 ≠ some s.tick →
        (2 ^ (bf cfg 24 8).toNat ≤ (bf prod 0 48).toNat → ∃ t, exec .sampleLatch s = .next t ∧ t.hostMem = s.hostMem ∧
          bf (t.sampler0[2] : Reg) 48 16 = bf prod 48 16 + 1) ∧
        ((bf prod 0 48).toNat < 2 ^ (bf cfg 24 8).toNat → Memory.wf s.hostMem = true →
          let p := base.toNat + 8992 * (bf prod 0 48).toNat
          ∃ t, exec .sampleLatch s = .next t ∧ t.mem = s.mem ∧ t.sampled0 = some s.tick ∧
            bf (t.sampler0[2] : Reg) 0 48 = bf prod 0 48 + 1 ∧
            leNat (readBytes t.hostMem p 8) = s.tick % 2 ^ 64 ∧ leReg (readBytes t.hostMem (p + 8) 8) = s.lockst ∧
            ∀ i, i < 48 ∨ (624 ≤ i ∧ i < 876) ∨ (884 ≤ i ∧ i < 888) ∨ (1104 ≤ i ∧ i < 1116) → leNat (readBytes t.hostMem (p + 64 + 8 * i) 8) = ((s.counters0.lookup i).getD 0) % 2 ^ 64))) ∧
    (∀ x : Context, s.ctx? s.input.unit = some x → s.input.unit ≠ 1024 →
      (¬ legal → exec .samplerConfigWrite s = .next (s.serviceError s.input.unit)) ∧
      (legal → ∃ t y, exec .samplerConfigWrite s = .next t ∧ t.ctx? s.input.unit = some y ∧ y.sctl = v &&& 0xFF0000F9 ∧ y.sbase = x.sbase ∧
        y.cevt = x.cevt ∧ (v.getLsbD 0 = true → x.sctl.getLsbD 0 = false → y.counters = [])) ∧
      (∀ s1, x.sctl.getLsbD 0 = true → s.tick % 2 ^ (bf x.sctl 3 5).toNat = 0 → x.sampled ≠ some s.tick → samplerFull x.sctl x.sprod = false →
        (s.counterWords x.counters false).1.writeRun x.id (samplePlace x.sbase x.sprod)
          (s.sampleBytes (s.counterWords x.counters false).2) = (s1, .ok ()) →
        ∃ t, exec .sampleLatch s = .next t ∧ t.mem = s1.mem ∧ ∀ y, s1.ctx? s.input.unit = some y →
          (t.ctx? s.input.unit).map (fun c => (c.sampled, c.sprod)) = some (some s.tick, sampleCounted y.sprod false)))

/-- R395: a device event writes its record of 32 bytes at the next place of the host's ring, counts it and raises its interrupt; in a
full ring it is counted as dropped, in bits 63:48. Clearing a context's events clears those named. -/
def Sys2Proof.Rules.EventsRule : Prop :=
  (∀ (s : State) (code num : Nat) (a : Reg), 4 ≤ (bf s.evCfg 0 5).toNat → (bf s.evCfg 0 5).toNat ≤ 16 →
    let n := (bf s.evCfg 0 5).toNat
    let used := (bf s.evProd 0 48 - bf s.evCons 0 48).toNat
    let t := s.deviceEvent code num a
    (used < 2 ^ n → Memory.wf s.hostMem = true →
      readBytes t.hostMem (s.evBase.toNat + 32 * ((bf s.evProd 0 48).toNat % 2 ^ n)) 32 =
        leBytes 8 s.tick ++ leBytes 4 code ++ leBytes 4 num ++ leBytes 8 a.toNat ++ leBytes 8 0 ∧
      bf t.evProd 0 48 = bf s.evProd 0 48 + 1 ∧ bf t.evProd 48 16 = bf s.evProd 48 16 ∧ t.irqs = (bf s.evCfg 16 11).toNat :: s.irqs) ∧
    (2 ^ n ≤ used → t.hostMem = s.hostMem ∧ t.irqs = s.irqs ∧ bf t.evProd 0 48 = bf s.evProd 0 48 ∧
      bf t.evProd 48 16 = bf s.evProd 48 16 + 1)) ∧
  (∀ (s : State) (x : Context), s.power = true → s.running = true → s.ctx? s.input.unit = some x →
    ∃ t y, exec .cevtClear s = .next t ∧ t.mem = s.mem ∧ t.ctx? s.input.unit = some y ∧
      (∀ i, y.cevt.getLsbD i = (x.cevt.getLsbD i && !s.input.val.getLsbD i)) ∧ { y with cevt := x.cevt } = x)

/-- R379 to R383: a configuration whose period or size is out of range is refused; a change of EN from 0 to 1 clears the
counters. A sample is latched at a tick that is a multiple of 2^K: its tick, the lock state, and from byte 64 the counters;
it is lost, and counted as lost, when its ring is full: after 2^SIZE samples, which is the model's choice (DEDUCED:
notes/assumptions/31); and which counters have a value that the spec fixes is (DEDUCED: notes/assumptions/17). R395: a device
event writes its record of 32 bytes at the next place of the host's ring, counts it and raises its interrupt; in a full ring
it is counted as dropped, in bits 63:48. Clearing a context's events clears those named. -/
def Obligations.SamplerAndEvents : Prop := SamplerRule ∧ EventsRule

/-! ### The mailbox -/

/-- R387, R389, R393: a doorbell starts the block's command; one while a command runs is discarded with busy, and so is one before Ready,
but for IMAGE_LOAD and, of a failed module, RESET, which is the model's reading (DEDUCED: notes/assumptions/71); an opcode of none ends with code 2. A doorbell's block is the running command's until
it ends, which raises the sequence number and sets DONE. -/
def Sys2Proof.Rules.MailboxCodesRule : Prop :=
  (∀ (s : State) (n : Nat), (s.mbEnd n).mbSeq = s.mbSeq + 1 ∧ (s.mbEnd n).mbCode = BitVec.ofNat 8 n ∧ (s.mbEnd n).mbDone = true ∧
    (s.mbEnd n).mem = s.mem) ∧
  (∀ s : State, bf (s.mailboxRead 0x40) 0 8 = s.mbCode ∧ (s.mailboxRead 0x40).getLsbD 8 = s.mbDone ∧ bf (s.mailboxRead 0x40) 32 32 = s.mbSeq) ∧
  (∀ s : State, s.power = true → s.stopped = false → s.input.addr = 0x100048 → let op := blockOp s.mailbox
    (s.mbDone = false → exec .registerWrite s = .next { s with mbCode := 1 }) ∧
    (s.mbDone = true → s.bootState ≠ 6 → op ≠ 13 → (s.bootState = 15 → op ≠ 15) → exec .registerWrite s = .next { s with mbCode := 1 }) ∧
    (s.mbDone = true → s.bootState = 6 → (op = 0 ∨ 15 < op) → exec .registerWrite s = .next (s.mbEnd 2)) ∧
    (s.mbDone = true → (s.bootState = 6 ∨ op = 13 ∨ (s.bootState = 15 ∧ op = 15)) → 1 ≤ op → op ≤ 15 →
      exec .registerWrite s = .next { s with mbBlock := s.mailbox, mbDone := false })) ∧
  (∀ s : State, s.power = true → s.stopped = false → ∀ e ∈ commandEvents,
    (s.mbDone = false → s.mbOp ≠ e.2 → exec e.1 s = .next s) ∧
    (s.mbDone = true → blockOp s.mailbox = e.2 → s.ring.mbDone = false → exec e.1 s = exec e.1 s.ring) ∧
    (s.mbDone = true → blockOp s.mailbox = e.2 → s.bootState ≠ 6 → e.2 ≠ 13 → (s.bootState = 15 → e.2 ≠ 15) →
      exec e.1 s = .next { s with mbCode := 1 })) ∧
  (∀ s : State, Mailed s 13 → let img := readBytes s.hostMem (s.mbWord 1).toNat (s.mbWord 2).toNat
    ((s.bootState ≠ 7 ∨ 64 * 1024 * 1024 < (s.mbWord 2).toNat) → Refused s .imageLoad) ∧
    (s.bootState = 7 → (s.mbWord 2).toNat ≤ 64 * 1024 * 1024 →
      (s.input.ok = false → exec .imageLoad s = .next (s.mbEnd 4)) ∧
      (s.input.ok = true → imageOk img = true →
        Done s .imageLoad { s with staged := some img, bootRecovery := true, bootState := 1, bootErr := 0 }) ∧
      (s.input.ok = true → imageOk img = false → Refused s .imageLoad)))

/-- R393, R394: a context is made from its block, with its management page at reset, when its number is free and the block's fields are
within their limits; a context that ends loses its work, queues, translations and page. R287: a queue is set up for a context that has not failed (R339), and one that is disabled keeps the packets it has copied. That a block's fields are checked whatever unit they configure is the model's
choice (DEDUCED: notes/assumptions/73). -/
def Sys2Proof.Rules.ContextsAndQueuesRule : Prop :=
  (∀ s : State, Mailed s 1 → let c := s.mbIndex; let b := blockAt s (s.mbWord 1)
    (1024 ≤ c ∨ (s.ctx? c).isSome = true → Refused s .ctxCreate) ∧
    (c < 1024 → s.ctx? c = none →
      (s.input.ok = false → exec .ctxCreate s = .next (s.mbEnd 4)) ∧
      (s.input.ok = true → contextBlockOk b = false → Refused s .ctxCreate) ∧
      (s.input.ok = true → contextBlockOk b = true → ∃ t x, exec .ctxCreate s = .next t ∧ t.mbCode = 0 ∧ t.mem = s.mem ∧
        (∀ d, d ≠ c → t.ctx? d = s.ctx? d) ∧ t.ctx? c = some x ∧ x.pasid = (bf (blockWord b 0) 0 20).toNat ∧
        x.sliceGroup = (bf (blockWord b 0) 20 8).toNat ∧ x.root = blockWord b 1 ∧ x.rcbBase = blockWord b 2 ∧ x.logBase = blockWord b 3 ∧
        x.logSize = (bf (blockWord b 4) 0 5).toNat ∧ x.logVector = (bf (blockWord b 4) 16 11).toNat ∧ x.saveBase = blockWord b 5 ∧
        x.saveSize = (blockWord b 6).toNat ∧ x.bindBase = blockWord b 7 ∧ x.commBase = blockWord b 8 ∧
        x.fabricTimeout = 2 ^ (blockWord b 9).toNat ∧ x.cevt = 0 ∧ x.flprod = 0 ∧ x.flcons = 0 ∧ x.fllost = 0))) ∧
  (∀ b : List Byte, contextBlockOk b = true → bf (blockWord b 0) 28 36 = 0 ∧ bf (blockWord b 1) 0 11 = 0 ∧ bf (blockWord b 1) 52 12 = 0 ∧
    16 ≤ (blockWord b 9).toNat ∧ (blockWord b 9).toNat ≤ 32 ∧
    6 ≤ (bf (blockWord b 4) 0 5).toNat ∧ (bf (blockWord b 4) 0 5).toNat ≤ 16 ∧ bf (blockWord b 4) 5 11 = 0 ∧ bf (blockWord b 4) 27 37 = 0 ∧
    ∀ i, 10 ≤ i → i < 16 → blockWord b i = 0) ∧
  (∀ s : State, Mailed s 2 → let c := s.mbIndex
    (s.ctx? c = none → Refused s .ctxDestroy) ∧
    ((s.ctx? c).isSome = true → ∃ t, exec .ctxDestroy s = .next t ∧ t.mbCode = 0 ∧ t.ctx? c = none ∧ (∀ w ∈ t.wgs, w.ctx ≠ c) ∧
      (∀ g ∈ t.graphs, g.ctx ≠ c) ∧ (∀ q ∈ t.queues, q.2.ctx ≠ c) ∧ (∀ e ∈ t.tlb, e.ctx ≠ c) ∧ (∀ v ∈ t.services, v.ctx ≠ c) ∧
      (∀ m ∈ t.gangMembers, m.ctx ≠ c))) ∧
  (∀ s : State, Mailed s 3 → s.mbIndex < 4096 → let w := s.mbWord 1; let q := s.mbIndex
    bf w 10 53 = 0 → (s.ctx? (bf w 0 10).toNat).isSome = true →
    (∀ n k, (s.mbWord 3).toNat = n → (s.mbWord 4).toNat = k → w.getLsbD 63 = true →
      (4 ≤ n → n ≤ 16 → 1 ≤ k → k ≤ 1024 → bf (s.mbWord 2) 0 6 = 0 →
        s.ctxFailed (bf w 0 10).toNat = false → ∃ t x, exec .queueSet s = .next t ∧ t.mbCode = 0 ∧
        t.queues.lookup q = some x ∧ (∀ p, p ≠ q → t.queues.lookup p = s.queues.lookup p) ∧ x.ctx = (bf w 0 10).toNat ∧ x.enabled = true ∧
        x.base = s.mbWord 2 ∧ x.size = 2 ^ n ∧ x.tickets = k ∧ x.tail = 0 ∧ x.head = 0 ∧ x.buffer = [] ∧ x.pass = 0) ∧
      ((n < 4 ∨ 16 < n ∨ k < 1 ∨ 1024 < k ∨ bf (s.mbWord 2) 0 6 ≠ 0 ∨ s.ctxFailed (bf w 0 10).toNat = true) →
        Refused s .queueSet)) ∧
    (w.getLsbD 63 = false → ∀ x, s.queues.lookup q = some x →
      ∃ t y, exec .queueSet s = .next t ∧ t.mbCode = 0 ∧ t.queues.lookup q = some y ∧ y.enabled = false ∧
        y.buffer = x.buffer ∧ y.head = x.head))

/-- R347: an invalidation performs the context's write-throughs, whose bytes land in order, leaves no byte that an engine has read under a
translation still to be written, and drops the context's translations of a range, or all of them, and no others. The range's ends are
the model's choice (DEDUCED: notes/assumptions/70). -/
def Sys2Proof.Rules.InvalidationRule : Prop :=
  ∀ s : State, Mailed s 4 → let c := s.mbIndex
    (s.ctx? c = none → Refused s .inval) ∧
    ((s.ctx? c).isSome = true → ∃ t, exec .inval s = .next t ∧ t.mbCode = 0 ∧ (∀ e ∈ t.tlb, e ∈ s.tlb) ∧
      (∀ e ∈ t.tlb, e.ctx = c → (s.mbWord 3).getLsbD 0 = false ∧ (e.va + 2 ^ e.size ≤ (s.mbWord 1).toNat ∨ (s.mbWord 2).toNat < e.va)) ∧
      (∀ e ∈ s.tlb, (e.ctx ≠ c ∨ ((s.mbWord 3).getLsbD 0 = false ∧
        (e.va + 2 ^ e.size ≤ (s.mbWord 1).toNat ∨ (s.mbWord 2).toNat < e.va))) → e ∈ t.tlb) ∧
      (∀ w ∈ t.wgs, w.ctx = c → w.writes = []) ∧
      (∀ k ∈ t.cores, ∀ e ∈ k.copy, e.afloat = []) ∧ (∀ q ∈ t.tambours, ∀ e, q.head? = some e → e.afloat = []) ∧
      let ashore := (∀ k ∈ s.cores, ∀ e ∈ k.copy, e.afloat = []) ∧ ∀ q ∈ s.tambours, ∀ e ∈ q, e.afloat = []
      (ashore → (∀ w ∈ s.wgs, w.ctx = c → w.writes = []) → t.mem = s.mem) ∧
      (∀ w, ashore → (s.wgs.map Workgroup.id).Nodup → (s.wgs.filter fun x => x.ctx == c) = [w] →
        (∀ z ∈ w.writes, s.lastPerformed w.id (s.bucketKey c z.addr) < z.seq) →
        w.writes.Pairwise (fun y z => s.bucketKey c y.addr = s.bucketKey c z.addr → y.seq < z.seq) →
        t.mem = w.writes.foldl (fun m z => writeBytes m z.addr z.bytes) s.mem))

/-- R393, R394: a context is made from its block, with its management page at reset, when its number is free and the block's
fields are within their limits; a context that ends loses its work, queues, translations and page. R287: a queue is set up
for a context that has not failed (R339), and one that is disabled keeps the packets it has copied. That a block's fields are
checked whatever unit they configure is the model's choice (DEDUCED: notes/assumptions/73). R347: an invalidation performs
the context's write-throughs, whose bytes land in order, leaves no byte that an engine has read under a translation still to
be written, and drops the context's translations of a range, or all of them, and no others. The range's ends are the model's
choice (DEDUCED: notes/assumptions/70). -/
def Obligations.ContextCommands : Prop := ContextsAndQueuesRule ∧ InvalidationRule

/-- R350, R369, R393, R396, R397: routes, ports, the package's number, the CXL ports' use, the power limit and the island mask, with what
a workgroup that was there before a CXL port's mask keeps. What enabling a port does that is not Down, or whose island is masked, and
which islands a piece of work needs, is the model's choice (DEDUCED: notes/assumptions/75; DEDUCED: notes/assumptions/30). -/
def Sys2Proof.Rules.SettingsRule : Prop :=
  (∀ s : State, Mailed s 5 → s.mbIndex < 4096 →
    (bf (s.mbWord 2) 32 32 = 0 → ∃ t v, exec .routeSet s = .next t ∧ t.mbCode = 0 ∧ t.routes.lookup s.mbIndex = some v ∧
      (∀ i, i < 64 → v.getLsbD i = (s.mbWord 1).getLsbD i) ∧ (∀ i, i < 32 → v.getLsbD (64 + i) = (s.mbWord 2).getLsbD i) ∧
      ∀ p, p ≠ s.mbIndex → t.routes.lookup p = s.routes.lookup p) ∧
    (bf (s.mbWord 2) 32 32 ≠ 0 → Refused s .routeSet)) ∧
  (∀ (s : State) (p : Nat) (l : Link), Mailed s 6 → s.mbIndex = p → p < 96 → s.portsFitted.getLsbD p = true → s.links[p]? = some l →
    let put (st : LinkState) : State := { s with links := s.links.set p { state := st, attempts := 0, since := s.tick } }
    (s.mbWord 1 = 0 → Done s .portDisable (put .down)) ∧
    (s.mbWord 1 = 1 → (l.state = .down → s.islandMask.getLsbD (896 + p) = false → Done s .portEnable (put .detect)) ∧
      ((l.state ≠ .down ∨ s.islandMask.getLsbD (896 + p) = true) → Refused s .portEnable)) ∧
    (s.mbWord 1 = 2 → (l.state = .failed → Done s .portClearFailed (put .down)) ∧ (l.state ≠ .failed → Refused s .portClearFailed))) ∧
  (∀ s : State, Mailed s 7 →
    (s.ctxs = [] → (s.mbWord 1).toNat ≤ 4095 → Done s .pkgSet { s with pkg := (s.mbWord 1).toNat }) ∧
    ((s.ctxs ≠ [] ∨ 4095 < (s.mbWord 1).toNat) → Refused s .pkgSet)) ∧
  (∀ s : State, Mailed s 8 →
    (s.ctxs = [] → s.mbIndex < 8 → (s.mbWord 1).toNat ≤ 1 → ∃ t, exec .cxlSet s = .next t ∧ t.mbCode = 0 ∧
      ∀ i, i < 8 → t.cxlPeer.getLsbD i = (if i = s.mbIndex then decide (s.mbWord 1 = 1) else s.cxlPeer.getLsbD i)) ∧
    ((s.ctxs ≠ [] ∨ 8 ≤ s.mbIndex ∨ 1 < (s.mbWord 1).toNat) → Refused s .cxlSet)) ∧
  (∀ s : State, Mailed s 9 → let l := (s.mbWord 1).toNat
    (1200 ≤ l → l ≤ 3600 → s.input.ok = true →
      ∃ v : Vector Nat 8, (∀ i : Fin 8, v[i] = if s.islandMask.getLsbD (992 + i.val) then s.cxlMasked[i] else s.nextId) ∧
        Done s .powerSet { s with powerLimit := l, islandMask := BitVec.ofNat 1024 (leNat (blockAt s (s.mbWord 2))), cxlMasked := v }) ∧
    ((l < 1200 ∨ 3600 < l) → Refused s .powerSet))

/-- R387, R389, R393: a doorbell starts the block's command; one while a command runs is discarded with busy, and so is one
before Ready, but for IMAGE_LOAD and, of a failed module, RESET, which is the model's reading (DEDUCED:
notes/assumptions/71); an opcode of none ends with code 2. A doorbell's block is the running command's until it ends, which
raises the sequence number and sets DONE. R350, R369, R393, R396, R397: routes, ports, the package's number, the CXL ports'
use, the power limit and the island mask, with what a workgroup that was there before a CXL port's mask keeps. What enabling
a port does that is not Down, or whose island is masked, and which islands a piece of work needs, is the model's choice
(DEDUCED: notes/assumptions/75; DEDUCED: notes/assumptions/30). -/
def Obligations.MailboxSettings : Prop := MailboxCodesRule ∧ SettingsRule

/-- R390 to R393: MR4 to MR7, and no others, are extended by the host; a report holds the nonce and the measurements as they stand, and
their signature; the certificate chain lands in a buffer that can hold it; an image that passes the format check replaces the
slot's. A context's report lands 64 bytes after its buffer's start, and its request reads 0 then. The code of a certificate buffer that is too
short, and what a misaligned request does, are the model's choice (DEDUCED: notes/assumptions/76; DEDUCED: notes/assumptions/77). -/
def Obligations.Attestation : Prop :=
  (∀ s : State, Mailed s 10 → let i := s.mbIndex
    (4 ≤ i ∧ i ≤ 7 → ∃ t, exec .mrExtend s = .next t ∧ t.mbCode = 0 ∧ t.mem = s.mem ∧
      ∀ j : Fin 8, t.mrs[j] = if j.val = i then extendMr s.mrs[j] (mailDigest s) else s.mrs[j]) ∧
    (i < 4 ∨ 7 < i → Refused s .mrExtend)) ∧
  (∀ s : State, Mailed s 11 → s.input.ok = true → Memory.wf s.hostMem = true →
    let a := (s.mbWord 7).toNat
    ∃ t, exec .attest s = .next t ∧ t.mbCode = 0 ∧ t.mrs = s.mrs ∧ leNat (readBytes t.hostMem (a + 4) 4) = s.bootCount.toNat ∧
      leNat (readBytes t.hostMem (a + 8) 8) = s.tick % 2 ^ 64 ∧ leNat (readBytes t.hostMem (a + 16) 2) = 0xFFFF ∧
      readBytes t.hostMem (a + 64) 48 = wordBytes ((List.range 6).map fun i => s.mbWord (i + 1)) ∧
      (∀ j : Fin 8, beNat (readBytes t.hostMem (a + 112 + 48 * j.val) 48) = s.mrs[j].toNat) ∧
      readBytes t.hostMem (a + 544) 96 = deviceSignature (readBytes t.hostMem a 544) s.freeCtr) ∧
  (∀ s : State, Mailed s 12 → let n := Config.certificateLength ()
    ((s.mbWord 2).toNat < n → Refused s .certGet) ∧
    (n ≤ (s.mbWord 2).toNat → s.input.ok = true →
      Done s .certGet { s with hostMem := writeBytes s.hostMem (s.mbWord 1).toNat ((List.range n).map Config.certificate) })) ∧
  (∀ s : State, Mailed s 14 → (s.mbWord 2).toNat ≤ 64 * 1024 * 1024 → s.input.ok = true →
    let img := readBytes s.hostMem (s.mbWord 1).toNat (s.mbWord 2).toNat
    (imageOk img = true → Done s .imageWrite { s with image := img }) ∧ (imageOk img = false → Refused s .imageWrite)) ∧
  (∀ (s : State) (x : Context), s.power = true → s.running = true → s.ctx? s.input.unit = some x →
    (x.attreq = 0 → bf s.input.val 0 6 = 0 → ∃ t y, exec .attreqWrite s = .next t ∧ t.ctx? s.input.unit = some y ∧ y.attreq = s.input.val ∧
      y.cevt = x.cevt) ∧
    (x.attreq ≠ 0 ∨ bf s.input.val 0 6 ≠ 0 → ∃ t y, exec .attreqWrite s = .next t ∧ t.ctx? s.input.unit = some y ∧ y.attreq = x.attreq ∧
      y.cevt = x.cevt ||| 1) ∧
    (∀ (s1 s2 : State) (nonce : List Byte), x.attreq ≠ 0 →
      (s.modCtx s.input.unit fun y => { y with attreq := 0 }).readRun s.input.unit x.attreq.toNat 48 = (s1, .ok nonce) →
      (s1.report s.input.unit nonce).1.writeRun s.input.unit (x.attreq.toNat + 64) (s1.report s.input.unit nonce).2 = (s2, .ok ()) →
      exec .attestationReportDone s = .next s2))

/-- R367, R368, R384 to R386: the host writes the registers of BAR 0, and the host's window reaches the module's memory through APBASE; a
read of an address that leads nowhere answers all ones, with a device event; through the window a register's word of 8 bytes is that
register's write. A register whose write is an event of its own in the opcode table, such as CEVT, whose bits the write of 1 clears, is
written by that event and through the window, and not by the event of plain register writes: the model's split
(DEDUCED: notes/assumptions/119). An access of the host's that gets no completion in time is an input, and the next access that needs one fails
(DESIGN CHOICE: notes/assumptions/84); where APBASE lies and how a register is reached through the window are the model's choice too (DEDUCED: notes/assumptions/68; DEDUCED: notes/assumptions/86). -/
def Obligations.HostAccess : Prop :=
  (∀ s : State, s.power = true → let v := s.input.val
    (s.input.addr = 0x6020 → exec .registerWrite s = .next { s with apBase := v &&& 0xFFFFFFFF00000000 }) ∧
    (s.input.addr = 0x6000 → exec .registerWrite s = .next { s with evBase := v &&& 0xFFFFFFFFFFFFF000 }) ∧
    (s.input.addr = 0x6010 → exec .registerWrite s = .next { s with evCons := v }) ∧
    (s.input.addr = 0x6018 → exec .registerWrite s = .next { s with evCfg := v &&& 0x7FF001F }) ∧
    (s.input.addr = 0x1010 → ((bf v 8 5).toNat ≤ 20 →
        exec .registerWrite s = .next { s with clkPending := some (v.getLsbD 0, (bf v 8 5).toNat, s.tick) }) ∧
      (20 < (bf v 8 5).toNat → exec .registerWrite s = .next s)) ∧
    (∀ i, i < 8 → s.stopped = false → s.input.addr.toNat = 0x100000 + 8 * i →
      exec .registerWrite s = .next { s with mailbox := s.mailbox.setIfInBounds i v }) ∧
    (∀ i, i < 48 → s.input.addr.toNat = 0x4000 + 8 * i → exec .registerWrite s = .next s) ∧
    (∀ (x : Context) (o : Nat), s.stopped = false → s.ctx? x.id = some x → x.id < 1024 → o < 4096 → o % 8 = 0 →
      s.input.addr.toNat = 0x400000 + 4096 * x.id + o → ∃ t y, exec .registerWrite s = .next t ∧ t.ctx? x.id = some y ∧ t.mem = s.mem ∧
        (o = 0x840 → y.traceBase = v) ∧ (o = 0x850 → y.traceProd = v) ∧ (o = 0x870 → y.sprod = v) ∧ (o = 0x938 → y.flcons = v) ∧ (o = 0x860 → y.sbase = v &&& 0xFFFFFFFFFFFFF000) ∧
        (o = 0x828 → bf y.dbgsel 8 56 = bf v 8 56 ∧ bf y.dbgsel 0 8 = 0) ∧
        (o = 0x800 → y.hregion = bf v 16 24 ∧ y.traceEn = v.getLsbD 2 ∧ y.brkEn = v.getLsbD 1) ∧
        (o ∈ [0x910, 0x930, 0x940] → y = x))) ∧
  (∀ s : State, s.power = true → s.running = true → let pa := s.apBase.toNat + s.input.addr.toNat % 2 ^ 32
    (registerOffset pa = none → s.place pa = .memory → (∀ x ∈ s.ctxs, x.lazy = false) →
      (s.input.data = [] → exec .hostApertureAccess s = .next { s with answer := leReg (readBytes s.mem pa (min s.input.sub 8)) }) ∧
      (s.input.data ≠ [] → ∃ t, exec .hostApertureAccess s = .next t ∧ t.mem = writeBytes s.mem pa s.input.data ∧ t.hostMem = s.hostMem)) ∧
    (registerOffset pa = none → s.place pa = .unbacked → s.input.data = [] → ∃ t, exec .hostApertureAccess s = .next t ∧
      t.answer = BitVec.ofNat 64 (2 ^ (8 * min s.input.sub 8) - 1) ∧ t.mem = s.mem) ∧
    (registerOffset pa = some 0x1000 → s.input.data.length = 8 → ∃ t, exec .hostApertureAccess s = .next t ∧
      t.stopTick = leReg s.input.data ∧ t.stopArmed = decide (s.tick < (leReg s.input.data).toNat) ∧ t.mem = s.mem ∧ t.wgs = s.wgs) ∧
    (∀ x : Context, s.ctx? x.id = some x → x.id < 1024 → registerOffset pa = some (0x400000 + 4096 * x.id + 0x910) → s.input.data.length = 8 →
      ∃ t y, exec .hostApertureAccess s = .next t ∧ t.mem = s.mem ∧ t.ctx? x.id = some y ∧
        ∀ i, y.cevt.getLsbD i = (x.cevt.getLsbD i && !(leReg s.input.data).getLsbD i)) ∧
    (∀ port, registerOffset pa = none → s.place pa = .peer port → s.input.data ≠ [] →
      exec .hostApertureAccess s = .next { s with outbox := .peerAccess port (pa % 2 ^ 41) (.write s.input.data) :: s.outbox }) ∧
    (∃ t, exec .hostApertureAccess s = .next t) ∧
    (exec .hostCompletionTimeout s = .next { s with hostFails := s.hostFails + 1 }))

/-! ### Host queues -/

/-- R287: a doorbell that writes TAIL copies the new packets of the ring into the queue's buffer, in ring order; more than there is
room for, or than the ring holds, raises the queue's overrun event and copies none; a queue that is not enabled raises device
event 1. -/
def Sys2Proof.Rules.DoorbellsRule : Prop :=
  ∀ s : State, s.power = true → s.running = true → s.bootState = 6 →
    (∀ q, s.queues.lookup s.input.unit = some q → (s.queues.map Prod.fst).Nodup →
      let tail := s.input.val.toNat % 2 ^ 32
      let n := (tail + 2 ^ 32 - q.tail) % 2 ^ 32
      (q.enabled = false ∨ q.stopped = true → exec .tailWrite s = .next (s.deviceEvent 1 s.input.unit 0)) ∧
      (q.enabled = true → q.stopped = false → (32 - q.buffer.length < n ∨ q.size < n) → ∃ t, exec .tailWrite s = .next t ∧
        t.queues = s.queues ∧ t.mem = s.mem ∧ ∀ x, s.ctx? q.ctx = some x → ∃ y, t.ctx? q.ctx = some y ∧ y.cevt.getLsbD 2 = true ∧
          bf y.cevt 16 12 = BitVec.ofNat 12 s.input.unit) ∧
      (∀ s1 l, q.enabled = true → q.stopped = false → n ≤ 32 - q.buffer.length → n ≤ q.size →
        State.copyPackets q.ctx q ((List.range n).map fun i => (q.tail + i) % 2 ^ 32) s = (s1, some l) →
        ∃ t, exec .tailWrite s = .next t ∧ l.length = n ∧ t.mem = s1.mem ∧
          (t.queues.lookup s.input.unit).map (fun x => (x.tail, x.buffer, x.head)) = some (tail, q.buffer ++ l, q.head))) ∧
    (s.queues.lookup s.input.unit = none → exec .tailWrite s = .next (s.deviceEvent 1 s.input.unit 0))

/-- R288 to R290: the queue served next is the eligible one with the lowest pass, and of those the lowest number. A nop packet ends; a
packet of a reserved type, or with a field that must be zero, raises the context's service error; a signal packet stores its
value; a wait packet ends when its word has reached its value and holds the queue until then. -/
def Sys2Proof.Rules.PacketsRule : Prop :=
  (∀ (s : State) (n : Nat) (q : HostQueue), (s.queues.map Prod.fst).Nodup → s.nextQueue = some (n, q) → s.eligible n q = true ∧
    ∀ e ∈ s.queues, s.eligible e.1 e.2 = true → q.pass < e.2.pass ∨ (q.pass = e.2.pass ∧ n ≤ e.1)) ∧
  (∀ (s : State) (q : HostQueue) (b : List Byte), Serves s q b 0 →
    (PlainPacket b 0xF800000000000000 [] → ∃ t, exec .nopPacket s = .next t ∧ PacketDone s t q ∧ t.mem = s.mem ∧ t.ctxs = s.ctxs) ∧
    (¬ PlainPacket b 0xF800000000000000 [] → ∃ t, exec .nopPacket s = .next t ∧ PacketDone s t q ∧ t.mem = s.mem ∧
      t.ctxs = (s.serviceError q.ctx).ctxs)) ∧
  (∀ (s : State) (q : HostQueue) (b : List Byte) (k : Nat), Serves s q b k → 4 ≤ k →
    ∃ t, exec .reservedTypePacket s = .next t ∧ PacketDone s t q ∧ t.mem = s.mem ∧ t.ctxs = (s.serviceError q.ctx).ctxs) ∧
  (∀ (s : State) (q : HostQueue) (b : List Byte), Serves s q b 3 → PlainPacket b 0xFF00000000000000 [3, 4] →
    3 ≤ (bf (blockWord b 0) 56 3).toNat → (bf (blockWord b 0) 56 3).toNat ≤ 5 → bf (blockWord b 3) 0 3 = 0 →
    let p := s.noteEligible.modQueue s.input.unit fun x => { x with pass := x.pass + 1048576 / s.noteEligible.effectiveTickets s.input.unit q }
    ∃ t, exec .signalPacket s = .next t ∧ PacketDone s t q ∧ t.mem = (p.reportStore q.ctx (blockWord b 3) (blockWord b 4)).mem) ∧
  (∀ (s : State) (q : HostQueue) (b : List Byte) (s1 : State) (v : List Byte), Serves s q b 2 → PlainPacket b 0xF8FFF80000000000 [3, 4] →
    bf (blockWord b 3) 0 3 = 0 → ((blockWord b 0).getLsbD 43 = false → bf (blockWord b 0) 44 12 = 0) →
    let p := s.noteEligible.modQueue s.input.unit fun x => { x with pass := x.pass + 1048576 / s.noteEligible.effectiveTickets s.input.unit q }
    p.fetchBytes q.ctx (blockWord b 3).toNat 8 = (s1, .ok v) →
    ((blockWord b 4).toNat ≤ leNat v → ∃ t, exec .waitPacket s = .next t ∧ PacketDone s t q ∧ t.mem = s1.mem) ∧
    (leNat v < (blockWord b 4).toNat → ∃ t, exec .waitPacket s = .next t ∧ t.mem = s1.mem ∧
      (t.queues.lookup s.input.unit).map (fun x => (x.buffer, x.head, x.blocked)) = some (q.buffer, q.head, true))) ∧
  (∀ (s : State) (q : HostQueue) (b : List Byte) (s1 : State) (v : List Byte), s.power = true → s.running = true →
    (s.queues.map Prod.fst).Nodup → s.queues.lookup s.input.unit = some q → q.blocked = true → q.buffer.head? = some b →
    s.fetchBytes q.ctx (blockWord b 3).toNat 8 = (s1, .ok v) →
    ((blockWord b 4).toNat ≤ leNat v → ∃ t, exec .waitPacketRecheck s = .next t ∧ t.mem = s1.mem ∧
      (t.queues.lookup s.input.unit).map (fun x => (x.buffer, x.head, x.blocked)) = some (q.buffer.tail, (q.head + 1) % 2 ^ 32, false)) ∧
    (leNat v < (blockWord b 4).toNat → exec .waitPacketRecheck s = .next s1))

/-- R287: a doorbell that writes TAIL copies the new packets of the ring into the queue's buffer, in ring order; more than
there is room for, or than the ring holds, raises the queue's overrun event and copies none; a queue that is not enabled
raises device event 1. R288 to R290: the queue served next is the eligible one with the lowest pass, and of those the lowest
number. A nop packet ends; a packet of a reserved type, or with a field that must be zero, raises the context's service
error; a signal packet stores its value; a wait packet ends when its word has reached its value and holds the queue until
then. -/
def Obligations.HostQueues : Prop := DoorbellsRule ∧ PacketsRule

/-- R294: a launch packet whose checks fail stores its code and signal and is done; one that passes makes an instance, which holds its
minimum chunks, and its records are enqueued. The checks have an order: a node count that the entry lies beyond is code 3. A rejected one
stores its code in bits 63:56 of a word at its status address, then its signal value at its signal address, each as the storing of 8
bytes that R310 makes when the address is not 0. That a read which fails otherwise than by translation is code 2 as well is the model's
choice (DEDUCED: notes/assumptions/82). -/
def Obligations.Launches : Prop :=
  (∀ (s : State) (q : HostQueue) (b : List Byte), Serves s q b 1 → s.input.ok = true →
    let l := launchOfPacket b
    let p := s.noteEligible.modQueue s.input.unit fun x => { x with pass := x.pass + 1048576 / s.noteEligible.effectiveTickets s.input.unit q }
    (launchFieldsOk b = false → exec .launchPacket s = .next ((p.rejectLaunch q.ctx l 1).packetDone s.input.unit).noteEligible) ∧
    (∀ s1 code, launchFieldsOk b = true → p.checkGraph q.ctx l = (s1, .error code) →
      exec .launchPacket s = .next ((s1.rejectLaunch q.ctx l code).packetDone s.input.unit).noteEligible ∧ 2 ≤ code ∧ code ≤ 6) ∧
    (∀ s1 k, launchFieldsOk b = true → p.checkGraph q.ctx l = (s1, .ok k) →
      exec .launchPacket s = .next (((s1.makeGraph q.ctx s.input.unit l k true).1.hostFeed s1.nextId).admitRemote s1.nextId).noteEligible)) ∧
  (∀ (s : State) (c q : Nat) (l : Launch) (k : Checked) (f : Bool), ∃ g, (s.makeGraph c q l k f).1.graphs = s.graphs ++ [g] ∧
    (s.makeGraph c q l k f).2 = s.nextId ∧ g.id = s.nextId ∧ g.ctx = c ∧ g.graphid = k.graphid ∧ g.entry = l.entry ∧
    g.hostLeft = k.records ∧ g.faults = 0 ∧ g.stranded = 0 ∧ g.overflow = 0 ∧ g.nodes.map Node.desc = k.nodes ∧
    (∀ n ∈ g.nodes, n.queue = [] ∧ n.launches = 0 ∧ (n.desc.kind = .join → n.joinLeft = n.desc.min))) ∧
  (∀ (s s1 s2 : State) (c : Nat) (l : Launch) (hdr body : List Byte) (rcbs : Rcbs), s.fetchRun c l.graph 64 = (s1, .ok hdr) →
    let count := (bf (blockWord hdr 0) 52 12).toNat + 1
    s1.fetchRun c (l.graph + 64) (256 * count) = (s2, .ok body) →
    (∀ z, State.readChains c (((s2.ctx? c).map fun x => x.rcbBase.toNat).getD 0)
      (((List.range count).map fun i => (bf (blockWord ((body.drop (256 * i)).take 256) 1) 48 16).toNat).eraseDups) [] s2 = (z, some rcbs) →
      count ≤ l.entry → (s.checkGraph c l).2 = .error 3)) ∧
  (∀ (s s1 : State) (c : Nat) (l : Launch) (e : Trap), s.fetchRun c l.graph 64 = (s1, .error e) → (s.checkGraph c l).2 = .error 2) ∧
  (∀ (s s1 s2 : State) (c : Nat) (l : Launch) (code : Nat), code < 256 →
    let stores (z : State) (at_ v : Reg) (t : State) : Prop := at_ ≠ 0 ∧ bf at_ 0 3 = 0 ∧ at_.toNat < 2 ^ 56 ∧
      z.registerAt c at_.toNat .write = none ∧ z.canStore c at_ = true ∧ z.storeGlobal ⟨c, none⟩ {} at_ (bytesLe 8 v.toNat) 0 = (t, .ok ())
    (l.stataddr = 0 → l.sigaddr = 0 → s.rejectLaunch c l code = s) ∧
    (stores s l.stataddr (BitVec.ofNat 64 (code * 2 ^ 56)) s1 → l.sigaddr = 0 → s.rejectLaunch c l code = s1) ∧
    (l.stataddr = 0 → stores s l.sigaddr l.sigval s1 → s.rejectLaunch c l code = s1) ∧
    (stores s l.stataddr (BitVec.ofNat 64 (code * 2 ^ 56)) s1 → stores s1 l.sigaddr l.sigval s2 → s.rejectLaunch c l code = s2)) ∧
  (∀ (s : State) (c pa : Nat) (at_ v : Reg), s.translate c at_.toNat .write = (s, .ok pa) → s.place pa = .memory →
    ∃ t, s.storeGlobal ⟨c, none⟩ {} at_ (bytesLe 8 v.toNat) 0 = (t, .ok ()) ∧ t.mem = writeBytes s.mem pa (bytesLe 8 v.toNat))

/-! ### Links and what other packages send -/

/-- R350: a port that detects its partner trains; one that detects none for 2^24 ticks fails; training succeeds, is tried again, and
fails with the third unsuccessful attempt; a port comes Up when no flit failed its CRC and the routing table sends its
partner's traffic to it, and fails otherwise; one that is Up and exceeds the retry rate trains again. An event for a port in
another state changes nothing. -/
def Obligations.Links : Prop :=
  (∀ (s : State) (l : Link), PortIn s .detect l →
    (∃ t, exec .linkPartnerDetected s = .next t ∧ PortGoes s t .train 0 ∧ t.mem = s.mem) ∧
    (l.since + 2 ^ 24 ≤ s.tick → ∃ t, exec .linkDetectTimeout s = .next t ∧ PortFails s t 0) ∧
    (s.tick < l.since + 2 ^ 24 → exec .linkDetectTimeout s = .next s)) ∧
  (∀ (s : State) (l : Link), PortIn s .train l →
    (s.input.ok = true → ∃ t, exec .linkTrainDone s = .next t ∧ PortGoes s t .verify 0 ∧ t.mem = s.mem) ∧
    (s.input.ok = false → l.attempts < 2 → ∃ t, exec .linkTrainDone s = .next t ∧ PortGoes s t .train (l.attempts + 1) ∧ t.mem = s.mem) ∧
    (s.input.ok = false → 2 ≤ l.attempts → ∃ t, exec .linkTrainDone s = .next t ∧ PortFails s t (l.attempts + 1))) ∧
  (∀ (s : State) (l : Link), PortIn s .verify l →
    let matched := ∃ v, s.routes.lookup s.input.sub = some v ∧ v.getLsbD s.input.unit = true
    (s.input.ok = true → matched → ∃ t, exec .linkVerifyDone s = .next t ∧ PortGoes s t .up 0 ∧ t.mem = s.mem) ∧
    (s.input.ok = false ∨ ¬ matched → ∃ t, exec .linkVerifyDone s = .next t ∧ PortFails s t 0)) ∧
  (∀ (s : State) (l : Link), PortIn s .up l → ∃ t, exec .linkRetrain s = .next t ∧ PortGoes s t .train 0 ∧ t.mem = s.mem) ∧
  (∀ (s : State) (st : LinkState) (l : Link), PortIn s st l →
    (st ≠ .detect → exec .linkPartnerDetected s = .next s ∧ exec .linkDetectTimeout s = .next s) ∧
    (st ≠ .train → exec .linkTrainDone s = .next s) ∧ (st ≠ .verify → exec .linkVerifyDone s = .next s) ∧
    (st ≠ .up → exec .linkRetrain s = .next s))

/-- R349, R353, R354: a request of a reserved kind is counted and answered as unsupported. A read, a write or an atomic operation of
another package reaches a context only through a valid binding entry that names the context it comes from, at an offset in the
entry's window; a write or an atomic operation also needs the entry's write permission. An access of this package's own leaves, as the
operation that it is, for the context that the valid entry names; no entry, or a package that is not reached, ends it with a fault, and
the own package is reached by the loop-back. That an outgoing access without a valid binding is denied as its kind is, and how the input codes a
request, are the model's choice (DEDUCED: notes/assumptions/33; DESIGN CHOICE: notes/assumptions/92). An entry with nonzero reserved bits is no binding (DESIGN CHOICE: notes/assumptions/102). -/
def Sys2Proof.Rules.RemoteAccessesRule : Prop :=
  (∀ (s : State) (x pkg c off : Nat) (k : Access),
    (s.binding x pkg = none → s.admitAccess x pkg c off k = (s, .error k.denied)) ∧
    (∀ e, s.binding x pkg = some e →
      (e.getLsbD 63 = false ∨ (bf e 52 10).toNat ≠ c ∨ bf e 17 35 ≠ 0 → s.admitAccess x pkg c off k = (s, .error k.denied)) ∧
      (k = .write ∨ k = .modify → e.getLsbD 62 = false → e.getLsbD 63 = true → (bf e 52 10).toNat = c → bf e 17 35 = 0 →
        s.admitAccess x pkg c off k = (s, .error .writeDenied)))) ∧
  (∀ (s : State) (c pkg off : Nat) (k : Access) (what : Request),
    (s.binding c pkg = none → s.remote c pkg off k what = (s, .error k.denied)) ∧
    (∀ e, s.binding c pkg = some e →
      (e.getLsbD 63 = false ∨ bf e 17 35 ≠ 0 → s.remote c pkg off k what = (s, .error k.denied)) ∧
      (e.getLsbD 63 = true → bf e 17 35 = 0 →
        (s.reachable pkg = false → s.remote c pkg off k what = (s, .error .machineCheck)) ∧
        (s.reachable pkg = true → pkg ≠ s.pkg → (s.remote c pkg off k what).1.mem = s.mem ∧
          (s.remote c pkg off k what).1.outbox = .access pkg (bf e 52 10).toNat off what :: s.outbox) ∧
        (pkg = s.pkg → ∀ t pa, s.admitAccess (bf e 52 10).toNat pkg c off k = (t, .ok pa) → s.remote c pkg off k what = (t, .ok (some pa)))))) ∧
  (∀ s : State, s.power = true → s.running = true → let inp := s.input; let off := inp.addr.toNat % 2 ^ 39
    (exec .unsupportedRequest s = .next { s with unsupported := s.unsupported + 1, outbox := .error inp.unit :: s.outbox }) ∧
    (28 < inp.tid.wg → exec .remoteAccessArrival s = .next { s with unsupported := s.unsupported + 1, outbox := .error inp.sub :: s.outbox }) ∧
    (∀ s1 bs, inp.tid.wg = 0 → State.remoteRead inp.unit inp.sub inp.tid.gtid off (min inp.tid.grp 256) s = (s1, .ok bs) →
      bs.length = min inp.tid.grp 256 ∧ exec .remoteAccessArrival s = .next { s1 with outbox := .reply inp.sub bs none :: s1.outbox }) ∧
    (∀ s1, inp.tid.wg = 1 → State.remoteWrite inp.unit inp.sub inp.tid.gtid off (inp.data.take 256) s = (s1, .ok []) →
      exec .remoteAccessArrival s = .next { s1 with outbox := .reply inp.sub [] none :: s1.outbox }) ∧
    (∀ s1 pa op, inp.tid.wg = 2 + op → op ≤ 26 → s.admitAccess inp.unit inp.sub inp.tid.gtid off .modify = (s1, .ok pa) →
      (∀ y ∈ s1.ctxs, y.lazy = false) →
      let n := atomicBytes op
      let old := readBytes s1.mem pa n
      ∃ t, exec .remoteAccessArrival s = .next t ∧ t.outbox = .reply inp.sub old none :: s1.outbox ∧
        t.mem = writeBytes s1.mem pa (leBytes n (atomicNew op (leNat old) (inp.val.toNat % 2 ^ (8 * n)) (leNat inp.data % 2 ^ (8 * n))))) ∧
    (∀ s1 e, 1 ≤ inp.tid.wg → inp.tid.wg ≤ 28 → inp.data ≠ [] →
      s.admitAccess inp.unit inp.sub inp.tid.gtid off (if inp.tid.wg = 1 then .write else .modify) = (s1, .error e) →
      exec .remoteAccessArrival s = .next { s1 with outbox := .reply inp.sub [] (some e) :: s1.outbox }))

/-- R355, R356: a record of another package that its context's binding does not name is refused; one whose graph runs enters it or
waits there; another waits for an instance until one fabric timeout has passed and is then refused. A credit that returns ends a
record's flight and lets the edge send again; a record refused, or to a package that cannot be reached, is stranded. -/
def Sys2Proof.Rules.RemoteRecordsRule : Prop :=
  (∀ s : State, s.power = true → s.running = true → let inp := s.input
    let n := (bf inp.val 32 12).toNat; let gid : BitVec 32 := bf inp.val 0 32
    let r : RemoteRecord := { pkg := inp.sub, ctx := inp.unit, node := n, graphid := gid, bytes := inp.data, depth := inp.tid.wg, since := s.tick }
    (s.bindingNames inp.unit inp.sub inp.tid.gtid = false →
      exec .remoteRecordArrival s = .next { s with outbox := .refusal inp.sub inp.unit n gid :: s.outbox }) ∧
    (s.bindingNames inp.unit inp.sub inp.tid.gtid = true →
      (s.instanceOf inp.unit gid = none → exec .remoteRecordArrival s = .next { s with remoteRecords := s.remoteRecords ++ [r] }) ∧
      (∀ g, s.instanceOf inp.unit gid = some g →
        (s.node? g.id n = none → exec .remoteRecordArrival s = .next { s with outbox := .refusal inp.sub inp.unit n gid :: s.outbox }) ∧
        (∀ nd, s.node? g.id n = some nd → nd.killed = false → nd.desc.kind ≠ .join → nd.finalClosed = false →
          (nd.waiting = [] → s.hasRoom g.id n = true → ∃ t y, exec .remoteRecordArrival s = .next t ∧ t.node? g.id n = some y ∧
            held y = held nd ++ [((inp.data ++ List.replicate 128 0).take (recordBytes nd.desc.rsize), inp.tid.wg)] ∧
            t.outbox = .credit inp.sub inp.unit n gid :: s.outbox) ∧
          (s.hasRoom g.id n = false → ∃ t y, exec .remoteRecordArrival s = .next t ∧ t.node? g.id n = some y ∧ held y = held nd ∧
            t.outbox = s.outbox ∧ (y.waiting.map Waiting.who) = (nd.waiting.map Waiting.who) ++ [.remote inp.sub]))))) ∧
  (∀ (s : State) (r : RemoteRecord), s.power = true → s.running = true → s.remoteRecords[s.input.unit]? = some r →
    (r.since + s.fabricTimeout r.ctx ≤ s.tick → exec .remoteRecordTimeout s =
      .next { s with remoteRecords := s.remoteRecords.eraseIdx s.input.unit, outbox := .refusal r.pkg r.ctx r.node r.graphid :: s.outbox }) ∧
    (s.tick < r.since + s.fabricTimeout r.ctx → exec .remoteRecordTimeout s = .next s)) ∧
  (∀ (s : State) (g : Graph) (k : Nat), s.power = true → s.running = true → s.graph? s.input.unit = some g →
    let n := s.input.sub; let p := s.input.val.toNat
    (n, p, k) ∈ g.remoteOut → (∀ x ∈ s.graphs, ∀ y ∈ x.nodes, y.copyLaunches = []) →
    (∃ t y, exec .creditReturn s = .next t ∧ t.graph? g.id = some y ∧ y.remoteOut.length + 1 = g.remoteOut.length ∧
      (∀ e ∈ y.remoteOut, e ∈ g.remoteOut) ∧ y.stranded = g.stranded ∧
      y.credits.lookup (n, p) = some (min 32 ((g.credits.lookup (n, p)).getD 32 + 1))) ∧
    (∃ t y, exec .remoteRecordRefused s = .next t ∧ t.graph? g.id = some y ∧ y.remoteOut.length + 1 = g.remoteOut.length ∧
      y.stranded = g.stranded + 1) ∧
    (∀ (nd : Node) (pt : Port), g.nodes[n]? = some nd → nd.desc.ports[p]? = some pt →
      (g.remoteOut.find? fun e => e.1 = n && e.2.1 = p) = some (n, p, k) →
      (s.reachable pt.pkg = false → k + s.fabricTimeout g.ctx ≤ s.tick → ∃ t y, exec .unreachableRecordTimeout s = .next t ∧
        t.graph? g.id = some y ∧ y.remoteOut.length + 1 = g.remoteOut.length ∧ y.stranded = g.stranded + 1) ∧
      (s.reachable pt.pkg = true ∨ s.tick < k + s.fabricTimeout g.ctx → exec .unreachableRecordTimeout s = .next s)))

/-- R349, R353, R354: a request of a reserved kind is counted and answered as unsupported. A read, a write or an atomic
operation of another package reaches a context only through a valid binding entry that names the context it comes from, at an
offset in the entry's window; a write or an atomic operation also needs the entry's write permission. An access of this
package's own leaves, as the operation that it is, for the context that the valid entry names; no entry, or a package that is
not reached, ends it with a fault, and the own package is reached by the loop-back. That an outgoing access without a valid
binding is denied as its kind is, and how the input codes a request, are the model's choice (DEDUCED: notes/assumptions/33;
DESIGN CHOICE: notes/assumptions/92). An entry with nonzero reserved bits is no binding (DESIGN CHOICE:
notes/assumptions/102). R355, R356: a record of another package that its context's binding does not name is refused; one
whose graph runs enters it or waits there; another waits for an instance until one fabric timeout has passed and is then
refused. A credit that returns ends a record's flight and lets the edge send again; a record refused, or to a package that
cannot be reached, is stranded. -/
def Obligations.RemoteArrivals : Prop := RemoteAccessesRule ∧ RemoteRecordsRule

/-! ### Gang launches -/

/-- R362, R363: a gang launch reads its descriptor, its packets and its list of packages, and prepares each member that its context's
bindings name. The leader commits when every member has acknowledged; it aborts when a member has refused that those before it
have acknowledged, or when a fabric timeout has passed; it stores the status and tells each member, and tells those that have
not confirmed again every 65,536 ticks; when the last has confirmed, the launch is over. -/
def Sys2Proof.Rules.GangLeaderRule : Prop :=
  (∀ (s s1 s2 s3 : State) (hdr body list : List Byte), s.power = true → s.running = true → s.bootState = 6 →
    let c := s.input.unit
    let v := s.input.val
    (s.ctx? c).isSome = true → s.ctxFailed c = false → (s.modCtx c fun x => { x with gangLaunch := v }).fetchRun c v 64 = (s1, .ok hdr) →
    let w := blockWord hdr
    let n := (bf (w 0) 51 12).toNat + 1
    bf v 0 6 = 0 → bf (w 0) 0 39 = 0 → bf (w 2) 0 3 = 0 → (∀ i, 3 ≤ i → i ≤ 7 → w i = 0) →
    s1.fetchRun c (v + 64) (64 * n) = (s2, .ok body) → s2.fetchRun c (w 1) (2 * n) = (s3, .ok list) →
    ∃ t g, exec .gangLaunch s = .next t ∧ t.gangLeads = s3.gangLeads ++ [g] ∧ g.ctx = c ∧ g.gstat = w 2 ∧ g.members.length = n ∧
      g.answers = List.replicate n .none ∧ g.decision = none ∧ g.confirmed = [] ∧ g.since = s3.tick ∧
      (∀ i, i < n → g.members[i]? = some (leNat ((list.drop (2 * i)).take 2)) ∧
        ∀ p e, g.members[i]? = some p → s3.binding c p = some e → e.getLsbD 63 = true → bf e 17 35 = 0 →
          Message.prepare p (bf e 52 10).toNat g.id ((w 0).getLsbD 63) (bf (w 0) 39 12).toNat ((body.drop (64 * i)).take 64) ∈ t.outbox)) ∧
  (∀ (s : State) (g : GangLead), Leads s g → s.input.sub < g.members.length →
    (s.input.addr ≠ 1 → g.decision = none → g.answers[s.input.sub]? = some .none → s.tick ≤ g.since + s.fabricTimeout g.ctx →
      ∃ t, exec .gangAck s = .next t ∧ t.mem = s.mem ∧
        LeadGoes s t { g with answers := g.answers.set s.input.sub (if s.input.ok then .ack else .refused (s.input.val.toNat % 256)) }) ∧
    (s.input.addr ≠ 1 → g.since + s.fabricTimeout g.ctx < s.tick → exec .gangAck s = .next s) ∧
    (s.input.addr = 1 → g.decision.isSome = true → s.input.sub ∉ g.confirmed →
      (g.confirmed.length + 1 < g.members.length → ∃ t, exec .gangAck s = .next t ∧
        LeadGoes s t { g with confirmed := s.input.sub :: g.confirmed }) ∧
      (g.confirmed.length + 1 = g.members.length → ∃ t, exec .gangAck s = .next t ∧ ∀ x ∈ t.gangLeads, x.id ≠ g.id))) ∧
  (∀ (g : GangLead) (e : Bool),
    (g.outcome e = some true ↔ ∀ a ∈ g.answers, a = .ack) ∧
    (∀ (k r : Nat), (∀ i, i < k → g.answers[i]? = some .ack) → g.answers[k]? = some (.refused r) → g.outcome e = some false) ∧
    (∀ k : Nat, (∀ i, i < k → g.answers[i]? = some .ack) → g.answers[k]? = some .none → g.outcome e = if e then some false else none) ∧
    g.status true = 0x800000000000FFFF ∧
    (∀ k : Nat, k < 0xFFFF → (∀ i, i < k → g.answers[i]? = some .ack) → g.answers[k]? ≠ some .ack → k < g.answers.length →
      g.status false = 0x4000000000000000 + BitVec.ofNat 64 k)) ∧
  (∀ (s : State) (g : GangLead), Leads s g →
    (∀ commit s1, g.decision = none → g.outcome (decide (g.since + s.fabricTimeout g.ctx < s.tick)) = some commit →
      (s.modLead g.id fun x => { x with decision := some commit, repeated := s.tick }).controlWords g.ctx g.gstat.toNat
        [g.status commit] = (s1, .ok ()) →
      ∃ t, exec .gangDecision s = .next t ∧ t.mem = s1.mem ∧ LeadGoes s t { g with decision := some commit, repeated := s.tick } ∧
        ∀ i p, i ∉ g.confirmed → g.members[i]? = some p → Message.decision p g.id commit ∈ t.outbox) ∧
    (g.decision = none → g.outcome (decide (g.since + s.fabricTimeout g.ctx < s.tick)) = none → exec .gangDecision s = .next s) ∧
    (∀ commit, g.decision = some commit →
      (s.tick < g.repeated + 65536 → exec .gangDecisionRepeat s = .next s) ∧
      (g.repeated + 65536 ≤ s.tick → ∃ t, exec .gangDecisionRepeat s = .next t ∧ LeadGoes s t { g with repeated := s.tick } ∧ t.mem = s.mem ∧
        ∀ i p, i ∉ g.confirmed → g.members[i]? = some p → Message.decision p g.id commit ∈ t.outbox)))

/-- R363 to R365: a member refuses a prepare that its bindings do not name, or whose context has failed (code 2 in both cases, which R363
does not give, is the model's choice (DEDUCED: notes/assumptions/60; DEDUCED: notes/assumptions/93)), or whose packet or graph fails a check (that check's
code); else it makes the graph and acknowledges, and a strict one runs only after the commit. A decision is confirmed whenever it
arrives and carried out once; a strict member that is told to abort never runs, and its graph is gone. -/
def Sys2Proof.Rules.GangMembersRule : Prop :=
  (∀ s : State, s.power = true → s.running = true → let c := s.input.unit; let b := s.input.data; let id := s.input.val.toNat
    let l := launchOfPacket b
    (∀ m ∈ s.gangMembers, ¬ (m.leader = s.input.sub ∧ m.id = id)) →
    (s.bindingNames c s.input.sub s.input.tid.gtid = false ∨ s.ctxFailed c = true →
      exec .gangPrepare s = .next { s with outbox := .answer s.input.sub id (.refused 2) :: s.outbox }) ∧
    (s.bindingNames c s.input.sub s.input.tid.gtid = true → s.ctxFailed c = false →
      (packetType (blockWord b 0) ≠ 1 ∨ launchFieldsOk b = false →
        exec .gangPrepare s = .next { s with outbox := .answer s.input.sub id (.refused 1) :: s.outbox }) ∧
      (packetType (blockWord b 0) = 1 → launchFieldsOk b = true →
        (∀ s1 code, s.checkGraph c l = (s1, .error code) →
          exec .gangPrepare s = .next { s1 with outbox := .answer s.input.sub id (.refused code) :: s1.outbox }) ∧
        (∀ s1 k, s.checkGraph c l = (s1, .ok k) → s.input.addr.getLsbD 63 = false → ∃ t m, exec .gangPrepare s = .next t ∧
          t.graphs = (s1.makeGraph c 4096 l k false).1.graphs ∧ t.outbox = .answer s.input.sub id .ack :: s1.outbox ∧
          t.gangMembers = s1.gangMembers ++ [m] ∧ m.leader = s.input.sub ∧ m.id = id ∧ m.eager = false ∧ m.graph = some s1.nextId ∧
          m.decision = none ∧ ∀ g ∈ t.graphs, g.id = s1.nextId → t.instanceRuns g = false)))) ∧
  (∀ (s : State) (m : GangMember), s.power = true → s.running = true →
    (s.gangMembers.find? fun x => x.leader == s.input.sub && x.id == s.input.unit) = some m →
    (m.decision.isSome = true →
      exec .gangCommit s = .next { s with outbox := .confirm s.input.sub s.input.unit :: s.outbox } ∧
      exec .gangAbort s = .next { s with outbox := .confirm s.input.sub s.input.unit :: s.outbox }) ∧
    (∀ g gr, m.decision = none → m.eager = false → m.graph = some g → s.graph? g = some gr → gr.hostLeft = [] → gr.hostWaits = false → s.remoteRecords = [] →
      (∃ t y, exec .gangCommit s = .next t ∧ t.graph? g = some y ∧ y.feeding = false ∧
        Message.confirm s.input.sub s.input.unit ∈ t.outbox) ∧
      (∃ t, exec .gangAbort s = .next t ∧ t.graph? g = none ∧ Message.confirm s.input.sub s.input.unit ∈ t.outbox)))

/-- R362, R363: a gang launch reads its descriptor, its packets and its list of packages, and prepares each member that its
context's bindings name. The leader commits when every member has acknowledged; it aborts when a member has refused that
those before it have acknowledged, or when a fabric timeout has passed; it stores the status and tells each member, and tells
those that have not confirmed again every 65,536 ticks; when the last has confirmed, the launch is over. R363 to R365: a
member refuses a prepare that its bindings do not name, or whose context has failed (code 2 in both cases, which R363 does
not give, is the model's choice (DEDUCED: notes/assumptions/60; DEDUCED: notes/assumptions/93)), or whose packet or graph
fails a check (that check's code); else it makes the graph and acknowledges, and a strict one runs only after the commit. A
decision is confirmed whenever it arrives and carried out once; a strict member that is told to abort never runs, and its
graph is gone. -/
def Obligations.GangLaunches : Prop := GangLeaderRule ∧ GangMembersRule

/-! ### The scheduler -/

/-- R22, R23, R115, R308: a result that arrives lands in its place; the bounded wait at a fusion point ends once its clocks have
passed, for all that stand there; a weave that has been ready for 16,384 core clocks without issuing takes the issue class of its age. How
clocks become ticks is the model's choice (DEDUCED: notes/assumptions/39). -/
def Sys2Proof.Rules.ThreadEventsRule : Prop :=
  ∀ (s : State) (v : Thread), s.power = true → s.running = true → s.thread? s.input.tid = some v →
    (∀ a, v.arriving[s.input.sub]? = some a → (v.arriving.map Arrival.target).Nodup → ∃ t y, exec .resultArrival s = .next t ∧
      t.thread? s.input.tid = some y ∧ Lands v y a ∧ y.pc = v.pc ∧ y.wait = v.wait ∧ t.mem = s.mem ∧
      ∀ b, b ∈ y.arriving ↔ b ∈ v.arriving ∧ b ≠ a) ∧
    (∀ d, v.wait = .fuse d → v.isLive = true →
      (d ≤ s.tick → ∃ t y, exec .fuseTimeout s = .next t ∧ t.thread? s.input.tid = some y ∧ y.wait = .running ∧ y.pc = v.nextPc ∧
        y.regs = v.regs ∧ t.mem = s.mem ∧
        ∀ j u e, s.thread? ⟨s.input.tid.wg, s.input.tid.grp, j⟩ = some u → u.isLive = true → u.wait = .fuse e → u.pc = v.pc →
          (t.thread? ⟨s.input.tid.wg, s.input.tid.grp, j⟩).map (fun z => (z.wait, z.pc)) = some (.running, u.nextPc)) ∧
      (s.tick < d → ∃ t, exec .fuseTimeout s = .next t ∧ t.thread? s.input.tid = some v)) ∧
    (v.isLive = true → v.wait = .running → s.tick < v.readyAt + s.clocksToTicks 16384 → exec .issueAging s = .next s) ∧
    (v.isLive = true → v.wait = .running → v.readyAt + s.clocksToTicks 16384 ≤ s.tick → ∃ t, exec .issueAging s = .next t ∧ t.mem = s.mem ∧
      ∀ j u, s.thread? ⟨s.input.tid.wg, s.input.tid.grp, j⟩ = some u → t.thread? ⟨s.input.tid.wg, s.input.tid.grp, j⟩ =
        some (if u.isLive = true ∧ u.wait = .running ∧ u.weave = v.weave then { u with aged := true } else u))

/-- R298 to R305: a timer gather whose oldest record has waited its ticks is launchable. The candidates of a die are considered in the
order of R303, and the first that can be placed is; of the cores on which one workgroup fits it takes one with the most free
quires, and a cluster launch takes its cores in one cluster. Its workgroups enter with clear registers, and the gather's records
are theirs. -/
def Obligations.Placement : Prop :=
  (∀ (s : State) (nd : Node) (r : Rec) (rs : List Rec), s.power = true → s.running = true → s.node? s.input.unit s.input.sub = some nd →
    nd.queue = r :: rs → nd.desc.gather = 2 →
    (r.entered + nd.desc.timer ≤ s.tick → nd.killed = false → nd.desc.kind ≠ .join → ∃ t, exec .gatherTimerExpiry s = .next t ∧
      t.launchable s.input.unit s.input.sub = true ∧ t.mem = s.mem) ∧
    (s.tick < r.entered + nd.desc.timer → exec .gatherTimerExpiry s = .next s)) ∧
  (∀ a b : Candidate, a.before b = true ↔ (b.prio < a.prio ∨ (a.prio = b.prio ∧ ((a.cap = true ∧ b.cap = false) ∨ (a.cap = b.cap ∧
    ((a.launch.isSome = true ∧ b.launch = none) ∨ (a.launch.isSome = b.launch.isSome ∧ a.since < b.since))))))) ∧
  (∀ (s : State) (d : Nat), (s.candidates d).Pairwise fun a b => b.before a = false) ∧
  (∀ s : State, s.power = true → s.running = true →
    (∀ c t, (s.dropStale.candidates s.input.unit).find? s.dropStale.placeable = some c → s.dropStale.place1 c = some t →
      exec .launchPlacement s = .next t) ∧
    ((∀ c ∈ s.dropStale.candidates s.input.unit, s.dropStale.placeable c = false) → exec .launchPlacement s = .next s.dropStale)) ∧
  (∀ (l : List Spot) (x : Spot), chooseSpots 1 l = some [x] → x ∈ l ∧ ∀ y ∈ l, y.free ≤ x.free) ∧
  (∀ (k : Nat) (l xs : List Spot), 2 ≤ k → (l.map Spot.core).Nodup → (∀ x ∈ l, x.core < 48) → chooseSpots k l = some xs →
    xs.length = k ∧ xs.Sublist l ∧ ∀ x ∈ xs, ∀ y ∈ xs, x.core / 4 = y.core / 4) ∧
  (∀ (s : State) (g : Graph) (n : Nat) (nd : Node) (spots : List Spot), s.node? g.id n = some nd →
    ∃ ws, (s.launchOn g n nd spots).wgs = s.wgs ++ ws ∧ ws.length = spots.length ∧
      (∃ y, (s.launchOn g n nd spots).node? g.id n = some y ∧ y.queue = nd.queue.drop nd.desc.per ∧ y.launches = nd.launches + 1) ∧
      ∀ i sp w, spots[i]? = some sp → ws[i]? = some w → w.core = sp.core ∧ w.rank = i ∧ w.ctx = g.ctx ∧ w.graph = g.id ∧ w.node = n ∧
        w.launch = nd.launches ∧ w.res = .resident ∧ w.recCount = min nd.desc.per nd.queue.length ∧ EntersClear nd.desc w)

/-- R297, R300, R309, R310: the record that has waited longest enters its queue once there is room, and its emitter goes on; with no room it
waits on. What is left of a graph and can never launch is stranded; a graph whose outstanding work is then 0 ends: its status and signal
are stored, and the instance is gone. A store that leads to a device register is a turn of its own, that register's write: the model's
choice (DEDUCED: notes/assumptions/86). -/
def Sys2Proof.Rules.AdmissionAndEndRule : Prop :=
  (∀ (s : State) (gr : Graph) (nd : Node) (e : Waiting) (rest : List Waiting), s.power = true → s.running = true →
    s.graph? s.input.unit = some gr → gr.feeding = false → (∀ x ∈ s.graphs, ∀ y ∈ x.nodes, y.copyLaunches = []) →
    s.node? s.input.unit s.input.sub = some nd → nd.waiting = e :: rest → nd.finalClosed = false →
    e.who ≠ .redirect s.input.sub →
    (s.hasRoom s.input.unit s.input.sub = true → ∃ t y, exec .recordAdmission s = .next t ∧ t.node? s.input.unit s.input.sub = some y ∧
      held y = held nd ++ [(e.bytes, e.depth)] ∧ y.waiting = rest ∧ t.mem = s.mem ∧
      ∀ id v p, e.who = .thread id → s.thread? id = some v → v.wait = .emitting p →
        (t.thread? id).map (fun u => (u.wait, u.pc)) = some (.running, v.nextPc)) ∧
    (s.hasRoom s.input.unit s.input.sub = false → ∃ t y, exec .recordAdmission s = .next t ∧ t.node? s.input.unit s.input.sub = some y ∧
      held y = held nd ∧ y.waiting = nd.waiting ∧ t.mem = s.mem)) ∧
  (∀ r f o k : Nat, r < 256 → bf (statusWord r f o k) 56 8 = BitVec.ofNat 8 r ∧ (bf (statusWord r f o k) 32 16).toNat = min f 65535 ∧
    (bf (statusWord r f o k) 16 16).toNat = min o 65535 ∧ (bf (statusWord r f o k) 0 16).toNat = min k 65535) ∧
  (∀ (s s1 : State) (c : Nat) (a v : Reg), (s.reportStore c 0 v = s) ∧
    (a ≠ 0 → bf a 0 3 ≠ 0 → s.reportStore c a v = s.serviceError c) ∧
    (∀ off, a ≠ 0 → bf a 0 3 = 0 → a.toNat < 2 ^ 56 → s.registerAt c a.toNat .write = some off →
      s.reportStore c a v = { s with agenda := registerTurn off v :: s.agenda }) ∧
    (a ≠ 0 → bf a 0 3 = 0 → a.toNat < 2 ^ 56 → s.registerAt c a.toNat .write = none → s.canStore c a = true → s.storeGlobal ⟨c, none⟩ {} a (leBytes 8 v.toNat) 0 = (s1, .ok ()) →
      s.reportStore c a v = s1)) ∧
  (∀ (s : State), s.power = true → s.running = true → let t := s.strandLeft s.input.unit
    (∀ g, t.outstanding s.input.unit = 0 → t.graph? s.input.unit = some g → g.feeding = false →
      exec .graphEnd s = .next (t.endGraph g) ∧ (t.endGraph g).graph? s.input.unit = none) ∧
    (∀ g, t.graph? s.input.unit = some g → g.feeding = true → exec .graphEnd s = .next s) ∧
    (∀ g, t.outstanding s.input.unit ≠ 0 → t.graph? s.input.unit = some g → g.feeding = false → exec .graphEnd s = .next t) ∧
    (t.graph? s.input.unit = none → exec .graphEnd s = .next s))

/-- R22, R23, R115, R308: a result that arrives lands in its place; the bounded wait at a fusion point ends once its clocks
have passed, for all that stand there; a weave that has been ready for 16,384 core clocks without issuing takes the issue
class of its age. How clocks become ticks is the model's choice (DEDUCED: notes/assumptions/39). R297, R300, R309, R310: the
record that has waited longest enters its queue once there is room, and its emitter goes on; with no room it waits on. What
is left of a graph and can never launch is stranded; a graph whose outstanding work is then 0 ends: its status and signal are
stored, and the instance is gone. A store that leads to a device register is a turn of its own, that register's write: the
model's choice (DEDUCED: notes/assumptions/86). -/
def Obligations.SchedulerEvents : Prop := ThreadEventsRule ∧ AdmissionAndEndRule

/-- R306, R340 to R342: a candidate that has held a reservation for 65,536 ticks pre-empts launches of lower priority whose regions allow it,
lowest priority first and then the most recently launched. A saved workgroup holds its registers, has no L1 word, no
write-through, and its valid tables evicted, to be built again; its image takes room in its context's save pool, where it is written at a place and with
bytes that the spec leaves open (DESIGN CHOICE: notes/assumptions/56). -/
def Sys2Proof.Rules.PreEmptionRule : Prop :=
  (∀ (s : State) (cores : List Nat) (prio : Nat),
    (s.victims cores prio).Pairwise (fun a b => a.1 < b.1 ∨ (a.1 = b.1 ∧ b.2.id ≤ a.2.id)) ∧
    ∀ e, e ∈ s.victims cores prio ↔ (e.2 ∈ s.wgs ∧ e.2.core ∈ cores ∧ e.2.res = .resident ∧ (s.regionOf e.2).preempt ≠ 0 ∧
      e.1 = (s.regionOf e.2).prio ∧ e.1 < prio)) ∧
  (∀ (s : State) (r : Reservation) (g : Graph) (nd : Node), s.power = true → s.running = true →
    (s.core? s.input.unit).bind Core.reserved = some r →
    (s.tick < r.since + 65536 → exec .preEmption s = .next s) ∧
    (r.since + 65536 ≤ s.tick → s.graph? r.graph = some g → g.nodes[r.node]? = some nd →
      let cores := (List.range 48).filter fun k => (s.core? k).bind Core.reserved == some r
      let c : Candidate := { graph := r.graph, node := r.node, launch := r.launch, prio := g.prioOf nd.desc, cap := false, since := 0 }
      s.chosenSpots c { s.placing c nd with cores := cores } = none →
      (s.victims cores c.prio = [] → exec .preEmption s = .next s) ∧
      (∀ p w x, s.victims cores c.prio = [(p, w)] → s.wg? w.id = some w → s.launchWgs w.graph w.node w.launch = [w] → w.writes = [] →
        s.commandsOf w.id = [] → s.ctx? w.ctx = some x → (∀ y ∈ s.graphs, ∀ n ∈ y.nodes, n.copyLaunches = [] ∧ ∀ e ∈ n.waiting, ∀ id, e.who ≠ .thread id) →
        let full := decide ((s.regionOf w).preempt = 2)
        (x.saveUsed + w.saveBytes full ≤ x.saveSize → ∃ (t : State) (y : Workgroup) (z : State), exec .preEmption s = .next t ∧ z.mem = s.mem ∧ z.tlb = s.tlb ∧
          t.mem = (z.writeImage w.ctx (w.saveBytes full)).mem ∧ t.wg? w.id = some y ∧ y.res = .preempted full ∧ y.l1 = [] ∧ y.writes = [] ∧ y.spad = w.spad ∧ y.tiles = w.tiles ∧
          (t.ctx? w.ctx).map Context.saveUsed = some (x.saveUsed + w.saveBytes full) ∧
          (∀ (i : Nat) (u : Table), w.tables[i]? = some u → ∃ z, y.tables[i]? = some z ∧
            (u.state = .valid → z = { u with state := .evicted, entries := [] }) ∧ (u.state ≠ .valid → z = u)) ∧
          ∀ (i j : Nat) (gr : Group) (u : Thread), w.groups[i]? = some gr → gr.threads[j]? = some u → u.isLive = true → u.arriving = [] →
            (t.thread? ⟨w.id, i, j⟩).map (fun z => (z.regs, z.preds, z.pc, z.tsw)) = some (u.regs, u.preds, u.pc, u.tsw)) ∧
        (x.saveSize < x.saveUsed + w.saveBytes full → exec .preEmption s = .next s)))) ∧
  (∀ s : State, s.power = true → s.running = true → ∃ t, exec .preEmption s = .next t)

/-- R19, R307, R334: a region that has met the conditions of R19 for longer than its timeout takes the graph-stall fault, once: the
graph's FAULTS rises by one and the region's timer is marked as delivered. The region's nodes are killed, unless its policy is halt under
a debugger and the log takes the entry: then its groups halt under it, and no node is killed. -/
def Sys2Proof.Rules.GraphStallRule : Prop :=
  (∀ (s : State) (c r : Nat), s.stalled c r = true ↔ (s.exhausted c r = true ∧ ∀ w ∈ s.regionWgs c r, (∀ gr ∈ w.groups, gr.stop = .running) ∧
    (w.res = .resident → ∀ gr ∈ w.groups, ∀ t ∈ gr.threads, t.isLive = true → t.wait.stalls = true))) ∧
  (∀ (s : State) (g : Graph) (r : Region), s.power = true → s.running = true → s.noteStalls.graph? s.input.unit = some g →
    g.region? s.input.sub = some r →
    (s.noteStalls.stallDue g r = false → exec .graphStall s = .next s.noteStalls) ∧
    (s.noteStalls.stallDue g r = true →
      let brk := ∃ x, s.ctx? g.ctx = some x ∧ x.brkEn = true
      let marked (k : StallTimer) : StallTimer := if k.region = r.index then { k with delivered := true } else k
      let told (t : State) : Prop := ∃ y, t.graph? g.id = some y ∧ y.faults = g.faults + 1 ∧ y.stalls = g.stalls.map marked ∧
        ∃ k ∈ y.stalls, k.region = r.index ∧ k.delivered = true
      let killed (t : State) (v : Bool) : Prop := ∀ (n : Nat) (nd : Node), g.nodes[n]? = some nd → nd.desc.rcb = r.index →
        (t.node? g.id n).map Node.killed = some (v || nd.killed)
      (r.policy ≠ 5 ∨ ¬ brk → ∃ t, exec .graphStall s = .next t ∧ told t ∧ killed t true) ∧
      (∀ (s1 : State) (o : Option (Nat × Nat)) (n : Nat) (nd : Node), r.policy = 5 → brk → g.nodes[n]? = some nd → nd.desc.rcb = r.index →
        (∀ m x, m < n → g.nodes[m]? = some x → x.desc.rcb ≠ r.index) →
        let f : LogFields :=
          { ctx := g.ctx, cause := 0x38, policy := 5, unit := 0, acc := 0, rcb := r.index, node := n, group := 0,
            faddr := BitVec.ofNat 64 r.index, pc := 0, graphid := g.graphid, launch := 0, nthr := 0 }
        let u := s.noteStalls.modGraph g.id fun x => { x with faults := x.faults + 1, stalls := x.stalls.map marked }
        u.writeLog f = (s1, o) → (s.wgs.map Workgroup.id).Nodup →
        ∃ t, exec .graphStall s = .next t ∧ told t ∧ killed t o.isNone ∧ ∀ seq place, o = some (seq, place) → t.mem = s1.mem ∧
          ∀ w ∈ s.regionWgs g.ctx r.index, ∀ j y, s.grp? w.id j = some y → ∃ z, t.grp? w.id j = some z ∧ z.holds = .halted seq :: y.holds))) ∧
  (∀ s : State, s.power = true → s.running = true → ∃ t, exec .graphStall s = .next t) ∧
  (∀ (s : State) (g : Graph) (r : Region), (r.timeout = 0 → s.stallDue g r = false) ∧
    (s.stallDue g r = true → s.stalled g.ctx r.index = true ∧ ∃ t ∈ g.stalls, t.region = r.index ∧ t.delivered = false ∧
      t.since + r.timeout < s.tick))

/-- R306, R340 to R342: a candidate that has held a reservation for 65,536 ticks pre-empts launches of lower priority whose
regions allow it, lowest priority first and then the most recently launched. A saved workgroup holds its registers, has no L1
word, no write-through, and its valid tables evicted, to be built again; its image takes room in its context's save pool,
where it is written at a place and with bytes that the spec leaves open (DESIGN CHOICE: notes/assumptions/56). R19, R307,
R334: a region that has met the conditions of R19 for longer than its timeout takes the graph-stall fault, once: the graph's
FAULTS rises by one and the region's timer is marked as delivered. The region's nodes are killed, unless its policy is halt
under a debugger and the log takes the entry: then its groups halt under it, and no node is killed. -/
def Obligations.Preemption : Prop := PreEmptionRule ∧ GraphStallRule

/-! ### Caches and memory -/

/-- R268, R273, R275, R276, R280 to R285: an eviction drops a line of one L1, a kept line last; an acknowledged write-through is
performed with the earlier ones to its bucket, each once; deferred ones are performed at their deadline; a bucket of a map passes to
another slice under a new generation of that map, and until its handover the old home performs what carries the old one; a request
refused by a retired home is sent again; the scrub counts what it corrects and what it cannot; an uncorrectable error met by an access is
counted and delivered as a machine check to the lanes that issue, one in a word of L1 or a clean sector of the L2 is counted and drops
the word or nothing, and a dirty sector is written again with the bits as read (R285); a corrected one is only counted. When an error is
met is a turn of the agenda, the model's choice (DESIGN CHOICE: notes/assumptions/85), as are the places of the error counters and the
form in which slice maps change (DEDUCED: notes/assumptions/62; DEDUCED: notes/assumptions/89). -/
def Obligations.Caches : Prop :=
  (∀ (s : State) (x : Workgroup), s.power = true → s.running = true → s.wg? s.input.unit = some x →
    let line (w : L1Word) : Nat := w.addr * 4 / 192
    let kept (w : L1Word) : Prop := ∃ v ∈ x.l1, v.keep = true ∧ line v = line w
    let key (z : WriteThrough) : Nat := s.bucketKey x.ctx z.addr
    let fresh (z : WriteThrough) : Bool := decide (s.lastPerformed x.id (key z) < z.seq)
    let inOrder := x.writes.Pairwise fun y z => key y = key z → y.seq < z.seq
    (∃ t y, exec .l1Eviction s = .next t ∧ t.mem = s.mem ∧ t.owners = s.owners ∧ t.wg? s.input.unit = some y ∧ y.writes = x.writes ∧
      (((∀ w ∈ x.l1, line w = s.input.addr.toNat / 192 → ¬ kept w) ∨ (∀ w ∈ x.l1, kept w)) →
        y.l1 = x.l1.filter fun w => w.addr * 4 / 192 ≠ s.input.addr.toNat / 192) ∧
      ((∃ w ∈ x.l1, line w = s.input.addr.toNat / 192 ∧ kept w) → (∃ w ∈ x.l1, ¬ kept w) → y.l1 = x.l1)) ∧
    (∀ u, x.writes[s.input.sub]? = some u → s.lazyCtx x.ctx = false → inOrder →
      let gone := x.writes.filter fun z => z.seq ≤ u.seq ∧ key z = key u
      ((∀ z ∈ gone, s.performs x z = true) → ∃ t y, exec .writeThroughAck s = .next t ∧ t.wg? s.input.unit = some y ∧
        t.mem = (gone.filter fresh).foldl (fun m z => writeBytes m z.addr z.bytes) s.mem ∧
        y.writes = x.writes.filter fun z => ¬ (z.seq ≤ u.seq ∧ key z = key u)) ∧
      ((∃ z ∈ gone, s.performs x z = false) → exec .writeThroughAck s = .next s)) ∧
    (s.lazyCtx x.ctx = true → inOrder → x.writes.Pairwise (fun y z => y.sent ≤ z.sent) →
      ∃ t y, exec .lazyWritebackDeadline s = .next t ∧ t.wg? s.input.unit = some y ∧
      t.mem = ((x.writes.filter fun z => z.sent + 32768 ≤ s.tick).filter fresh).foldl (fun m z => writeBytes m z.addr z.bytes) s.mem ∧
      y.writes = x.writes.filter fun z => s.tick < z.sent + 32768) ∧
    (∀ u, s.input.ok = true → x.writes[s.input.sub]? = some u → u.gen < s.moveGen (key u) → s.handing (key u) = false →
      ∃ t y, exec .generationRefusal s = .next t ∧ t.mem = s.mem ∧ t.wg? s.input.unit = some y ∧
        y.writes = x.writes.set s.input.sub { u with gen := s.generationOf (s.mapOf x.ctx) })) ∧
  (∀ (s : State) (th : Thread) (g k : Nat), s.power = true → s.running = true → s.input.ok = false → s.thread? s.input.tid = some th →
    th.request = some (g, k) →
    (g < s.moveGen k → s.handing k = false → ∃ t, exec .generationRefusal s = .next t ∧ t.mem = s.mem ∧
      t.thread? s.input.tid = some { th with request := some (s.generationOf (k / 1024), k) }) ∧
    ((s.moveGen k ≤ g ∨ s.handing k = true) → exec .generationRefusal s = .next s)) ∧
  (∀ s : State, s.power = true → s.running = true → let b := s.input.unit; let n := s.input.sub; let m := b / 1024
    (b < 1024 * 256 → n < 128 → s.slicesInService.getLsbD n = true → s.islandMask.getLsbD (768 + n) = false → n ≠ s.sliceOf b →
      s.handing b = false → ∃ t, exec .sliceMapChange s = .next t ∧ t.mem = s.mem ∧ t.sliceOf b = n ∧
        (∀ d, d ≠ b → t.sliceOf d = s.sliceOf d) ∧ t.generationOf m = (s.generationOf m + 1) % 2 ^ 32 ∧
        (∀ d, d ≠ m → t.generationOf d = s.generationOf d) ∧ t.handing b = true ∧ t.moveGen b = (s.generationOf m + 1) % 2 ^ 32) ∧
    (∃ t, exec .bucketHandover s = .next t ∧ t.mem = s.mem ∧ t.owners = s.owners ∧ t.handing b = false ∧
      ∀ d, d ≠ b → t.handing d = s.handing d)) ∧
  (∀ s : State, s.power = true → s.running = true → let pa := s.input.addr.toNat; let k := 8 + s.input.unit
    let errors (z : State) (i : Nat) : Reg := (z.errCounters.lookup i).getD 0
    s.input.unit < 128 → s.place pa = .memory → s.sliceOf (bucketOf pa) = s.input.unit →
    (s.input.sub = 0 → exec .patrolScrub s = .next s) ∧
    (s.input.sub = 1 → ∃ t, exec .patrolScrub s = .next t ∧ t.mem = s.mem ∧ errors t (2 * k) = errors s (2 * k) + 1 ∧
      ∀ i, i ≠ 2 * k → errors t i = errors s i) ∧
    (s.input.sub = 2 → ∃ t, exec .patrolScrub s = .next t ∧ errors t (2 * k + 1) = errors s (2 * k + 1) + 1 ∧
      (s.input.ok = false → t.mem = s.mem) ∧ (s.input.ok = true → t.mem = writeBytes s.mem pa (s.input.data.take 48)))) ∧
  (∀ (s : State) (pa : Reg), s.rewriteSector pa none = s ∧ ∀ bits, s.place pa.toNat = .memory →
    s.rewriteSector pa (some bits) = { s with mem := writeBytes s.mem (pa.toNat / 48 * 48) (bits.take 48) }) ∧
  (∀ (s : State) (rest : List Turn) (k : Nat) (pa : Reg), s.power = true → s.running = true →
    let errors (z : State) (i : Nat) : Reg := (z.errCounters.lookup i).getD 0
    (s.agenda = .corrected k :: rest → ∃ t, step s = .next t ∧ t.mem = s.mem ∧ t.wgs = s.wgs ∧ t.agenda = rest ∧
      errors t (2 * k) = errors s (2 * k) + 1 ∧ ∀ i, i ≠ 2 * k → errors t i = errors s i) ∧
    (∀ (u : IssueSet) (dirty : Option (List Byte)), s.agenda = .damage (.access u) pa k dirty :: rest → s.bootState = 6 →
      ∃ t, t.mem = s.mem ∧ t.wgs = s.wgs ∧ t.graphs = s.graphs ∧ t.ctxs = s.ctxs ∧ errors t (2 * k + 1) = errors s (2 * k + 1) + 1 ∧
      step s = .next (((t.markIssue u.wg u.grp (s.weave u)).takeHits u.wg u.grp
        ((s.weave u).map fun x => (x, trap .machineCheck pa))).rewriteSector pa dirty)) ∧
    (∀ (w : Nat) (x : Workgroup), s.agenda = .damage (.l1 w) pa k none :: rest → s.wg? w = some x → ∃ t, step s = .next t ∧ t.mem = s.mem ∧
      errors t (2 * k + 1) = errors s (2 * k + 1) + 1 ∧ t.wg? w = some { x with l1 := x.l1.filter fun y => y.addr ≠ pa.toNat / 4 }) ∧
    (s.agenda = .damage .clean pa k none :: rest → ∃ t, step s = .next t ∧ t.mem = s.mem ∧ t.wgs = s.wgs ∧
      errors t (2 * k + 1) = errors s (2 * k + 1) + 1))

/-! ### Fault service and the debugger -/

/-- R332, R337: a SERVICE write that names an entry resumes its groups, but for those that another entry holds too, and the engine commands
that it stopped; their threads stand at their instruction with their registers, or
after it where the cause is one to be passed over; with ACTION 1 it kills them. One that names no entry raises the service
error. -/
def Obligations.FaultService : Prop :=
  (∀ (s : State) (v : Service), s.power = true → s.running = true → bf s.input.val 0 2 = 0 →
    s.serviceEntry s.input.unit (bf s.input.val 32 32).toNat = some v → v.skip.Nodup →
    (∀ x ∈ s.graphs, ∀ y ∈ x.nodes, y.copyLaunches = []) →
    ∃ t, exec .serviceResume s = .next t ∧ t.mem = s.mem ∧
      (∀ k ∈ t.cores, ∀ c ∈ k.copy, c.order ∈ v.orders → c.stopped = false) ∧
      (∀ q ∈ t.tambours, ∀ c ∈ q, c.order ∈ v.orders → c.stopped = false) ∧ (∀ u ∈ t.services, ¬ (u.ctx = v.ctx ∧ u.seq = v.seq)) ∧
      ∀ e ∈ v.groups, ∀ gr, s.grp? e.1 e.2 = some gr → ∃ y, t.grp? e.1 e.2 = some y ∧
        y.holds = gr.holds.filter (fun h => h ≠ .parked v.seq ∧ h ≠ .halted v.seq) ∧
        ((∀ h ∈ gr.holds, h = .parked v.seq ∨ h = .halted v.seq) → y.stop = .running) ∧
        ∀ (j : Nat) (u : Thread), gr.threads[j]? = some u → ∃ z, y.threads[j]? = some z ∧ z.regs = u.regs ∧ z.preds = u.preds ∧
          ((⟨e.1, e.2, j⟩ : ThreadId) ∉ v.skip → z.pc = u.pc) ∧
          ((⟨e.1, e.2, j⟩ : ThreadId) ∈ v.skip → u.isLive = true → ∃ n, 1 ≤ n ∧ n ≤ 5 ∧ z.pc = u.pc + BitVec.ofNat 56 (4 * n))) ∧
  (∀ (s : State) (v : Service), s.power = true → s.running = true → bf s.input.val 0 2 = 1 →
    s.serviceEntry s.input.unit (bf s.input.val 32 32).toNat = some v →
    ∃ t, exec .serviceKillGroup s = .next t ∧ ∀ e ∈ v.groups, ∀ j z, t.thread? ⟨e.1, e.2, j⟩ = some z → z.isLive = false) ∧
  (∀ (s : State) (x : Context), s.power = true → s.running = true → s.ctx? s.input.unit = some x →
    (∀ z ∈ s.graphs, ∀ y ∈ z.nodes, y.copyLaunches = []) →
    s.serviceEntry s.input.unit (bf s.input.val 32 32).toNat = none →
    (bf s.input.val 0 2 = 0 → ∃ t y, exec .serviceResume s = .next t ∧ t.services = s.services ∧ t.mem = s.mem ∧
      t.ctx? s.input.unit = some y ∧ y.cevt = x.cevt ||| 1) ∧
    (bf s.input.val 0 2 = 1 → ∃ t y, exec .serviceKillGroup s = .next t ∧ t.services = s.services ∧ t.mem = s.mem ∧
      t.ctx? s.input.unit = some y ∧ y.cevt = x.cevt ||| 1))

/-- R374 to R376: a halt request halts the groups of its region, each under its own entry of the log; a thread about to issue the group
at an enabled breakpoint takes the breakpoint trap, with the register's number in its fault address. DBGDATA reads and writes the
item that DBGSEL names of a thread of a halted group; with no such thread it raises the service error, as does a PC that is not a
multiple of 4. -/
def Obligations.Debugger : Prop :=
  (∀ (s : State) (x : Context), s.power = true → s.running = true → s.ctx? s.input.unit = some x →
    let v := s.input.val
    let r := (bf v 16 24).toNat
    let z := s.modCtx s.input.unit fun c => { c with hregion := bf v 16 24, traceEn := v.getLsbD 2, brkEn := v.getLsbD 1 }
    (v.getLsbD 3 = false → exec .haltRequest s = .next z) ∧
    (v.getLsbD 3 = true → z.regionGroups s.input.unit r = [] → exec .haltRequest s = .next z) ∧
    (∀ e, v.getLsbD 3 = true → z.regionGroups s.input.unit r = [e] →
      exec .haltRequest s = .next (z.takeFault (z.groupDelivery e.1 e.2 (trap .haltRequest 0))))) ∧
  (∀ (s s1 : State) (w : Workgroup) (g : Nat) (gr : Group) (t0 : Nat) (rest : List Nat) (th : Thread) (seq place : Nat),
    s.wg? w.id = some w → s.grp? w.id g = some gr → gr.liveGtids = t0 :: rest → gr.threads[t0]? = some th →
    (∀ x ∈ s.graphs, ∀ y ∈ x.nodes, ∀ e ∈ y.waiting, ∀ id, e.who ≠ .thread id) →
    let f : LogFields :=
      { ctx := w.ctx, cause := 0x32, policy := 5, unit := 0, acc := 0, rcb := (s.regionOf w).index, node := w.node, group := g,
        faddr := 0, pc := th.pc, graphid := ((s.graph? w.graph).map Graph.graphid).getD 0, launch := w.launch,
        nthr := gr.liveGtids.length }
    ((gr.liveGtids.foldl (init := s) fun s j => s.modThread ⟨w.id, g, j⟩ fun t => t.takeImage (trap .haltRequest 0)).modGraph w.graph fun k =>
      { k with faults := k.faults + 1 }).writeLog f = (s1, some (seq, place)) →
    ((s.takeFault (s.groupDelivery w.id g (trap .haltRequest 0))).grp? w.id g).map Group.stop = some (.halted seq)) ∧
  (∀ (s : State) (w : Workgroup) (gr : Group) (th : Thread) (c : Context), s.power = true → s.running = true →
    s.wg? s.input.tid.wg = some w → s.grp? s.input.tid.wg s.input.tid.grp = some gr → gr.stop = .running →
    s.thread? s.input.tid = some th → s.ctx? w.ctx = some c →
    (∀ (n : Nat) (r : Reg), n < 4 → c.brkEn = true → c.brkpc[n]? = some r → r.getLsbD 0 = true → bf r 2 54 = th.pc.extractLsb' 2 54 →
      (∀ (m : Nat) (q : Reg), m < n → c.brkpc[m]? = some q → q.getLsbD 0 = false ∨ bf q 2 54 ≠ th.pc.extractLsb' 2 54) → th.isLive = true →
      th.wait = .running → th.words.count = 0 →
      w.res = .resident → (∃ ir, (s.fetch w.ctx th.pc).2 = .ok ir ∧ beginsGroup (decode ir) = true) →
      exec .hardwareBreakpoint s = .next (s.takeFault { hits := [(s.input.tid, { cause := .breakpoint, addr := BitVec.ofNat 64 (0x100000 + n) })] })) ∧
    (c.brkEn = false ∨ w.res ≠ .resident ∨ (∃ ir, (s.fetch w.ctx th.pc).2 = .ok ir ∧ beginsGroup (decode ir) = false) →
      exec .hardwareBreakpoint s = .next s)) ∧
  (∀ (s : State) (id : ThreadId) (gr : Group) (th : Thread), s.power = true → s.running = true → s.debugThread s.input.unit = some id →
    s.grp? id.wg id.grp = some gr → s.thread? id = some th → th.arriving = [] →
    let item := s.debugItem s.input.unit
    (item < 64 → item < gr.allot → exec .dbgdataRead s = .next { s with answer := (th.regs[item]?).getD 0 }) ∧
    (item < 64 → gr.allot ≤ item → exec .dbgdataRead s = .next { s with answer := 0 }) ∧
    (item = 80 → exec .dbgdataRead s = .next { s with answer := th.preds.setWidth 64 }) ∧
    (item = 81 → exec .dbgdataRead s = .next { s with answer := th.pc.setWidth 64 }) ∧
    (item = 82 → exec .dbgdataRead s = .next { s with answer := th.tsw.setWidth 64 }) ∧
    (item = 85 → exec .dbgdataRead s = .next { s with answer := th.fault.faddr }) ∧
    (∀ k, k < 32 → item = 96 + k → exec .dbgdataRead s = .next { s with answer := (gr.scalars[k]?).getD 0 }) ∧
    (item < 64 → item < gr.allot → ∃ t u, exec .dbgdataWrite s = .next t ∧ t.mem = s.mem ∧ t.thread? id = some u ∧
      u.regs = th.regs.setIfInBounds item s.input.val ∧ u.pc = th.pc) ∧
    (item = 81 → bf s.input.val 0 2 = 0 → ∃ t u, exec .dbgdataWrite s = .next t ∧ t.mem = s.mem ∧ t.thread? id = some u ∧
      u.pc = s.input.val.setWidth 56 ∧ u.regs = th.regs) ∧
    (item = 81 → bf s.input.val 0 2 ≠ 0 → exec .dbgdataWrite s = .next (s.serviceError s.input.unit)) ∧
    (item = 83 → ∃ t u, exec .dbgdataWrite s = .next t ∧ t.thread? id = some u ∧
      u.srg = if s.input.val.setWidth 32 = (0 : BitVec 32) then 1 else s.input.val.setWidth 32) ∧
    (item ∈ [84, 85, 86] → ∃ t u, exec .dbgdataWrite s = .next t ∧ t.thread? id = some u ∧ u.fault = th.fault) ∧
    (∀ k, k < 32 → item = 96 + k → ∃ t y, exec .dbgdataWrite s = .next t ∧ t.grp? id.wg id.grp = some y ∧
      y.scalars = gr.scalars.setIfInBounds k s.input.val)) ∧
  (∀ s : State, s.power = true → s.running = true → s.debugThread s.input.unit = none →
    exec .dbgdataRead s = .next { s.serviceError s.input.unit with answer := 0 } ∧
    exec .dbgdataWrite s = .next (s.serviceError s.input.unit))

/-! ### The whole machine -/

/-- R328 to R339 and R393: nothing that a thread executes and no event stops the module: every fault is taken as a next state. With
the power on every instruction that threads execute, and every step, answers a next state; without it only the return of power
does. That what has no condition met changes nothing, and that every turn but the return of power stops without it, are the model's choice
(DESIGN CHOICE: notes/assumptions/98). -/
def Obligations.NothingSticks : Prop :=
  (∀ (i : Instr) (s : State), s.power = true → s.cur.isSome = true → Answers (exec i s)) ∧
  (∀ s : State, s.power = true → Answers (step s)) ∧
  (∀ s : State, s.power = false → (∀ inp rest, s.agenda ≠ .event .powerOn inp :: rest) → step s = .fault .noPower)

/-- Every step keeps both memories in canonical form, from any state in which they have it. -/
def Obligations.MemoryStaysCanonical : Prop := ∀ s t : State, Canonical s → step s = .next t → Canonical t
end

