-- ==== Sys2Proof/Laws/State.lean ====
section
/-! SUPPORT. One lemma per field per named update of the module, of a group and of a thread: what the update leaves, true by
`rfl`, so that no later proof unfolds a record update. -/

namespace Sys2Proof.Machine

open Sys2Proof

/-! ### What `State.modWg` leaves -/

@[simp] theorem State.modWg_ir (s : State) (w : Nat) (f : Workgroup → Workgroup) : (s.modWg w f).ir = s.ir := rfl
@[simp] theorem State.modWg_input (s : State) (w : Nat) (f : Workgroup → Workgroup) : (s.modWg w f).input = s.input := rfl
@[simp] theorem State.modWg_agenda (s : State) (w : Nat) (f : Workgroup → Workgroup) : (s.modWg w f).agenda = s.agenda := rfl
@[simp] theorem State.modWg_cur (s : State) (w : Nat) (f : Workgroup → Workgroup) : (s.modWg w f).cur = s.cur := rfl
@[simp] theorem State.modWg_nextId (s : State) (w : Nat) (f : Workgroup → Workgroup) : (s.modWg w f).nextId = s.nextId := rfl
@[simp] theorem State.modWg_issues (s : State) (w : Nat) (f : Workgroup → Workgroup) : (s.modWg w f).issues = s.issues := rfl
@[simp] theorem State.modWg_freeCtr (s : State) (w : Nat) (f : Workgroup → Workgroup) : (s.modWg w f).freeCtr = s.freeCtr := rfl
@[simp] theorem State.modWg_tick (s : State) (w : Nat) (f : Workgroup → Workgroup) : (s.modWg w f).tick = s.tick := rfl
@[simp] theorem State.modWg_mem (s : State) (w : Nat) (f : Workgroup → Workgroup) : (s.modWg w f).mem = s.mem := rfl
@[simp] theorem State.modWg_hostMem (s : State) (w : Nat) (f : Workgroup → Workgroup) : (s.modWg w f).hostMem = s.hostMem := rfl
@[simp] theorem State.modWg_overwritten (s : State) (w : Nat) (f : Workgroup → Workgroup) : (s.modWg w f).overwritten = s.overwritten := rfl
@[simp] theorem State.modWg_moment (s : State) (w : Nat) (f : Workgroup → Workgroup) : (s.modWg w f).moment = s.moment := rfl
@[simp] theorem State.modWg_acquired (s : State) (w : Nat) (f : Workgroup → Workgroup) : (s.modWg w f).acquired = s.acquired := rfl
@[simp] theorem State.modWg_released (s : State) (w : Nat) (f : Workgroup → Workgroup) : (s.modWg w f).released = s.released := rfl
@[simp] theorem State.modWg_acting (s : State) (w : Nat) (f : Workgroup → Workgroup) : (s.modWg w f).acting = s.acting := rfl
@[simp] theorem State.modWg_irqs (s : State) (w : Nat) (f : Workgroup → Workgroup) : (s.modWg w f).irqs = s.irqs := rfl
@[simp] theorem State.modWg_outbox (s : State) (w : Nat) (f : Workgroup → Workgroup) : (s.modWg w f).outbox = s.outbox := rfl
@[simp] theorem State.modWg_cores (s : State) (w : Nat) (f : Workgroup → Workgroup) : (s.modWg w f).cores = s.cores := rfl
@[simp] theorem State.modWg_tambours (s : State) (w : Nat) (f : Workgroup → Workgroup) : (s.modWg w f).tambours = s.tambours := rfl
@[simp] theorem State.modWg_graphs (s : State) (w : Nat) (f : Workgroup → Workgroup) : (s.modWg w f).graphs = s.graphs := rfl
@[simp] theorem State.modWg_queues (s : State) (w : Nat) (f : Workgroup → Workgroup) : (s.modWg w f).queues = s.queues := rfl
@[simp] theorem State.modWg_services (s : State) (w : Nat) (f : Workgroup → Workgroup) : (s.modWg w f).services = s.services := rfl
@[simp] theorem State.modWg_ctxs (s : State) (w : Nat) (f : Workgroup → Workgroup) : (s.modWg w f).ctxs = s.ctxs := rfl
@[simp] theorem State.modWg_poolUsed (s : State) (w : Nat) (f : Workgroup → Workgroup) : (s.modWg w f).poolUsed = s.poolUsed := rfl
@[simp] theorem State.modWg_spillUsed (s : State) (w : Nat) (f : Workgroup → Workgroup) : (s.modWg w f).spillUsed = s.spillUsed := rfl
@[simp] theorem State.modWg_tlb (s : State) (w : Nat) (f : Workgroup → Workgroup) : (s.modWg w f).tlb = s.tlb := rfl
@[simp] theorem State.modWg_mapMoves (s : State) (w : Nat) (f : Workgroup → Workgroup) : (s.modWg w f).mapMoves = s.mapMoves := rfl
@[simp] theorem State.modWg_mapGens (s : State) (w : Nat) (f : Workgroup → Workgroup) : (s.modWg w f).mapGens = s.mapGens := rfl
@[simp] theorem State.modWg_generations (s : State) (w : Nat) (f : Workgroup → Workgroup) : (s.modWg w f).generations = s.generations := rfl
@[simp] theorem State.modWg_handovers (s : State) (w : Nat) (f : Workgroup → Workgroup) : (s.modWg w f).handovers = s.handovers := rfl
@[simp] theorem State.modWg_performed (s : State) (w : Nat) (f : Workgroup → Workgroup) : (s.modWg w f).performed = s.performed := rfl
@[simp] theorem State.modWg_owners (s : State) (w : Nat) (f : Workgroup → Workgroup) : (s.modWg w f).owners = s.owners := rfl
@[simp] theorem State.modWg_colls (s : State) (w : Nat) (f : Workgroup → Workgroup) : (s.modWg w f).colls = s.colls := rfl
@[simp] theorem State.modWg_collNext (s : State) (w : Nat) (f : Workgroup → Workgroup) : (s.modWg w f).collNext = s.collNext := rfl
@[simp] theorem State.modWg_gangLeads (s : State) (w : Nat) (f : Workgroup → Workgroup) : (s.modWg w f).gangLeads = s.gangLeads := rfl
@[simp] theorem State.modWg_gangMembers (s : State) (w : Nat) (f : Workgroup → Workgroup) : (s.modWg w f).gangMembers = s.gangMembers := rfl
@[simp] theorem State.modWg_remoteRecords (s : State) (w : Nat) (f : Workgroup → Workgroup) : (s.modWg w f).remoteRecords = s.remoteRecords := rfl
@[simp] theorem State.modWg_power (s : State) (w : Nat) (f : Workgroup → Workgroup) : (s.modWg w f).power = s.power := rfl
@[simp] theorem State.modWg_bootErr (s : State) (w : Nat) (f : Workgroup → Workgroup) : (s.modWg w f).bootErr = s.bootErr := rfl
@[simp] theorem State.modWg_bootState (s : State) (w : Nat) (f : Workgroup → Workgroup) : (s.modWg w f).bootState = s.bootState := rfl
@[simp] theorem State.modWg_bootRecovery (s : State) (w : Nat) (f : Workgroup → Workgroup) : (s.modWg w f).bootRecovery = s.bootRecovery := rfl
@[simp] theorem State.modWg_bootCount (s : State) (w : Nat) (f : Workgroup → Workgroup) : (s.modWg w f).bootCount = s.bootCount := rfl
@[simp] theorem State.modWg_mrs (s : State) (w : Nat) (f : Workgroup → Workgroup) : (s.modWg w f).mrs = s.mrs := rfl
@[simp] theorem State.modWg_image (s : State) (w : Nat) (f : Workgroup → Workgroup) : (s.modWg w f).image = s.image := rfl
@[simp] theorem State.modWg_staged (s : State) (w : Nat) (f : Workgroup → Workgroup) : (s.modWg w f).staged = s.staged := rfl
@[simp] theorem State.modWg_portEn (s : State) (w : Nat) (f : Workgroup → Workgroup) : (s.modWg w f).portEn = s.portEn := rfl
@[simp] theorem State.modWg_mailbox (s : State) (w : Nat) (f : Workgroup → Workgroup) : (s.modWg w f).mailbox = s.mailbox := rfl
@[simp] theorem State.modWg_mbBlock (s : State) (w : Nat) (f : Workgroup → Workgroup) : (s.modWg w f).mbBlock = s.mbBlock := rfl
@[simp] theorem State.modWg_mbSeq (s : State) (w : Nat) (f : Workgroup → Workgroup) : (s.modWg w f).mbSeq = s.mbSeq := rfl
@[simp] theorem State.modWg_mbDone (s : State) (w : Nat) (f : Workgroup → Workgroup) : (s.modWg w f).mbDone = s.mbDone := rfl
@[simp] theorem State.modWg_mbCode (s : State) (w : Nat) (f : Workgroup → Workgroup) : (s.modWg w f).mbCode = s.mbCode := rfl
@[simp] theorem State.modWg_stopTick (s : State) (w : Nat) (f : Workgroup → Workgroup) : (s.modWg w f).stopTick = s.stopTick := rfl
@[simp] theorem State.modWg_stopArmed (s : State) (w : Nat) (f : Workgroup → Workgroup) : (s.modWg w f).stopArmed = s.stopArmed := rfl
@[simp] theorem State.modWg_stopped (s : State) (w : Nat) (f : Workgroup → Workgroup) : (s.modWg w f).stopped = s.stopped := rfl
@[simp] theorem State.modWg_clkMode (s : State) (w : Nat) (f : Workgroup → Workgroup) : (s.modWg w f).clkMode = s.clkMode := rfl
@[simp] theorem State.modWg_clkPoint (s : State) (w : Nat) (f : Workgroup → Workgroup) : (s.modWg w f).clkPoint = s.clkPoint := rfl
@[simp] theorem State.modWg_clkPending (s : State) (w : Nat) (f : Workgroup → Workgroup) : (s.modWg w f).clkPending = s.clkPending := rfl
@[simp] theorem State.modWg_lockLost (s : State) (w : Nat) (f : Workgroup → Workgroup) : (s.modWg w f).lockLost = s.lockLost := rfl
@[simp] theorem State.modWg_lockTick (s : State) (w : Nat) (f : Workgroup → Workgroup) : (s.modWg w f).lockTick = s.lockTick := rfl
@[simp] theorem State.modWg_corrected (s : State) (w : Nat) (f : Workgroup → Workgroup) : (s.modWg w f).corrected = s.corrected := rfl
@[simp] theorem State.modWg_critical (s : State) (w : Nat) (f : Workgroup → Workgroup) : (s.modWg w f).critical = s.critical := rfl
@[simp] theorem State.modWg_islandPoint (s : State) (w : Nat) (f : Workgroup → Workgroup) : (s.modWg w f).islandPoint = s.islandPoint := rfl
@[simp] theorem State.modWg_evBase (s : State) (w : Nat) (f : Workgroup → Workgroup) : (s.modWg w f).evBase = s.evBase := rfl
@[simp] theorem State.modWg_evCfg (s : State) (w : Nat) (f : Workgroup → Workgroup) : (s.modWg w f).evCfg = s.evCfg := rfl
@[simp] theorem State.modWg_evProd (s : State) (w : Nat) (f : Workgroup → Workgroup) : (s.modWg w f).evProd = s.evProd := rfl
@[simp] theorem State.modWg_evCons (s : State) (w : Nat) (f : Workgroup → Workgroup) : (s.modWg w f).evCons = s.evCons := rfl
@[simp] theorem State.modWg_errCounters (s : State) (w : Nat) (f : Workgroup → Workgroup) : (s.modWg w f).errCounters = s.errCounters := rfl
@[simp] theorem State.modWg_powerLimit (s : State) (w : Nat) (f : Workgroup → Workgroup) : (s.modWg w f).powerLimit = s.powerLimit := rfl
@[simp] theorem State.modWg_islandMask (s : State) (w : Nat) (f : Workgroup → Workgroup) : (s.modWg w f).islandMask = s.islandMask := rfl
@[simp] theorem State.modWg_cxlMasked (s : State) (w : Nat) (f : Workgroup → Workgroup) : (s.modWg w f).cxlMasked = s.cxlMasked := rfl
@[simp] theorem State.modWg_pkg (s : State) (w : Nat) (f : Workgroup → Workgroup) : (s.modWg w f).pkg = s.pkg := rfl
@[simp] theorem State.modWg_cxlPeer (s : State) (w : Nat) (f : Workgroup → Workgroup) : (s.modWg w f).cxlPeer = s.cxlPeer := rfl
@[simp] theorem State.modWg_cxlUp (s : State) (w : Nat) (f : Workgroup → Workgroup) : (s.modWg w f).cxlUp = s.cxlUp := rfl
@[simp] theorem State.modWg_cxlCap (s : State) (w : Nat) (f : Workgroup → Workgroup) : (s.modWg w f).cxlCap = s.cxlCap := rfl
@[simp] theorem State.modWg_hbmSize (s : State) (w : Nat) (f : Workgroup → Workgroup) : (s.modWg w f).hbmSize = s.hbmSize := rfl
@[simp] theorem State.modWg_cxlSizes (s : State) (w : Nat) (f : Workgroup → Workgroup) : (s.modWg w f).cxlSizes = s.cxlSizes := rfl
@[simp] theorem State.modWg_coresPresent (s : State) (w : Nat) (f : Workgroup → Workgroup) : (s.modWg w f).coresPresent = s.coresPresent := rfl
@[simp] theorem State.modWg_slicesInService (s : State) (w : Nat) (f : Workgroup → Workgroup) : (s.modWg w f).slicesInService = s.slicesInService := rfl
@[simp] theorem State.modWg_spillBytes (s : State) (w : Nat) (f : Workgroup → Workgroup) : (s.modWg w f).spillBytes = s.spillBytes := rfl
@[simp] theorem State.modWg_portsFitted (s : State) (w : Nat) (f : Workgroup → Workgroup) : (s.modWg w f).portsFitted = s.portsFitted := rfl
@[simp] theorem State.modWg_regBanks (s : State) (w : Nat) (f : Workgroup → Workgroup) : (s.modWg w f).regBanks = s.regBanks := rfl
@[simp] theorem State.modWg_routes (s : State) (w : Nat) (f : Workgroup → Workgroup) : (s.modWg w f).routes = s.routes := rfl
@[simp] theorem State.modWg_links (s : State) (w : Nat) (f : Workgroup → Workgroup) : (s.modWg w f).links = s.links := rfl
@[simp] theorem State.modWg_apBase (s : State) (w : Nat) (f : Workgroup → Workgroup) : (s.modWg w f).apBase = s.apBase := rfl
@[simp] theorem State.modWg_sampler0 (s : State) (w : Nat) (f : Workgroup → Workgroup) : (s.modWg w f).sampler0 = s.sampler0 := rfl
@[simp] theorem State.modWg_counters0 (s : State) (w : Nat) (f : Workgroup → Workgroup) : (s.modWg w f).counters0 = s.counters0 := rfl
@[simp] theorem State.modWg_sampled0 (s : State) (w : Nat) (f : Workgroup → Workgroup) : (s.modWg w f).sampled0 = s.sampled0 := rfl
@[simp] theorem State.modWg_hostFails (s : State) (w : Nat) (f : Workgroup → Workgroup) : (s.modWg w f).hostFails = s.hostFails := rfl
@[simp] theorem State.modWg_unsupported (s : State) (w : Nat) (f : Workgroup → Workgroup) : (s.modWg w f).unsupported = s.unsupported := rfl
@[simp] theorem State.modWg_answer (s : State) (w : Nat) (f : Workgroup → Workgroup) : (s.modWg w f).answer = s.answer := rfl

/-! ### What `State.modCtx` leaves -/

@[simp] theorem State.modCtx_ir (s : State) (c : Nat) (f : Context → Context) : (s.modCtx c f).ir = s.ir := rfl
@[simp] theorem State.modCtx_input (s : State) (c : Nat) (f : Context → Context) : (s.modCtx c f).input = s.input := rfl
@[simp] theorem State.modCtx_agenda (s : State) (c : Nat) (f : Context → Context) : (s.modCtx c f).agenda = s.agenda := rfl
@[simp] theorem State.modCtx_cur (s : State) (c : Nat) (f : Context → Context) : (s.modCtx c f).cur = s.cur := rfl
@[simp] theorem State.modCtx_nextId (s : State) (c : Nat) (f : Context → Context) : (s.modCtx c f).nextId = s.nextId := rfl
@[simp] theorem State.modCtx_issues (s : State) (c : Nat) (f : Context → Context) : (s.modCtx c f).issues = s.issues := rfl
@[simp] theorem State.modCtx_freeCtr (s : State) (c : Nat) (f : Context → Context) : (s.modCtx c f).freeCtr = s.freeCtr := rfl
@[simp] theorem State.modCtx_tick (s : State) (c : Nat) (f : Context → Context) : (s.modCtx c f).tick = s.tick := rfl
@[simp] theorem State.modCtx_mem (s : State) (c : Nat) (f : Context → Context) : (s.modCtx c f).mem = s.mem := rfl
@[simp] theorem State.modCtx_hostMem (s : State) (c : Nat) (f : Context → Context) : (s.modCtx c f).hostMem = s.hostMem := rfl
@[simp] theorem State.modCtx_overwritten (s : State) (c : Nat) (f : Context → Context) : (s.modCtx c f).overwritten = s.overwritten := rfl
@[simp] theorem State.modCtx_moment (s : State) (c : Nat) (f : Context → Context) : (s.modCtx c f).moment = s.moment := rfl
@[simp] theorem State.modCtx_acquired (s : State) (c : Nat) (f : Context → Context) : (s.modCtx c f).acquired = s.acquired := rfl
@[simp] theorem State.modCtx_released (s : State) (c : Nat) (f : Context → Context) : (s.modCtx c f).released = s.released := rfl
@[simp] theorem State.modCtx_acting (s : State) (c : Nat) (f : Context → Context) : (s.modCtx c f).acting = s.acting := rfl
@[simp] theorem State.modCtx_irqs (s : State) (c : Nat) (f : Context → Context) : (s.modCtx c f).irqs = s.irqs := rfl
@[simp] theorem State.modCtx_outbox (s : State) (c : Nat) (f : Context → Context) : (s.modCtx c f).outbox = s.outbox := rfl
@[simp] theorem State.modCtx_wgs (s : State) (c : Nat) (f : Context → Context) : (s.modCtx c f).wgs = s.wgs := rfl
@[simp] theorem State.modCtx_cores (s : State) (c : Nat) (f : Context → Context) : (s.modCtx c f).cores = s.cores := rfl
@[simp] theorem State.modCtx_tambours (s : State) (c : Nat) (f : Context → Context) : (s.modCtx c f).tambours = s.tambours := rfl
@[simp] theorem State.modCtx_graphs (s : State) (c : Nat) (f : Context → Context) : (s.modCtx c f).graphs = s.graphs := rfl
@[simp] theorem State.modCtx_queues (s : State) (c : Nat) (f : Context → Context) : (s.modCtx c f).queues = s.queues := rfl
@[simp] theorem State.modCtx_services (s : State) (c : Nat) (f : Context → Context) : (s.modCtx c f).services = s.services := rfl
@[simp] theorem State.modCtx_poolUsed (s : State) (c : Nat) (f : Context → Context) : (s.modCtx c f).poolUsed = s.poolUsed := rfl
@[simp] theorem State.modCtx_spillUsed (s : State) (c : Nat) (f : Context → Context) : (s.modCtx c f).spillUsed = s.spillUsed := rfl
@[simp] theorem State.modCtx_tlb (s : State) (c : Nat) (f : Context → Context) : (s.modCtx c f).tlb = s.tlb := rfl
@[simp] theorem State.modCtx_mapMoves (s : State) (c : Nat) (f : Context → Context) : (s.modCtx c f).mapMoves = s.mapMoves := rfl
@[simp] theorem State.modCtx_mapGens (s : State) (c : Nat) (f : Context → Context) : (s.modCtx c f).mapGens = s.mapGens := rfl
@[simp] theorem State.modCtx_generations (s : State) (c : Nat) (f : Context → Context) : (s.modCtx c f).generations = s.generations := rfl
@[simp] theorem State.modCtx_handovers (s : State) (c : Nat) (f : Context → Context) : (s.modCtx c f).handovers = s.handovers := rfl
@[simp] theorem State.modCtx_performed (s : State) (c : Nat) (f : Context → Context) : (s.modCtx c f).performed = s.performed := rfl
@[simp] theorem State.modCtx_owners (s : State) (c : Nat) (f : Context → Context) : (s.modCtx c f).owners = s.owners := rfl
@[simp] theorem State.modCtx_colls (s : State) (c : Nat) (f : Context → Context) : (s.modCtx c f).colls = s.colls := rfl
@[simp] theorem State.modCtx_collNext (s : State) (c : Nat) (f : Context → Context) : (s.modCtx c f).collNext = s.collNext := rfl
@[simp] theorem State.modCtx_gangLeads (s : State) (c : Nat) (f : Context → Context) : (s.modCtx c f).gangLeads = s.gangLeads := rfl
@[simp] theorem State.modCtx_gangMembers (s : State) (c : Nat) (f : Context → Context) : (s.modCtx c f).gangMembers = s.gangMembers := rfl
@[simp] theorem State.modCtx_remoteRecords (s : State) (c : Nat) (f : Context → Context) : (s.modCtx c f).remoteRecords = s.remoteRecords := rfl
@[simp] theorem State.modCtx_power (s : State) (c : Nat) (f : Context → Context) : (s.modCtx c f).power = s.power := rfl
@[simp] theorem State.modCtx_bootErr (s : State) (c : Nat) (f : Context → Context) : (s.modCtx c f).bootErr = s.bootErr := rfl
@[simp] theorem State.modCtx_bootState (s : State) (c : Nat) (f : Context → Context) : (s.modCtx c f).bootState = s.bootState := rfl
@[simp] theorem State.modCtx_bootRecovery (s : State) (c : Nat) (f : Context → Context) : (s.modCtx c f).bootRecovery = s.bootRecovery := rfl
@[simp] theorem State.modCtx_bootCount (s : State) (c : Nat) (f : Context → Context) : (s.modCtx c f).bootCount = s.bootCount := rfl
@[simp] theorem State.modCtx_mrs (s : State) (c : Nat) (f : Context → Context) : (s.modCtx c f).mrs = s.mrs := rfl
@[simp] theorem State.modCtx_image (s : State) (c : Nat) (f : Context → Context) : (s.modCtx c f).image = s.image := rfl
@[simp] theorem State.modCtx_staged (s : State) (c : Nat) (f : Context → Context) : (s.modCtx c f).staged = s.staged := rfl
@[simp] theorem State.modCtx_portEn (s : State) (c : Nat) (f : Context → Context) : (s.modCtx c f).portEn = s.portEn := rfl
@[simp] theorem State.modCtx_mailbox (s : State) (c : Nat) (f : Context → Context) : (s.modCtx c f).mailbox = s.mailbox := rfl
@[simp] theorem State.modCtx_mbBlock (s : State) (c : Nat) (f : Context → Context) : (s.modCtx c f).mbBlock = s.mbBlock := rfl
@[simp] theorem State.modCtx_mbSeq (s : State) (c : Nat) (f : Context → Context) : (s.modCtx c f).mbSeq = s.mbSeq := rfl
@[simp] theorem State.modCtx_mbDone (s : State) (c : Nat) (f : Context → Context) : (s.modCtx c f).mbDone = s.mbDone := rfl
@[simp] theorem State.modCtx_mbCode (s : State) (c : Nat) (f : Context → Context) : (s.modCtx c f).mbCode = s.mbCode := rfl
@[simp] theorem State.modCtx_stopTick (s : State) (c : Nat) (f : Context → Context) : (s.modCtx c f).stopTick = s.stopTick := rfl
@[simp] theorem State.modCtx_stopArmed (s : State) (c : Nat) (f : Context → Context) : (s.modCtx c f).stopArmed = s.stopArmed := rfl
@[simp] theorem State.modCtx_stopped (s : State) (c : Nat) (f : Context → Context) : (s.modCtx c f).stopped = s.stopped := rfl
@[simp] theorem State.modCtx_clkMode (s : State) (c : Nat) (f : Context → Context) : (s.modCtx c f).clkMode = s.clkMode := rfl
@[simp] theorem State.modCtx_clkPoint (s : State) (c : Nat) (f : Context → Context) : (s.modCtx c f).clkPoint = s.clkPoint := rfl
@[simp] theorem State.modCtx_clkPending (s : State) (c : Nat) (f : Context → Context) : (s.modCtx c f).clkPending = s.clkPending := rfl
@[simp] theorem State.modCtx_lockLost (s : State) (c : Nat) (f : Context → Context) : (s.modCtx c f).lockLost = s.lockLost := rfl
@[simp] theorem State.modCtx_lockTick (s : State) (c : Nat) (f : Context → Context) : (s.modCtx c f).lockTick = s.lockTick := rfl
@[simp] theorem State.modCtx_corrected (s : State) (c : Nat) (f : Context → Context) : (s.modCtx c f).corrected = s.corrected := rfl
@[simp] theorem State.modCtx_critical (s : State) (c : Nat) (f : Context → Context) : (s.modCtx c f).critical = s.critical := rfl
@[simp] theorem State.modCtx_islandPoint (s : State) (c : Nat) (f : Context → Context) : (s.modCtx c f).islandPoint = s.islandPoint := rfl
@[simp] theorem State.modCtx_evBase (s : State) (c : Nat) (f : Context → Context) : (s.modCtx c f).evBase = s.evBase := rfl
@[simp] theorem State.modCtx_evCfg (s : State) (c : Nat) (f : Context → Context) : (s.modCtx c f).evCfg = s.evCfg := rfl
@[simp] theorem State.modCtx_evProd (s : State) (c : Nat) (f : Context → Context) : (s.modCtx c f).evProd = s.evProd := rfl
@[simp] theorem State.modCtx_evCons (s : State) (c : Nat) (f : Context → Context) : (s.modCtx c f).evCons = s.evCons := rfl
@[simp] theorem State.modCtx_errCounters (s : State) (c : Nat) (f : Context → Context) : (s.modCtx c f).errCounters = s.errCounters := rfl
@[simp] theorem State.modCtx_powerLimit (s : State) (c : Nat) (f : Context → Context) : (s.modCtx c f).powerLimit = s.powerLimit := rfl
@[simp] theorem State.modCtx_islandMask (s : State) (c : Nat) (f : Context → Context) : (s.modCtx c f).islandMask = s.islandMask := rfl
@[simp] theorem State.modCtx_cxlMasked (s : State) (c : Nat) (f : Context → Context) : (s.modCtx c f).cxlMasked = s.cxlMasked := rfl
@[simp] theorem State.modCtx_pkg (s : State) (c : Nat) (f : Context → Context) : (s.modCtx c f).pkg = s.pkg := rfl
@[simp] theorem State.modCtx_cxlPeer (s : State) (c : Nat) (f : Context → Context) : (s.modCtx c f).cxlPeer = s.cxlPeer := rfl
@[simp] theorem State.modCtx_cxlUp (s : State) (c : Nat) (f : Context → Context) : (s.modCtx c f).cxlUp = s.cxlUp := rfl
@[simp] theorem State.modCtx_cxlCap (s : State) (c : Nat) (f : Context → Context) : (s.modCtx c f).cxlCap = s.cxlCap := rfl
@[simp] theorem State.modCtx_hbmSize (s : State) (c : Nat) (f : Context → Context) : (s.modCtx c f).hbmSize = s.hbmSize := rfl
@[simp] theorem State.modCtx_cxlSizes (s : State) (c : Nat) (f : Context → Context) : (s.modCtx c f).cxlSizes = s.cxlSizes := rfl
@[simp] theorem State.modCtx_coresPresent (s : State) (c : Nat) (f : Context → Context) : (s.modCtx c f).coresPresent = s.coresPresent := rfl
@[simp] theorem State.modCtx_slicesInService (s : State) (c : Nat) (f : Context → Context) : (s.modCtx c f).slicesInService = s.slicesInService := rfl
@[simp] theorem State.modCtx_spillBytes (s : State) (c : Nat) (f : Context → Context) : (s.modCtx c f).spillBytes = s.spillBytes := rfl
@[simp] theorem State.modCtx_portsFitted (s : State) (c : Nat) (f : Context → Context) : (s.modCtx c f).portsFitted = s.portsFitted := rfl
@[simp] theorem State.modCtx_regBanks (s : State) (c : Nat) (f : Context → Context) : (s.modCtx c f).regBanks = s.regBanks := rfl
@[simp] theorem State.modCtx_routes (s : State) (c : Nat) (f : Context → Context) : (s.modCtx c f).routes = s.routes := rfl
@[simp] theorem State.modCtx_links (s : State) (c : Nat) (f : Context → Context) : (s.modCtx c f).links = s.links := rfl
@[simp] theorem State.modCtx_apBase (s : State) (c : Nat) (f : Context → Context) : (s.modCtx c f).apBase = s.apBase := rfl
@[simp] theorem State.modCtx_sampler0 (s : State) (c : Nat) (f : Context → Context) : (s.modCtx c f).sampler0 = s.sampler0 := rfl
@[simp] theorem State.modCtx_counters0 (s : State) (c : Nat) (f : Context → Context) : (s.modCtx c f).counters0 = s.counters0 := rfl
@[simp] theorem State.modCtx_sampled0 (s : State) (c : Nat) (f : Context → Context) : (s.modCtx c f).sampled0 = s.sampled0 := rfl
@[simp] theorem State.modCtx_hostFails (s : State) (c : Nat) (f : Context → Context) : (s.modCtx c f).hostFails = s.hostFails := rfl
@[simp] theorem State.modCtx_unsupported (s : State) (c : Nat) (f : Context → Context) : (s.modCtx c f).unsupported = s.unsupported := rfl
@[simp] theorem State.modCtx_answer (s : State) (c : Nat) (f : Context → Context) : (s.modCtx c f).answer = s.answer := rfl

/-! ### What `State.modGrp` leaves -/

@[simp] theorem State.modGrp_ir (s : State) (w g : Nat) (f : Group → Group) : (s.modGrp w g f).ir = s.ir := rfl
@[simp] theorem State.modGrp_input (s : State) (w g : Nat) (f : Group → Group) : (s.modGrp w g f).input = s.input := rfl
@[simp] theorem State.modGrp_agenda (s : State) (w g : Nat) (f : Group → Group) : (s.modGrp w g f).agenda = s.agenda := rfl
@[simp] theorem State.modGrp_cur (s : State) (w g : Nat) (f : Group → Group) : (s.modGrp w g f).cur = s.cur := rfl
@[simp] theorem State.modGrp_nextId (s : State) (w g : Nat) (f : Group → Group) : (s.modGrp w g f).nextId = s.nextId := rfl
@[simp] theorem State.modGrp_issues (s : State) (w g : Nat) (f : Group → Group) : (s.modGrp w g f).issues = s.issues := rfl
@[simp] theorem State.modGrp_freeCtr (s : State) (w g : Nat) (f : Group → Group) : (s.modGrp w g f).freeCtr = s.freeCtr := rfl
@[simp] theorem State.modGrp_tick (s : State) (w g : Nat) (f : Group → Group) : (s.modGrp w g f).tick = s.tick := rfl
@[simp] theorem State.modGrp_mem (s : State) (w g : Nat) (f : Group → Group) : (s.modGrp w g f).mem = s.mem := rfl
@[simp] theorem State.modGrp_hostMem (s : State) (w g : Nat) (f : Group → Group) : (s.modGrp w g f).hostMem = s.hostMem := rfl
@[simp] theorem State.modGrp_overwritten (s : State) (w g : Nat) (f : Group → Group) : (s.modGrp w g f).overwritten = s.overwritten := rfl
@[simp] theorem State.modGrp_moment (s : State) (w g : Nat) (f : Group → Group) : (s.modGrp w g f).moment = s.moment := rfl
@[simp] theorem State.modGrp_acquired (s : State) (w g : Nat) (f : Group → Group) : (s.modGrp w g f).acquired = s.acquired := rfl
@[simp] theorem State.modGrp_released (s : State) (w g : Nat) (f : Group → Group) : (s.modGrp w g f).released = s.released := rfl
@[simp] theorem State.modGrp_acting (s : State) (w g : Nat) (f : Group → Group) : (s.modGrp w g f).acting = s.acting := rfl
@[simp] theorem State.modGrp_irqs (s : State) (w g : Nat) (f : Group → Group) : (s.modGrp w g f).irqs = s.irqs := rfl
@[simp] theorem State.modGrp_outbox (s : State) (w g : Nat) (f : Group → Group) : (s.modGrp w g f).outbox = s.outbox := rfl
@[simp] theorem State.modGrp_cores (s : State) (w g : Nat) (f : Group → Group) : (s.modGrp w g f).cores = s.cores := rfl
@[simp] theorem State.modGrp_tambours (s : State) (w g : Nat) (f : Group → Group) : (s.modGrp w g f).tambours = s.tambours := rfl
@[simp] theorem State.modGrp_graphs (s : State) (w g : Nat) (f : Group → Group) : (s.modGrp w g f).graphs = s.graphs := rfl
@[simp] theorem State.modGrp_queues (s : State) (w g : Nat) (f : Group → Group) : (s.modGrp w g f).queues = s.queues := rfl
@[simp] theorem State.modGrp_services (s : State) (w g : Nat) (f : Group → Group) : (s.modGrp w g f).services = s.services := rfl
@[simp] theorem State.modGrp_ctxs (s : State) (w g : Nat) (f : Group → Group) : (s.modGrp w g f).ctxs = s.ctxs := rfl
@[simp] theorem State.modGrp_poolUsed (s : State) (w g : Nat) (f : Group → Group) : (s.modGrp w g f).poolUsed = s.poolUsed := rfl
@[simp] theorem State.modGrp_spillUsed (s : State) (w g : Nat) (f : Group → Group) : (s.modGrp w g f).spillUsed = s.spillUsed := rfl
@[simp] theorem State.modGrp_tlb (s : State) (w g : Nat) (f : Group → Group) : (s.modGrp w g f).tlb = s.tlb := rfl
@[simp] theorem State.modGrp_mapMoves (s : State) (w g : Nat) (f : Group → Group) : (s.modGrp w g f).mapMoves = s.mapMoves := rfl
@[simp] theorem State.modGrp_mapGens (s : State) (w g : Nat) (f : Group → Group) : (s.modGrp w g f).mapGens = s.mapGens := rfl
@[simp] theorem State.modGrp_generations (s : State) (w g : Nat) (f : Group → Group) : (s.modGrp w g f).generations = s.generations := rfl
@[simp] theorem State.modGrp_handovers (s : State) (w g : Nat) (f : Group → Group) : (s.modGrp w g f).handovers = s.handovers := rfl
@[simp] theorem State.modGrp_performed (s : State) (w g : Nat) (f : Group → Group) : (s.modGrp w g f).performed = s.performed := rfl
@[simp] theorem State.modGrp_owners (s : State) (w g : Nat) (f : Group → Group) : (s.modGrp w g f).owners = s.owners := rfl
@[simp] theorem State.modGrp_colls (s : State) (w g : Nat) (f : Group → Group) : (s.modGrp w g f).colls = s.colls := rfl
@[simp] theorem State.modGrp_collNext (s : State) (w g : Nat) (f : Group → Group) : (s.modGrp w g f).collNext = s.collNext := rfl
@[simp] theorem State.modGrp_gangLeads (s : State) (w g : Nat) (f : Group → Group) : (s.modGrp w g f).gangLeads = s.gangLeads := rfl
@[simp] theorem State.modGrp_gangMembers (s : State) (w g : Nat) (f : Group → Group) : (s.modGrp w g f).gangMembers = s.gangMembers := rfl
@[simp] theorem State.modGrp_remoteRecords (s : State) (w g : Nat) (f : Group → Group) : (s.modGrp w g f).remoteRecords = s.remoteRecords := rfl
@[simp] theorem State.modGrp_power (s : State) (w g : Nat) (f : Group → Group) : (s.modGrp w g f).power = s.power := rfl
@[simp] theorem State.modGrp_bootErr (s : State) (w g : Nat) (f : Group → Group) : (s.modGrp w g f).bootErr = s.bootErr := rfl
@[simp] theorem State.modGrp_bootState (s : State) (w g : Nat) (f : Group → Group) : (s.modGrp w g f).bootState = s.bootState := rfl
@[simp] theorem State.modGrp_bootRecovery (s : State) (w g : Nat) (f : Group → Group) : (s.modGrp w g f).bootRecovery = s.bootRecovery := rfl
@[simp] theorem State.modGrp_bootCount (s : State) (w g : Nat) (f : Group → Group) : (s.modGrp w g f).bootCount = s.bootCount := rfl
@[simp] theorem State.modGrp_mrs (s : State) (w g : Nat) (f : Group → Group) : (s.modGrp w g f).mrs = s.mrs := rfl
@[simp] theorem State.modGrp_image (s : State) (w g : Nat) (f : Group → Group) : (s.modGrp w g f).image = s.image := rfl
@[simp] theorem State.modGrp_staged (s : State) (w g : Nat) (f : Group → Group) : (s.modGrp w g f).staged = s.staged := rfl
@[simp] theorem State.modGrp_portEn (s : State) (w g : Nat) (f : Group → Group) : (s.modGrp w g f).portEn = s.portEn := rfl
@[simp] theorem State.modGrp_mailbox (s : State) (w g : Nat) (f : Group → Group) : (s.modGrp w g f).mailbox = s.mailbox := rfl
@[simp] theorem State.modGrp_mbBlock (s : State) (w g : Nat) (f : Group → Group) : (s.modGrp w g f).mbBlock = s.mbBlock := rfl
@[simp] theorem State.modGrp_mbSeq (s : State) (w g : Nat) (f : Group → Group) : (s.modGrp w g f).mbSeq = s.mbSeq := rfl
@[simp] theorem State.modGrp_mbDone (s : State) (w g : Nat) (f : Group → Group) : (s.modGrp w g f).mbDone = s.mbDone := rfl
@[simp] theorem State.modGrp_mbCode (s : State) (w g : Nat) (f : Group → Group) : (s.modGrp w g f).mbCode = s.mbCode := rfl
@[simp] theorem State.modGrp_stopTick (s : State) (w g : Nat) (f : Group → Group) : (s.modGrp w g f).stopTick = s.stopTick := rfl
@[simp] theorem State.modGrp_stopArmed (s : State) (w g : Nat) (f : Group → Group) : (s.modGrp w g f).stopArmed = s.stopArmed := rfl
@[simp] theorem State.modGrp_stopped (s : State) (w g : Nat) (f : Group → Group) : (s.modGrp w g f).stopped = s.stopped := rfl
@[simp] theorem State.modGrp_clkMode (s : State) (w g : Nat) (f : Group → Group) : (s.modGrp w g f).clkMode = s.clkMode := rfl
@[simp] theorem State.modGrp_clkPoint (s : State) (w g : Nat) (f : Group → Group) : (s.modGrp w g f).clkPoint = s.clkPoint := rfl
@[simp] theorem State.modGrp_clkPending (s : State) (w g : Nat) (f : Group → Group) : (s.modGrp w g f).clkPending = s.clkPending := rfl
@[simp] theorem State.modGrp_lockLost (s : State) (w g : Nat) (f : Group → Group) : (s.modGrp w g f).lockLost = s.lockLost := rfl
@[simp] theorem State.modGrp_lockTick (s : State) (w g : Nat) (f : Group → Group) : (s.modGrp w g f).lockTick = s.lockTick := rfl
@[simp] theorem State.modGrp_corrected (s : State) (w g : Nat) (f : Group → Group) : (s.modGrp w g f).corrected = s.corrected := rfl
@[simp] theorem State.modGrp_critical (s : State) (w g : Nat) (f : Group → Group) : (s.modGrp w g f).critical = s.critical := rfl
@[simp] theorem State.modGrp_islandPoint (s : State) (w g : Nat) (f : Group → Group) : (s.modGrp w g f).islandPoint = s.islandPoint := rfl
@[simp] theorem State.modGrp_evBase (s : State) (w g : Nat) (f : Group → Group) : (s.modGrp w g f).evBase = s.evBase := rfl
@[simp] theorem State.modGrp_evCfg (s : State) (w g : Nat) (f : Group → Group) : (s.modGrp w g f).evCfg = s.evCfg := rfl
@[simp] theorem State.modGrp_evProd (s : State) (w g : Nat) (f : Group → Group) : (s.modGrp w g f).evProd = s.evProd := rfl
@[simp] theorem State.modGrp_evCons (s : State) (w g : Nat) (f : Group → Group) : (s.modGrp w g f).evCons = s.evCons := rfl
@[simp] theorem State.modGrp_errCounters (s : State) (w g : Nat) (f : Group → Group) : (s.modGrp w g f).errCounters = s.errCounters := rfl
@[simp] theorem State.modGrp_powerLimit (s : State) (w g : Nat) (f : Group → Group) : (s.modGrp w g f).powerLimit = s.powerLimit := rfl
@[simp] theorem State.modGrp_islandMask (s : State) (w g : Nat) (f : Group → Group) : (s.modGrp w g f).islandMask = s.islandMask := rfl
@[simp] theorem State.modGrp_cxlMasked (s : State) (w g : Nat) (f : Group → Group) : (s.modGrp w g f).cxlMasked = s.cxlMasked := rfl
@[simp] theorem State.modGrp_pkg (s : State) (w g : Nat) (f : Group → Group) : (s.modGrp w g f).pkg = s.pkg := rfl
@[simp] theorem State.modGrp_cxlPeer (s : State) (w g : Nat) (f : Group → Group) : (s.modGrp w g f).cxlPeer = s.cxlPeer := rfl
@[simp] theorem State.modGrp_cxlUp (s : State) (w g : Nat) (f : Group → Group) : (s.modGrp w g f).cxlUp = s.cxlUp := rfl
@[simp] theorem State.modGrp_cxlCap (s : State) (w g : Nat) (f : Group → Group) : (s.modGrp w g f).cxlCap = s.cxlCap := rfl
@[simp] theorem State.modGrp_hbmSize (s : State) (w g : Nat) (f : Group → Group) : (s.modGrp w g f).hbmSize = s.hbmSize := rfl
@[simp] theorem State.modGrp_cxlSizes (s : State) (w g : Nat) (f : Group → Group) : (s.modGrp w g f).cxlSizes = s.cxlSizes := rfl
@[simp] theorem State.modGrp_coresPresent (s : State) (w g : Nat) (f : Group → Group) : (s.modGrp w g f).coresPresent = s.coresPresent := rfl
@[simp] theorem State.modGrp_slicesInService (s : State) (w g : Nat) (f : Group → Group) : (s.modGrp w g f).slicesInService = s.slicesInService := rfl
@[simp] theorem State.modGrp_spillBytes (s : State) (w g : Nat) (f : Group → Group) : (s.modGrp w g f).spillBytes = s.spillBytes := rfl
@[simp] theorem State.modGrp_portsFitted (s : State) (w g : Nat) (f : Group → Group) : (s.modGrp w g f).portsFitted = s.portsFitted := rfl
@[simp] theorem State.modGrp_regBanks (s : State) (w g : Nat) (f : Group → Group) : (s.modGrp w g f).regBanks = s.regBanks := rfl
@[simp] theorem State.modGrp_routes (s : State) (w g : Nat) (f : Group → Group) : (s.modGrp w g f).routes = s.routes := rfl
@[simp] theorem State.modGrp_links (s : State) (w g : Nat) (f : Group → Group) : (s.modGrp w g f).links = s.links := rfl
@[simp] theorem State.modGrp_apBase (s : State) (w g : Nat) (f : Group → Group) : (s.modGrp w g f).apBase = s.apBase := rfl
@[simp] theorem State.modGrp_sampler0 (s : State) (w g : Nat) (f : Group → Group) : (s.modGrp w g f).sampler0 = s.sampler0 := rfl
@[simp] theorem State.modGrp_counters0 (s : State) (w g : Nat) (f : Group → Group) : (s.modGrp w g f).counters0 = s.counters0 := rfl
@[simp] theorem State.modGrp_sampled0 (s : State) (w g : Nat) (f : Group → Group) : (s.modGrp w g f).sampled0 = s.sampled0 := rfl
@[simp] theorem State.modGrp_hostFails (s : State) (w g : Nat) (f : Group → Group) : (s.modGrp w g f).hostFails = s.hostFails := rfl
@[simp] theorem State.modGrp_unsupported (s : State) (w g : Nat) (f : Group → Group) : (s.modGrp w g f).unsupported = s.unsupported := rfl
@[simp] theorem State.modGrp_answer (s : State) (w g : Nat) (f : Group → Group) : (s.modGrp w g f).answer = s.answer := rfl

/-! ### What `State.modThread` leaves -/

@[simp] theorem State.modThread_ir (s : State) (t : ThreadId) (f : Thread → Thread) : (s.modThread t f).ir = s.ir := rfl
@[simp] theorem State.modThread_input (s : State) (t : ThreadId) (f : Thread → Thread) : (s.modThread t f).input = s.input := rfl
@[simp] theorem State.modThread_agenda (s : State) (t : ThreadId) (f : Thread → Thread) : (s.modThread t f).agenda = s.agenda := rfl
@[simp] theorem State.modThread_cur (s : State) (t : ThreadId) (f : Thread → Thread) : (s.modThread t f).cur = s.cur := rfl
@[simp] theorem State.modThread_nextId (s : State) (t : ThreadId) (f : Thread → Thread) : (s.modThread t f).nextId = s.nextId := rfl
@[simp] theorem State.modThread_issues (s : State) (t : ThreadId) (f : Thread → Thread) : (s.modThread t f).issues = s.issues := rfl
@[simp] theorem State.modThread_freeCtr (s : State) (t : ThreadId) (f : Thread → Thread) : (s.modThread t f).freeCtr = s.freeCtr := rfl
@[simp] theorem State.modThread_tick (s : State) (t : ThreadId) (f : Thread → Thread) : (s.modThread t f).tick = s.tick := rfl
@[simp] theorem State.modThread_mem (s : State) (t : ThreadId) (f : Thread → Thread) : (s.modThread t f).mem = s.mem := rfl
@[simp] theorem State.modThread_hostMem (s : State) (t : ThreadId) (f : Thread → Thread) : (s.modThread t f).hostMem = s.hostMem := rfl
@[simp] theorem State.modThread_overwritten (s : State) (t : ThreadId) (f : Thread → Thread) : (s.modThread t f).overwritten = s.overwritten := rfl
@[simp] theorem State.modThread_moment (s : State) (t : ThreadId) (f : Thread → Thread) : (s.modThread t f).moment = s.moment := rfl
@[simp] theorem State.modThread_acquired (s : State) (t : ThreadId) (f : Thread → Thread) : (s.modThread t f).acquired = s.acquired := rfl
@[simp] theorem State.modThread_released (s : State) (t : ThreadId) (f : Thread → Thread) : (s.modThread t f).released = s.released := rfl
@[simp] theorem State.modThread_acting (s : State) (t : ThreadId) (f : Thread → Thread) : (s.modThread t f).acting = s.acting := rfl
@[simp] theorem State.modThread_irqs (s : State) (t : ThreadId) (f : Thread → Thread) : (s.modThread t f).irqs = s.irqs := rfl
@[simp] theorem State.modThread_outbox (s : State) (t : ThreadId) (f : Thread → Thread) : (s.modThread t f).outbox = s.outbox := rfl
@[simp] theorem State.modThread_cores (s : State) (t : ThreadId) (f : Thread → Thread) : (s.modThread t f).cores = s.cores := rfl
@[simp] theorem State.modThread_tambours (s : State) (t : ThreadId) (f : Thread → Thread) : (s.modThread t f).tambours = s.tambours := rfl
@[simp] theorem State.modThread_graphs (s : State) (t : ThreadId) (f : Thread → Thread) : (s.modThread t f).graphs = s.graphs := rfl
@[simp] theorem State.modThread_queues (s : State) (t : ThreadId) (f : Thread → Thread) : (s.modThread t f).queues = s.queues := rfl
@[simp] theorem State.modThread_services (s : State) (t : ThreadId) (f : Thread → Thread) : (s.modThread t f).services = s.services := rfl
@[simp] theorem State.modThread_ctxs (s : State) (t : ThreadId) (f : Thread → Thread) : (s.modThread t f).ctxs = s.ctxs := rfl
@[simp] theorem State.modThread_poolUsed (s : State) (t : ThreadId) (f : Thread → Thread) : (s.modThread t f).poolUsed = s.poolUsed := rfl
@[simp] theorem State.modThread_spillUsed (s : State) (t : ThreadId) (f : Thread → Thread) : (s.modThread t f).spillUsed = s.spillUsed := rfl
@[simp] theorem State.modThread_tlb (s : State) (t : ThreadId) (f : Thread → Thread) : (s.modThread t f).tlb = s.tlb := rfl
@[simp] theorem State.modThread_mapMoves (s : State) (t : ThreadId) (f : Thread → Thread) : (s.modThread t f).mapMoves = s.mapMoves := rfl
@[simp] theorem State.modThread_mapGens (s : State) (t : ThreadId) (f : Thread → Thread) : (s.modThread t f).mapGens = s.mapGens := rfl
@[simp] theorem State.modThread_generations (s : State) (t : ThreadId) (f : Thread → Thread) : (s.modThread t f).generations = s.generations := rfl
@[simp] theorem State.modThread_handovers (s : State) (t : ThreadId) (f : Thread → Thread) : (s.modThread t f).handovers = s.handovers := rfl
@[simp] theorem State.modThread_performed (s : State) (t : ThreadId) (f : Thread → Thread) : (s.modThread t f).performed = s.performed := rfl
@[simp] theorem State.modThread_owners (s : State) (t : ThreadId) (f : Thread → Thread) : (s.modThread t f).owners = s.owners := rfl
@[simp] theorem State.modThread_colls (s : State) (t : ThreadId) (f : Thread → Thread) : (s.modThread t f).colls = s.colls := rfl
@[simp] theorem State.modThread_collNext (s : State) (t : ThreadId) (f : Thread → Thread) : (s.modThread t f).collNext = s.collNext := rfl
@[simp] theorem State.modThread_gangLeads (s : State) (t : ThreadId) (f : Thread → Thread) : (s.modThread t f).gangLeads = s.gangLeads := rfl
@[simp] theorem State.modThread_gangMembers (s : State) (t : ThreadId) (f : Thread → Thread) : (s.modThread t f).gangMembers = s.gangMembers := rfl
@[simp] theorem State.modThread_remoteRecords (s : State) (t : ThreadId) (f : Thread → Thread) : (s.modThread t f).remoteRecords = s.remoteRecords := rfl
@[simp] theorem State.modThread_power (s : State) (t : ThreadId) (f : Thread → Thread) : (s.modThread t f).power = s.power := rfl
@[simp] theorem State.modThread_bootErr (s : State) (t : ThreadId) (f : Thread → Thread) : (s.modThread t f).bootErr = s.bootErr := rfl
@[simp] theorem State.modThread_bootState (s : State) (t : ThreadId) (f : Thread → Thread) : (s.modThread t f).bootState = s.bootState := rfl
@[simp] theorem State.modThread_bootRecovery (s : State) (t : ThreadId) (f : Thread → Thread) : (s.modThread t f).bootRecovery = s.bootRecovery := rfl
@[simp] theorem State.modThread_bootCount (s : State) (t : ThreadId) (f : Thread → Thread) : (s.modThread t f).bootCount = s.bootCount := rfl
@[simp] theorem State.modThread_mrs (s : State) (t : ThreadId) (f : Thread → Thread) : (s.modThread t f).mrs = s.mrs := rfl
@[simp] theorem State.modThread_image (s : State) (t : ThreadId) (f : Thread → Thread) : (s.modThread t f).image = s.image := rfl
@[simp] theorem State.modThread_staged (s : State) (t : ThreadId) (f : Thread → Thread) : (s.modThread t f).staged = s.staged := rfl
@[simp] theorem State.modThread_portEn (s : State) (t : ThreadId) (f : Thread → Thread) : (s.modThread t f).portEn = s.portEn := rfl
@[simp] theorem State.modThread_mailbox (s : State) (t : ThreadId) (f : Thread → Thread) : (s.modThread t f).mailbox = s.mailbox := rfl
@[simp] theorem State.modThread_mbBlock (s : State) (t : ThreadId) (f : Thread → Thread) : (s.modThread t f).mbBlock = s.mbBlock := rfl
@[simp] theorem State.modThread_mbSeq (s : State) (t : ThreadId) (f : Thread → Thread) : (s.modThread t f).mbSeq = s.mbSeq := rfl
@[simp] theorem State.modThread_mbDone (s : State) (t : ThreadId) (f : Thread → Thread) : (s.modThread t f).mbDone = s.mbDone := rfl
@[simp] theorem State.modThread_mbCode (s : State) (t : ThreadId) (f : Thread → Thread) : (s.modThread t f).mbCode = s.mbCode := rfl
@[simp] theorem State.modThread_stopTick (s : State) (t : ThreadId) (f : Thread → Thread) : (s.modThread t f).stopTick = s.stopTick := rfl
@[simp] theorem State.modThread_stopArmed (s : State) (t : ThreadId) (f : Thread → Thread) : (s.modThread t f).stopArmed = s.stopArmed := rfl
@[simp] theorem State.modThread_stopped (s : State) (t : ThreadId) (f : Thread → Thread) : (s.modThread t f).stopped = s.stopped := rfl
@[simp] theorem State.modThread_clkMode (s : State) (t : ThreadId) (f : Thread → Thread) : (s.modThread t f).clkMode = s.clkMode := rfl
@[simp] theorem State.modThread_clkPoint (s : State) (t : ThreadId) (f : Thread → Thread) : (s.modThread t f).clkPoint = s.clkPoint := rfl
@[simp] theorem State.modThread_clkPending (s : State) (t : ThreadId) (f : Thread → Thread) : (s.modThread t f).clkPending = s.clkPending := rfl
@[simp] theorem State.modThread_lockLost (s : State) (t : ThreadId) (f : Thread → Thread) : (s.modThread t f).lockLost = s.lockLost := rfl
@[simp] theorem State.modThread_lockTick (s : State) (t : ThreadId) (f : Thread → Thread) : (s.modThread t f).lockTick = s.lockTick := rfl
@[simp] theorem State.modThread_corrected (s : State) (t : ThreadId) (f : Thread → Thread) : (s.modThread t f).corrected = s.corrected := rfl
@[simp] theorem State.modThread_critical (s : State) (t : ThreadId) (f : Thread → Thread) : (s.modThread t f).critical = s.critical := rfl
@[simp] theorem State.modThread_islandPoint (s : State) (t : ThreadId) (f : Thread → Thread) : (s.modThread t f).islandPoint = s.islandPoint := rfl
@[simp] theorem State.modThread_evBase (s : State) (t : ThreadId) (f : Thread → Thread) : (s.modThread t f).evBase = s.evBase := rfl
@[simp] theorem State.modThread_evCfg (s : State) (t : ThreadId) (f : Thread → Thread) : (s.modThread t f).evCfg = s.evCfg := rfl
@[simp] theorem State.modThread_evProd (s : State) (t : ThreadId) (f : Thread → Thread) : (s.modThread t f).evProd = s.evProd := rfl
@[simp] theorem State.modThread_evCons (s : State) (t : ThreadId) (f : Thread → Thread) : (s.modThread t f).evCons = s.evCons := rfl
@[simp] theorem State.modThread_errCounters (s : State) (t : ThreadId) (f : Thread → Thread) : (s.modThread t f).errCounters = s.errCounters := rfl
@[simp] theorem State.modThread_powerLimit (s : State) (t : ThreadId) (f : Thread → Thread) : (s.modThread t f).powerLimit = s.powerLimit := rfl
@[simp] theorem State.modThread_islandMask (s : State) (t : ThreadId) (f : Thread → Thread) : (s.modThread t f).islandMask = s.islandMask := rfl
@[simp] theorem State.modThread_cxlMasked (s : State) (t : ThreadId) (f : Thread → Thread) : (s.modThread t f).cxlMasked = s.cxlMasked := rfl
@[simp] theorem State.modThread_pkg (s : State) (t : ThreadId) (f : Thread → Thread) : (s.modThread t f).pkg = s.pkg := rfl
@[simp] theorem State.modThread_cxlPeer (s : State) (t : ThreadId) (f : Thread → Thread) : (s.modThread t f).cxlPeer = s.cxlPeer := rfl
@[simp] theorem State.modThread_cxlUp (s : State) (t : ThreadId) (f : Thread → Thread) : (s.modThread t f).cxlUp = s.cxlUp := rfl
@[simp] theorem State.modThread_cxlCap (s : State) (t : ThreadId) (f : Thread → Thread) : (s.modThread t f).cxlCap = s.cxlCap := rfl
@[simp] theorem State.modThread_hbmSize (s : State) (t : ThreadId) (f : Thread → Thread) : (s.modThread t f).hbmSize = s.hbmSize := rfl
@[simp] theorem State.modThread_cxlSizes (s : State) (t : ThreadId) (f : Thread → Thread) : (s.modThread t f).cxlSizes = s.cxlSizes := rfl
@[simp] theorem State.modThread_coresPresent (s : State) (t : ThreadId) (f : Thread → Thread) : (s.modThread t f).coresPresent = s.coresPresent := rfl
@[simp] theorem State.modThread_slicesInService (s : State) (t : ThreadId) (f : Thread → Thread) : (s.modThread t f).slicesInService = s.slicesInService := rfl
@[simp] theorem State.modThread_spillBytes (s : State) (t : ThreadId) (f : Thread → Thread) : (s.modThread t f).spillBytes = s.spillBytes := rfl
@[simp] theorem State.modThread_portsFitted (s : State) (t : ThreadId) (f : Thread → Thread) : (s.modThread t f).portsFitted = s.portsFitted := rfl
@[simp] theorem State.modThread_regBanks (s : State) (t : ThreadId) (f : Thread → Thread) : (s.modThread t f).regBanks = s.regBanks := rfl
@[simp] theorem State.modThread_routes (s : State) (t : ThreadId) (f : Thread → Thread) : (s.modThread t f).routes = s.routes := rfl
@[simp] theorem State.modThread_links (s : State) (t : ThreadId) (f : Thread → Thread) : (s.modThread t f).links = s.links := rfl
@[simp] theorem State.modThread_apBase (s : State) (t : ThreadId) (f : Thread → Thread) : (s.modThread t f).apBase = s.apBase := rfl
@[simp] theorem State.modThread_sampler0 (s : State) (t : ThreadId) (f : Thread → Thread) : (s.modThread t f).sampler0 = s.sampler0 := rfl
@[simp] theorem State.modThread_counters0 (s : State) (t : ThreadId) (f : Thread → Thread) : (s.modThread t f).counters0 = s.counters0 := rfl
@[simp] theorem State.modThread_sampled0 (s : State) (t : ThreadId) (f : Thread → Thread) : (s.modThread t f).sampled0 = s.sampled0 := rfl
@[simp] theorem State.modThread_hostFails (s : State) (t : ThreadId) (f : Thread → Thread) : (s.modThread t f).hostFails = s.hostFails := rfl
@[simp] theorem State.modThread_unsupported (s : State) (t : ThreadId) (f : Thread → Thread) : (s.modThread t f).unsupported = s.unsupported := rfl
@[simp] theorem State.modThread_answer (s : State) (t : ThreadId) (f : Thread → Thread) : (s.modThread t f).answer = s.answer := rfl

/-! ### What `State.setThread` leaves -/

@[simp] theorem State.setThread_ir (s : State) (t : ThreadId) (x : Thread) : (s.setThread t x).ir = s.ir := rfl
@[simp] theorem State.setThread_input (s : State) (t : ThreadId) (x : Thread) : (s.setThread t x).input = s.input := rfl
@[simp] theorem State.setThread_agenda (s : State) (t : ThreadId) (x : Thread) : (s.setThread t x).agenda = s.agenda := rfl
@[simp] theorem State.setThread_cur (s : State) (t : ThreadId) (x : Thread) : (s.setThread t x).cur = s.cur := rfl
@[simp] theorem State.setThread_nextId (s : State) (t : ThreadId) (x : Thread) : (s.setThread t x).nextId = s.nextId := rfl
@[simp] theorem State.setThread_issues (s : State) (t : ThreadId) (x : Thread) : (s.setThread t x).issues = s.issues := rfl
@[simp] theorem State.setThread_freeCtr (s : State) (t : ThreadId) (x : Thread) : (s.setThread t x).freeCtr = s.freeCtr := rfl
@[simp] theorem State.setThread_tick (s : State) (t : ThreadId) (x : Thread) : (s.setThread t x).tick = s.tick := rfl
@[simp] theorem State.setThread_mem (s : State) (t : ThreadId) (x : Thread) : (s.setThread t x).mem = s.mem := rfl
@[simp] theorem State.setThread_hostMem (s : State) (t : ThreadId) (x : Thread) : (s.setThread t x).hostMem = s.hostMem := rfl
@[simp] theorem State.setThread_overwritten (s : State) (t : ThreadId) (x : Thread) : (s.setThread t x).overwritten = s.overwritten := rfl
@[simp] theorem State.setThread_moment (s : State) (t : ThreadId) (x : Thread) : (s.setThread t x).moment = s.moment := rfl
@[simp] theorem State.setThread_acquired (s : State) (t : ThreadId) (x : Thread) : (s.setThread t x).acquired = s.acquired := rfl
@[simp] theorem State.setThread_released (s : State) (t : ThreadId) (x : Thread) : (s.setThread t x).released = s.released := rfl
@[simp] theorem State.setThread_acting (s : State) (t : ThreadId) (x : Thread) : (s.setThread t x).acting = s.acting := rfl
@[simp] theorem State.setThread_irqs (s : State) (t : ThreadId) (x : Thread) : (s.setThread t x).irqs = s.irqs := rfl
@[simp] theorem State.setThread_outbox (s : State) (t : ThreadId) (x : Thread) : (s.setThread t x).outbox = s.outbox := rfl
@[simp] theorem State.setThread_cores (s : State) (t : ThreadId) (x : Thread) : (s.setThread t x).cores = s.cores := rfl
@[simp] theorem State.setThread_tambours (s : State) (t : ThreadId) (x : Thread) : (s.setThread t x).tambours = s.tambours := rfl
@[simp] theorem State.setThread_graphs (s : State) (t : ThreadId) (x : Thread) : (s.setThread t x).graphs = s.graphs := rfl
@[simp] theorem State.setThread_queues (s : State) (t : ThreadId) (x : Thread) : (s.setThread t x).queues = s.queues := rfl
@[simp] theorem State.setThread_services (s : State) (t : ThreadId) (x : Thread) : (s.setThread t x).services = s.services := rfl
@[simp] theorem State.setThread_ctxs (s : State) (t : ThreadId) (x : Thread) : (s.setThread t x).ctxs = s.ctxs := rfl
@[simp] theorem State.setThread_poolUsed (s : State) (t : ThreadId) (x : Thread) : (s.setThread t x).poolUsed = s.poolUsed := rfl
@[simp] theorem State.setThread_spillUsed (s : State) (t : ThreadId) (x : Thread) : (s.setThread t x).spillUsed = s.spillUsed := rfl
@[simp] theorem State.setThread_tlb (s : State) (t : ThreadId) (x : Thread) : (s.setThread t x).tlb = s.tlb := rfl
@[simp] theorem State.setThread_mapMoves (s : State) (t : ThreadId) (x : Thread) : (s.setThread t x).mapMoves = s.mapMoves := rfl
@[simp] theorem State.setThread_mapGens (s : State) (t : ThreadId) (x : Thread) : (s.setThread t x).mapGens = s.mapGens := rfl
@[simp] theorem State.setThread_generations (s : State) (t : ThreadId) (x : Thread) : (s.setThread t x).generations = s.generations := rfl
@[simp] theorem State.setThread_handovers (s : State) (t : ThreadId) (x : Thread) : (s.setThread t x).handovers = s.handovers := rfl
@[simp] theorem State.setThread_performed (s : State) (t : ThreadId) (x : Thread) : (s.setThread t x).performed = s.performed := rfl
@[simp] theorem State.setThread_owners (s : State) (t : ThreadId) (x : Thread) : (s.setThread t x).owners = s.owners := rfl
@[simp] theorem State.setThread_colls (s : State) (t : ThreadId) (x : Thread) : (s.setThread t x).colls = s.colls := rfl
@[simp] theorem State.setThread_collNext (s : State) (t : ThreadId) (x : Thread) : (s.setThread t x).collNext = s.collNext := rfl
@[simp] theorem State.setThread_gangLeads (s : State) (t : ThreadId) (x : Thread) : (s.setThread t x).gangLeads = s.gangLeads := rfl
@[simp] theorem State.setThread_gangMembers (s : State) (t : ThreadId) (x : Thread) : (s.setThread t x).gangMembers = s.gangMembers := rfl
@[simp] theorem State.setThread_remoteRecords (s : State) (t : ThreadId) (x : Thread) : (s.setThread t x).remoteRecords = s.remoteRecords := rfl
@[simp] theorem State.setThread_power (s : State) (t : ThreadId) (x : Thread) : (s.setThread t x).power = s.power := rfl
@[simp] theorem State.setThread_bootErr (s : State) (t : ThreadId) (x : Thread) : (s.setThread t x).bootErr = s.bootErr := rfl
@[simp] theorem State.setThread_bootState (s : State) (t : ThreadId) (x : Thread) : (s.setThread t x).bootState = s.bootState := rfl
@[simp] theorem State.setThread_bootRecovery (s : State) (t : ThreadId) (x : Thread) : (s.setThread t x).bootRecovery = s.bootRecovery := rfl
@[simp] theorem State.setThread_bootCount (s : State) (t : ThreadId) (x : Thread) : (s.setThread t x).bootCount = s.bootCount := rfl
@[simp] theorem State.setThread_mrs (s : State) (t : ThreadId) (x : Thread) : (s.setThread t x).mrs = s.mrs := rfl
@[simp] theorem State.setThread_image (s : State) (t : ThreadId) (x : Thread) : (s.setThread t x).image = s.image := rfl
@[simp] theorem State.setThread_staged (s : State) (t : ThreadId) (x : Thread) : (s.setThread t x).staged = s.staged := rfl
@[simp] theorem State.setThread_portEn (s : State) (t : ThreadId) (x : Thread) : (s.setThread t x).portEn = s.portEn := rfl
@[simp] theorem State.setThread_mailbox (s : State) (t : ThreadId) (x : Thread) : (s.setThread t x).mailbox = s.mailbox := rfl
@[simp] theorem State.setThread_mbBlock (s : State) (t : ThreadId) (x : Thread) : (s.setThread t x).mbBlock = s.mbBlock := rfl
@[simp] theorem State.setThread_mbSeq (s : State) (t : ThreadId) (x : Thread) : (s.setThread t x).mbSeq = s.mbSeq := rfl
@[simp] theorem State.setThread_mbDone (s : State) (t : ThreadId) (x : Thread) : (s.setThread t x).mbDone = s.mbDone := rfl
@[simp] theorem State.setThread_mbCode (s : State) (t : ThreadId) (x : Thread) : (s.setThread t x).mbCode = s.mbCode := rfl
@[simp] theorem State.setThread_stopTick (s : State) (t : ThreadId) (x : Thread) : (s.setThread t x).stopTick = s.stopTick := rfl
@[simp] theorem State.setThread_stopArmed (s : State) (t : ThreadId) (x : Thread) : (s.setThread t x).stopArmed = s.stopArmed := rfl
@[simp] theorem State.setThread_stopped (s : State) (t : ThreadId) (x : Thread) : (s.setThread t x).stopped = s.stopped := rfl
@[simp] theorem State.setThread_clkMode (s : State) (t : ThreadId) (x : Thread) : (s.setThread t x).clkMode = s.clkMode := rfl
@[simp] theorem State.setThread_clkPoint (s : State) (t : ThreadId) (x : Thread) : (s.setThread t x).clkPoint = s.clkPoint := rfl
@[simp] theorem State.setThread_clkPending (s : State) (t : ThreadId) (x : Thread) : (s.setThread t x).clkPending = s.clkPending := rfl
@[simp] theorem State.setThread_lockLost (s : State) (t : ThreadId) (x : Thread) : (s.setThread t x).lockLost = s.lockLost := rfl
@[simp] theorem State.setThread_lockTick (s : State) (t : ThreadId) (x : Thread) : (s.setThread t x).lockTick = s.lockTick := rfl
@[simp] theorem State.setThread_corrected (s : State) (t : ThreadId) (x : Thread) : (s.setThread t x).corrected = s.corrected := rfl
@[simp] theorem State.setThread_critical (s : State) (t : ThreadId) (x : Thread) : (s.setThread t x).critical = s.critical := rfl
@[simp] theorem State.setThread_islandPoint (s : State) (t : ThreadId) (x : Thread) : (s.setThread t x).islandPoint = s.islandPoint := rfl
@[simp] theorem State.setThread_evBase (s : State) (t : ThreadId) (x : Thread) : (s.setThread t x).evBase = s.evBase := rfl
@[simp] theorem State.setThread_evCfg (s : State) (t : ThreadId) (x : Thread) : (s.setThread t x).evCfg = s.evCfg := rfl
@[simp] theorem State.setThread_evProd (s : State) (t : ThreadId) (x : Thread) : (s.setThread t x).evProd = s.evProd := rfl
@[simp] theorem State.setThread_evCons (s : State) (t : ThreadId) (x : Thread) : (s.setThread t x).evCons = s.evCons := rfl
@[simp] theorem State.setThread_errCounters (s : State) (t : ThreadId) (x : Thread) : (s.setThread t x).errCounters = s.errCounters := rfl
@[simp] theorem State.setThread_powerLimit (s : State) (t : ThreadId) (x : Thread) : (s.setThread t x).powerLimit = s.powerLimit := rfl
@[simp] theorem State.setThread_islandMask (s : State) (t : ThreadId) (x : Thread) : (s.setThread t x).islandMask = s.islandMask := rfl
@[simp] theorem State.setThread_cxlMasked (s : State) (t : ThreadId) (x : Thread) : (s.setThread t x).cxlMasked = s.cxlMasked := rfl
@[simp] theorem State.setThread_pkg (s : State) (t : ThreadId) (x : Thread) : (s.setThread t x).pkg = s.pkg := rfl
@[simp] theorem State.setThread_cxlPeer (s : State) (t : ThreadId) (x : Thread) : (s.setThread t x).cxlPeer = s.cxlPeer := rfl
@[simp] theorem State.setThread_cxlUp (s : State) (t : ThreadId) (x : Thread) : (s.setThread t x).cxlUp = s.cxlUp := rfl
@[simp] theorem State.setThread_cxlCap (s : State) (t : ThreadId) (x : Thread) : (s.setThread t x).cxlCap = s.cxlCap := rfl
@[simp] theorem State.setThread_hbmSize (s : State) (t : ThreadId) (x : Thread) : (s.setThread t x).hbmSize = s.hbmSize := rfl
@[simp] theorem State.setThread_cxlSizes (s : State) (t : ThreadId) (x : Thread) : (s.setThread t x).cxlSizes = s.cxlSizes := rfl
@[simp] theorem State.setThread_coresPresent (s : State) (t : ThreadId) (x : Thread) : (s.setThread t x).coresPresent = s.coresPresent := rfl
@[simp] theorem State.setThread_slicesInService (s : State) (t : ThreadId) (x : Thread) : (s.setThread t x).slicesInService = s.slicesInService := rfl
@[simp] theorem State.setThread_spillBytes (s : State) (t : ThreadId) (x : Thread) : (s.setThread t x).spillBytes = s.spillBytes := rfl
@[simp] theorem State.setThread_portsFitted (s : State) (t : ThreadId) (x : Thread) : (s.setThread t x).portsFitted = s.portsFitted := rfl
@[simp] theorem State.setThread_regBanks (s : State) (t : ThreadId) (x : Thread) : (s.setThread t x).regBanks = s.regBanks := rfl
@[simp] theorem State.setThread_routes (s : State) (t : ThreadId) (x : Thread) : (s.setThread t x).routes = s.routes := rfl
@[simp] theorem State.setThread_links (s : State) (t : ThreadId) (x : Thread) : (s.setThread t x).links = s.links := rfl
@[simp] theorem State.setThread_apBase (s : State) (t : ThreadId) (x : Thread) : (s.setThread t x).apBase = s.apBase := rfl
@[simp] theorem State.setThread_sampler0 (s : State) (t : ThreadId) (x : Thread) : (s.setThread t x).sampler0 = s.sampler0 := rfl
@[simp] theorem State.setThread_counters0 (s : State) (t : ThreadId) (x : Thread) : (s.setThread t x).counters0 = s.counters0 := rfl
@[simp] theorem State.setThread_sampled0 (s : State) (t : ThreadId) (x : Thread) : (s.setThread t x).sampled0 = s.sampled0 := rfl
@[simp] theorem State.setThread_hostFails (s : State) (t : ThreadId) (x : Thread) : (s.setThread t x).hostFails = s.hostFails := rfl
@[simp] theorem State.setThread_unsupported (s : State) (t : ThreadId) (x : Thread) : (s.setThread t x).unsupported = s.unsupported := rfl
@[simp] theorem State.setThread_answer (s : State) (t : ThreadId) (x : Thread) : (s.setThread t x).answer = s.answer := rfl

/-! ### What `State.modCore` leaves -/

@[simp] theorem State.modCore_ir (s : State) (c : Nat) (f : Core → Core) : (s.modCore c f).ir = s.ir := rfl
@[simp] theorem State.modCore_input (s : State) (c : Nat) (f : Core → Core) : (s.modCore c f).input = s.input := rfl
@[simp] theorem State.modCore_agenda (s : State) (c : Nat) (f : Core → Core) : (s.modCore c f).agenda = s.agenda := rfl
@[simp] theorem State.modCore_cur (s : State) (c : Nat) (f : Core → Core) : (s.modCore c f).cur = s.cur := rfl
@[simp] theorem State.modCore_nextId (s : State) (c : Nat) (f : Core → Core) : (s.modCore c f).nextId = s.nextId := rfl
@[simp] theorem State.modCore_issues (s : State) (c : Nat) (f : Core → Core) : (s.modCore c f).issues = s.issues := rfl
@[simp] theorem State.modCore_freeCtr (s : State) (c : Nat) (f : Core → Core) : (s.modCore c f).freeCtr = s.freeCtr := rfl
@[simp] theorem State.modCore_tick (s : State) (c : Nat) (f : Core → Core) : (s.modCore c f).tick = s.tick := rfl
@[simp] theorem State.modCore_mem (s : State) (c : Nat) (f : Core → Core) : (s.modCore c f).mem = s.mem := rfl
@[simp] theorem State.modCore_hostMem (s : State) (c : Nat) (f : Core → Core) : (s.modCore c f).hostMem = s.hostMem := rfl
@[simp] theorem State.modCore_overwritten (s : State) (c : Nat) (f : Core → Core) : (s.modCore c f).overwritten = s.overwritten := rfl
@[simp] theorem State.modCore_moment (s : State) (c : Nat) (f : Core → Core) : (s.modCore c f).moment = s.moment := rfl
@[simp] theorem State.modCore_acquired (s : State) (c : Nat) (f : Core → Core) : (s.modCore c f).acquired = s.acquired := rfl
@[simp] theorem State.modCore_released (s : State) (c : Nat) (f : Core → Core) : (s.modCore c f).released = s.released := rfl
@[simp] theorem State.modCore_acting (s : State) (c : Nat) (f : Core → Core) : (s.modCore c f).acting = s.acting := rfl
@[simp] theorem State.modCore_irqs (s : State) (c : Nat) (f : Core → Core) : (s.modCore c f).irqs = s.irqs := rfl
@[simp] theorem State.modCore_outbox (s : State) (c : Nat) (f : Core → Core) : (s.modCore c f).outbox = s.outbox := rfl
@[simp] theorem State.modCore_wgs (s : State) (c : Nat) (f : Core → Core) : (s.modCore c f).wgs = s.wgs := rfl
@[simp] theorem State.modCore_tambours (s : State) (c : Nat) (f : Core → Core) : (s.modCore c f).tambours = s.tambours := rfl
@[simp] theorem State.modCore_graphs (s : State) (c : Nat) (f : Core → Core) : (s.modCore c f).graphs = s.graphs := rfl
@[simp] theorem State.modCore_queues (s : State) (c : Nat) (f : Core → Core) : (s.modCore c f).queues = s.queues := rfl
@[simp] theorem State.modCore_services (s : State) (c : Nat) (f : Core → Core) : (s.modCore c f).services = s.services := rfl
@[simp] theorem State.modCore_ctxs (s : State) (c : Nat) (f : Core → Core) : (s.modCore c f).ctxs = s.ctxs := rfl
@[simp] theorem State.modCore_poolUsed (s : State) (c : Nat) (f : Core → Core) : (s.modCore c f).poolUsed = s.poolUsed := rfl
@[simp] theorem State.modCore_spillUsed (s : State) (c : Nat) (f : Core → Core) : (s.modCore c f).spillUsed = s.spillUsed := rfl
@[simp] theorem State.modCore_tlb (s : State) (c : Nat) (f : Core → Core) : (s.modCore c f).tlb = s.tlb := rfl
@[simp] theorem State.modCore_mapMoves (s : State) (c : Nat) (f : Core → Core) : (s.modCore c f).mapMoves = s.mapMoves := rfl
@[simp] theorem State.modCore_mapGens (s : State) (c : Nat) (f : Core → Core) : (s.modCore c f).mapGens = s.mapGens := rfl
@[simp] theorem State.modCore_generations (s : State) (c : Nat) (f : Core → Core) : (s.modCore c f).generations = s.generations := rfl
@[simp] theorem State.modCore_handovers (s : State) (c : Nat) (f : Core → Core) : (s.modCore c f).handovers = s.handovers := rfl
@[simp] theorem State.modCore_performed (s : State) (c : Nat) (f : Core → Core) : (s.modCore c f).performed = s.performed := rfl
@[simp] theorem State.modCore_owners (s : State) (c : Nat) (f : Core → Core) : (s.modCore c f).owners = s.owners := rfl
@[simp] theorem State.modCore_colls (s : State) (c : Nat) (f : Core → Core) : (s.modCore c f).colls = s.colls := rfl
@[simp] theorem State.modCore_collNext (s : State) (c : Nat) (f : Core → Core) : (s.modCore c f).collNext = s.collNext := rfl
@[simp] theorem State.modCore_gangLeads (s : State) (c : Nat) (f : Core → Core) : (s.modCore c f).gangLeads = s.gangLeads := rfl
@[simp] theorem State.modCore_gangMembers (s : State) (c : Nat) (f : Core → Core) : (s.modCore c f).gangMembers = s.gangMembers := rfl
@[simp] theorem State.modCore_remoteRecords (s : State) (c : Nat) (f : Core → Core) : (s.modCore c f).remoteRecords = s.remoteRecords := rfl
@[simp] theorem State.modCore_power (s : State) (c : Nat) (f : Core → Core) : (s.modCore c f).power = s.power := rfl
@[simp] theorem State.modCore_bootErr (s : State) (c : Nat) (f : Core → Core) : (s.modCore c f).bootErr = s.bootErr := rfl
@[simp] theorem State.modCore_bootState (s : State) (c : Nat) (f : Core → Core) : (s.modCore c f).bootState = s.bootState := rfl
@[simp] theorem State.modCore_bootRecovery (s : State) (c : Nat) (f : Core → Core) : (s.modCore c f).bootRecovery = s.bootRecovery := rfl
@[simp] theorem State.modCore_bootCount (s : State) (c : Nat) (f : Core → Core) : (s.modCore c f).bootCount = s.bootCount := rfl
@[simp] theorem State.modCore_mrs (s : State) (c : Nat) (f : Core → Core) : (s.modCore c f).mrs = s.mrs := rfl
@[simp] theorem State.modCore_image (s : State) (c : Nat) (f : Core → Core) : (s.modCore c f).image = s.image := rfl
@[simp] theorem State.modCore_staged (s : State) (c : Nat) (f : Core → Core) : (s.modCore c f).staged = s.staged := rfl
@[simp] theorem State.modCore_portEn (s : State) (c : Nat) (f : Core → Core) : (s.modCore c f).portEn = s.portEn := rfl
@[simp] theorem State.modCore_mailbox (s : State) (c : Nat) (f : Core → Core) : (s.modCore c f).mailbox = s.mailbox := rfl
@[simp] theorem State.modCore_mbBlock (s : State) (c : Nat) (f : Core → Core) : (s.modCore c f).mbBlock = s.mbBlock := rfl
@[simp] theorem State.modCore_mbSeq (s : State) (c : Nat) (f : Core → Core) : (s.modCore c f).mbSeq = s.mbSeq := rfl
@[simp] theorem State.modCore_mbDone (s : State) (c : Nat) (f : Core → Core) : (s.modCore c f).mbDone = s.mbDone := rfl
@[simp] theorem State.modCore_mbCode (s : State) (c : Nat) (f : Core → Core) : (s.modCore c f).mbCode = s.mbCode := rfl
@[simp] theorem State.modCore_stopTick (s : State) (c : Nat) (f : Core → Core) : (s.modCore c f).stopTick = s.stopTick := rfl
@[simp] theorem State.modCore_stopArmed (s : State) (c : Nat) (f : Core → Core) : (s.modCore c f).stopArmed = s.stopArmed := rfl
@[simp] theorem State.modCore_stopped (s : State) (c : Nat) (f : Core → Core) : (s.modCore c f).stopped = s.stopped := rfl
@[simp] theorem State.modCore_clkMode (s : State) (c : Nat) (f : Core → Core) : (s.modCore c f).clkMode = s.clkMode := rfl
@[simp] theorem State.modCore_clkPoint (s : State) (c : Nat) (f : Core → Core) : (s.modCore c f).clkPoint = s.clkPoint := rfl
@[simp] theorem State.modCore_clkPending (s : State) (c : Nat) (f : Core → Core) : (s.modCore c f).clkPending = s.clkPending := rfl
@[simp] theorem State.modCore_lockLost (s : State) (c : Nat) (f : Core → Core) : (s.modCore c f).lockLost = s.lockLost := rfl
@[simp] theorem State.modCore_lockTick (s : State) (c : Nat) (f : Core → Core) : (s.modCore c f).lockTick = s.lockTick := rfl
@[simp] theorem State.modCore_corrected (s : State) (c : Nat) (f : Core → Core) : (s.modCore c f).corrected = s.corrected := rfl
@[simp] theorem State.modCore_critical (s : State) (c : Nat) (f : Core → Core) : (s.modCore c f).critical = s.critical := rfl
@[simp] theorem State.modCore_islandPoint (s : State) (c : Nat) (f : Core → Core) : (s.modCore c f).islandPoint = s.islandPoint := rfl
@[simp] theorem State.modCore_evBase (s : State) (c : Nat) (f : Core → Core) : (s.modCore c f).evBase = s.evBase := rfl
@[simp] theorem State.modCore_evCfg (s : State) (c : Nat) (f : Core → Core) : (s.modCore c f).evCfg = s.evCfg := rfl
@[simp] theorem State.modCore_evProd (s : State) (c : Nat) (f : Core → Core) : (s.modCore c f).evProd = s.evProd := rfl
@[simp] theorem State.modCore_evCons (s : State) (c : Nat) (f : Core → Core) : (s.modCore c f).evCons = s.evCons := rfl
@[simp] theorem State.modCore_errCounters (s : State) (c : Nat) (f : Core → Core) : (s.modCore c f).errCounters = s.errCounters := rfl
@[simp] theorem State.modCore_powerLimit (s : State) (c : Nat) (f : Core → Core) : (s.modCore c f).powerLimit = s.powerLimit := rfl
@[simp] theorem State.modCore_islandMask (s : State) (c : Nat) (f : Core → Core) : (s.modCore c f).islandMask = s.islandMask := rfl
@[simp] theorem State.modCore_cxlMasked (s : State) (c : Nat) (f : Core → Core) : (s.modCore c f).cxlMasked = s.cxlMasked := rfl
@[simp] theorem State.modCore_pkg (s : State) (c : Nat) (f : Core → Core) : (s.modCore c f).pkg = s.pkg := rfl
@[simp] theorem State.modCore_cxlPeer (s : State) (c : Nat) (f : Core → Core) : (s.modCore c f).cxlPeer = s.cxlPeer := rfl
@[simp] theorem State.modCore_cxlUp (s : State) (c : Nat) (f : Core → Core) : (s.modCore c f).cxlUp = s.cxlUp := rfl
@[simp] theorem State.modCore_cxlCap (s : State) (c : Nat) (f : Core → Core) : (s.modCore c f).cxlCap = s.cxlCap := rfl
@[simp] theorem State.modCore_hbmSize (s : State) (c : Nat) (f : Core → Core) : (s.modCore c f).hbmSize = s.hbmSize := rfl
@[simp] theorem State.modCore_cxlSizes (s : State) (c : Nat) (f : Core → Core) : (s.modCore c f).cxlSizes = s.cxlSizes := rfl
@[simp] theorem State.modCore_coresPresent (s : State) (c : Nat) (f : Core → Core) : (s.modCore c f).coresPresent = s.coresPresent := rfl
@[simp] theorem State.modCore_slicesInService (s : State) (c : Nat) (f : Core → Core) : (s.modCore c f).slicesInService = s.slicesInService := rfl
@[simp] theorem State.modCore_spillBytes (s : State) (c : Nat) (f : Core → Core) : (s.modCore c f).spillBytes = s.spillBytes := rfl
@[simp] theorem State.modCore_portsFitted (s : State) (c : Nat) (f : Core → Core) : (s.modCore c f).portsFitted = s.portsFitted := rfl
@[simp] theorem State.modCore_regBanks (s : State) (c : Nat) (f : Core → Core) : (s.modCore c f).regBanks = s.regBanks := rfl
@[simp] theorem State.modCore_routes (s : State) (c : Nat) (f : Core → Core) : (s.modCore c f).routes = s.routes := rfl
@[simp] theorem State.modCore_links (s : State) (c : Nat) (f : Core → Core) : (s.modCore c f).links = s.links := rfl
@[simp] theorem State.modCore_apBase (s : State) (c : Nat) (f : Core → Core) : (s.modCore c f).apBase = s.apBase := rfl
@[simp] theorem State.modCore_sampler0 (s : State) (c : Nat) (f : Core → Core) : (s.modCore c f).sampler0 = s.sampler0 := rfl
@[simp] theorem State.modCore_counters0 (s : State) (c : Nat) (f : Core → Core) : (s.modCore c f).counters0 = s.counters0 := rfl
@[simp] theorem State.modCore_sampled0 (s : State) (c : Nat) (f : Core → Core) : (s.modCore c f).sampled0 = s.sampled0 := rfl
@[simp] theorem State.modCore_hostFails (s : State) (c : Nat) (f : Core → Core) : (s.modCore c f).hostFails = s.hostFails := rfl
@[simp] theorem State.modCore_unsupported (s : State) (c : Nat) (f : Core → Core) : (s.modCore c f).unsupported = s.unsupported := rfl
@[simp] theorem State.modCore_answer (s : State) (c : Nat) (f : Core → Core) : (s.modCore c f).answer = s.answer := rfl

/-! ### What `State.writeScalar` leaves -/

@[simp] theorem State.writeScalar_ir (s : State) (w g n : Nat) (v : Reg) : (s.writeScalar w g n v).ir = s.ir := rfl
@[simp] theorem State.writeScalar_input (s : State) (w g n : Nat) (v : Reg) : (s.writeScalar w g n v).input = s.input := rfl
@[simp] theorem State.writeScalar_agenda (s : State) (w g n : Nat) (v : Reg) : (s.writeScalar w g n v).agenda = s.agenda := rfl
@[simp] theorem State.writeScalar_cur (s : State) (w g n : Nat) (v : Reg) : (s.writeScalar w g n v).cur = s.cur := rfl
@[simp] theorem State.writeScalar_nextId (s : State) (w g n : Nat) (v : Reg) : (s.writeScalar w g n v).nextId = s.nextId := rfl
@[simp] theorem State.writeScalar_issues (s : State) (w g n : Nat) (v : Reg) : (s.writeScalar w g n v).issues = s.issues := rfl
@[simp] theorem State.writeScalar_freeCtr (s : State) (w g n : Nat) (v : Reg) : (s.writeScalar w g n v).freeCtr = s.freeCtr := rfl
@[simp] theorem State.writeScalar_tick (s : State) (w g n : Nat) (v : Reg) : (s.writeScalar w g n v).tick = s.tick := rfl
@[simp] theorem State.writeScalar_mem (s : State) (w g n : Nat) (v : Reg) : (s.writeScalar w g n v).mem = s.mem := rfl
@[simp] theorem State.writeScalar_hostMem (s : State) (w g n : Nat) (v : Reg) : (s.writeScalar w g n v).hostMem = s.hostMem := rfl
@[simp] theorem State.writeScalar_overwritten (s : State) (w g n : Nat) (v : Reg) : (s.writeScalar w g n v).overwritten = s.overwritten := rfl
@[simp] theorem State.writeScalar_moment (s : State) (w g n : Nat) (v : Reg) : (s.writeScalar w g n v).moment = s.moment := rfl
@[simp] theorem State.writeScalar_acquired (s : State) (w g n : Nat) (v : Reg) : (s.writeScalar w g n v).acquired = s.acquired := rfl
@[simp] theorem State.writeScalar_released (s : State) (w g n : Nat) (v : Reg) : (s.writeScalar w g n v).released = s.released := rfl
@[simp] theorem State.writeScalar_acting (s : State) (w g n : Nat) (v : Reg) : (s.writeScalar w g n v).acting = s.acting := rfl
@[simp] theorem State.writeScalar_irqs (s : State) (w g n : Nat) (v : Reg) : (s.writeScalar w g n v).irqs = s.irqs := rfl
@[simp] theorem State.writeScalar_outbox (s : State) (w g n : Nat) (v : Reg) : (s.writeScalar w g n v).outbox = s.outbox := rfl
@[simp] theorem State.writeScalar_cores (s : State) (w g n : Nat) (v : Reg) : (s.writeScalar w g n v).cores = s.cores := rfl
@[simp] theorem State.writeScalar_tambours (s : State) (w g n : Nat) (v : Reg) : (s.writeScalar w g n v).tambours = s.tambours := rfl
@[simp] theorem State.writeScalar_graphs (s : State) (w g n : Nat) (v : Reg) : (s.writeScalar w g n v).graphs = s.graphs := rfl
@[simp] theorem State.writeScalar_queues (s : State) (w g n : Nat) (v : Reg) : (s.writeScalar w g n v).queues = s.queues := rfl
@[simp] theorem State.writeScalar_services (s : State) (w g n : Nat) (v : Reg) : (s.writeScalar w g n v).services = s.services := rfl
@[simp] theorem State.writeScalar_ctxs (s : State) (w g n : Nat) (v : Reg) : (s.writeScalar w g n v).ctxs = s.ctxs := rfl
@[simp] theorem State.writeScalar_poolUsed (s : State) (w g n : Nat) (v : Reg) : (s.writeScalar w g n v).poolUsed = s.poolUsed := rfl
@[simp] theorem State.writeScalar_spillUsed (s : State) (w g n : Nat) (v : Reg) : (s.writeScalar w g n v).spillUsed = s.spillUsed := rfl
@[simp] theorem State.writeScalar_tlb (s : State) (w g n : Nat) (v : Reg) : (s.writeScalar w g n v).tlb = s.tlb := rfl
@[simp] theorem State.writeScalar_mapMoves (s : State) (w g n : Nat) (v : Reg) : (s.writeScalar w g n v).mapMoves = s.mapMoves := rfl
@[simp] theorem State.writeScalar_mapGens (s : State) (w g n : Nat) (v : Reg) : (s.writeScalar w g n v).mapGens = s.mapGens := rfl
@[simp] theorem State.writeScalar_generations (s : State) (w g n : Nat) (v : Reg) : (s.writeScalar w g n v).generations = s.generations := rfl
@[simp] theorem State.writeScalar_handovers (s : State) (w g n : Nat) (v : Reg) : (s.writeScalar w g n v).handovers = s.handovers := rfl
@[simp] theorem State.writeScalar_performed (s : State) (w g n : Nat) (v : Reg) : (s.writeScalar w g n v).performed = s.performed := rfl
@[simp] theorem State.writeScalar_owners (s : State) (w g n : Nat) (v : Reg) : (s.writeScalar w g n v).owners = s.owners := rfl
@[simp] theorem State.writeScalar_colls (s : State) (w g n : Nat) (v : Reg) : (s.writeScalar w g n v).colls = s.colls := rfl
@[simp] theorem State.writeScalar_collNext (s : State) (w g n : Nat) (v : Reg) : (s.writeScalar w g n v).collNext = s.collNext := rfl
@[simp] theorem State.writeScalar_gangLeads (s : State) (w g n : Nat) (v : Reg) : (s.writeScalar w g n v).gangLeads = s.gangLeads := rfl
@[simp] theorem State.writeScalar_gangMembers (s : State) (w g n : Nat) (v : Reg) : (s.writeScalar w g n v).gangMembers = s.gangMembers := rfl
@[simp] theorem State.writeScalar_remoteRecords (s : State) (w g n : Nat) (v : Reg) : (s.writeScalar w g n v).remoteRecords = s.remoteRecords := rfl
@[simp] theorem State.writeScalar_power (s : State) (w g n : Nat) (v : Reg) : (s.writeScalar w g n v).power = s.power := rfl
@[simp] theorem State.writeScalar_bootErr (s : State) (w g n : Nat) (v : Reg) : (s.writeScalar w g n v).bootErr = s.bootErr := rfl
@[simp] theorem State.writeScalar_bootState (s : State) (w g n : Nat) (v : Reg) : (s.writeScalar w g n v).bootState = s.bootState := rfl
@[simp] theorem State.writeScalar_bootRecovery (s : State) (w g n : Nat) (v : Reg) : (s.writeScalar w g n v).bootRecovery = s.bootRecovery := rfl
@[simp] theorem State.writeScalar_bootCount (s : State) (w g n : Nat) (v : Reg) : (s.writeScalar w g n v).bootCount = s.bootCount := rfl
@[simp] theorem State.writeScalar_mrs (s : State) (w g n : Nat) (v : Reg) : (s.writeScalar w g n v).mrs = s.mrs := rfl
@[simp] theorem State.writeScalar_image (s : State) (w g n : Nat) (v : Reg) : (s.writeScalar w g n v).image = s.image := rfl
@[simp] theorem State.writeScalar_staged (s : State) (w g n : Nat) (v : Reg) : (s.writeScalar w g n v).staged = s.staged := rfl
@[simp] theorem State.writeScalar_portEn (s : State) (w g n : Nat) (v : Reg) : (s.writeScalar w g n v).portEn = s.portEn := rfl
@[simp] theorem State.writeScalar_mailbox (s : State) (w g n : Nat) (v : Reg) : (s.writeScalar w g n v).mailbox = s.mailbox := rfl
@[simp] theorem State.writeScalar_mbBlock (s : State) (w g n : Nat) (v : Reg) : (s.writeScalar w g n v).mbBlock = s.mbBlock := rfl
@[simp] theorem State.writeScalar_mbSeq (s : State) (w g n : Nat) (v : Reg) : (s.writeScalar w g n v).mbSeq = s.mbSeq := rfl
@[simp] theorem State.writeScalar_mbDone (s : State) (w g n : Nat) (v : Reg) : (s.writeScalar w g n v).mbDone = s.mbDone := rfl
@[simp] theorem State.writeScalar_mbCode (s : State) (w g n : Nat) (v : Reg) : (s.writeScalar w g n v).mbCode = s.mbCode := rfl
@[simp] theorem State.writeScalar_stopTick (s : State) (w g n : Nat) (v : Reg) : (s.writeScalar w g n v).stopTick = s.stopTick := rfl
@[simp] theorem State.writeScalar_stopArmed (s : State) (w g n : Nat) (v : Reg) : (s.writeScalar w g n v).stopArmed = s.stopArmed := rfl
@[simp] theorem State.writeScalar_stopped (s : State) (w g n : Nat) (v : Reg) : (s.writeScalar w g n v).stopped = s.stopped := rfl
@[simp] theorem State.writeScalar_clkMode (s : State) (w g n : Nat) (v : Reg) : (s.writeScalar w g n v).clkMode = s.clkMode := rfl
@[simp] theorem State.writeScalar_clkPoint (s : State) (w g n : Nat) (v : Reg) : (s.writeScalar w g n v).clkPoint = s.clkPoint := rfl
@[simp] theorem State.writeScalar_clkPending (s : State) (w g n : Nat) (v : Reg) : (s.writeScalar w g n v).clkPending = s.clkPending := rfl
@[simp] theorem State.writeScalar_lockLost (s : State) (w g n : Nat) (v : Reg) : (s.writeScalar w g n v).lockLost = s.lockLost := rfl
@[simp] theorem State.writeScalar_lockTick (s : State) (w g n : Nat) (v : Reg) : (s.writeScalar w g n v).lockTick = s.lockTick := rfl
@[simp] theorem State.writeScalar_corrected (s : State) (w g n : Nat) (v : Reg) : (s.writeScalar w g n v).corrected = s.corrected := rfl
@[simp] theorem State.writeScalar_critical (s : State) (w g n : Nat) (v : Reg) : (s.writeScalar w g n v).critical = s.critical := rfl
@[simp] theorem State.writeScalar_islandPoint (s : State) (w g n : Nat) (v : Reg) : (s.writeScalar w g n v).islandPoint = s.islandPoint := rfl
@[simp] theorem State.writeScalar_evBase (s : State) (w g n : Nat) (v : Reg) : (s.writeScalar w g n v).evBase = s.evBase := rfl
@[simp] theorem State.writeScalar_evCfg (s : State) (w g n : Nat) (v : Reg) : (s.writeScalar w g n v).evCfg = s.evCfg := rfl
@[simp] theorem State.writeScalar_evProd (s : State) (w g n : Nat) (v : Reg) : (s.writeScalar w g n v).evProd = s.evProd := rfl
@[simp] theorem State.writeScalar_evCons (s : State) (w g n : Nat) (v : Reg) : (s.writeScalar w g n v).evCons = s.evCons := rfl
@[simp] theorem State.writeScalar_errCounters (s : State) (w g n : Nat) (v : Reg) : (s.writeScalar w g n v).errCounters = s.errCounters := rfl
@[simp] theorem State.writeScalar_powerLimit (s : State) (w g n : Nat) (v : Reg) : (s.writeScalar w g n v).powerLimit = s.powerLimit := rfl
@[simp] theorem State.writeScalar_islandMask (s : State) (w g n : Nat) (v : Reg) : (s.writeScalar w g n v).islandMask = s.islandMask := rfl
@[simp] theorem State.writeScalar_cxlMasked (s : State) (w g n : Nat) (v : Reg) : (s.writeScalar w g n v).cxlMasked = s.cxlMasked := rfl
@[simp] theorem State.writeScalar_pkg (s : State) (w g n : Nat) (v : Reg) : (s.writeScalar w g n v).pkg = s.pkg := rfl
@[simp] theorem State.writeScalar_cxlPeer (s : State) (w g n : Nat) (v : Reg) : (s.writeScalar w g n v).cxlPeer = s.cxlPeer := rfl
@[simp] theorem State.writeScalar_cxlUp (s : State) (w g n : Nat) (v : Reg) : (s.writeScalar w g n v).cxlUp = s.cxlUp := rfl
@[simp] theorem State.writeScalar_cxlCap (s : State) (w g n : Nat) (v : Reg) : (s.writeScalar w g n v).cxlCap = s.cxlCap := rfl
@[simp] theorem State.writeScalar_hbmSize (s : State) (w g n : Nat) (v : Reg) : (s.writeScalar w g n v).hbmSize = s.hbmSize := rfl
@[simp] theorem State.writeScalar_cxlSizes (s : State) (w g n : Nat) (v : Reg) : (s.writeScalar w g n v).cxlSizes = s.cxlSizes := rfl
@[simp] theorem State.writeScalar_coresPresent (s : State) (w g n : Nat) (v : Reg) : (s.writeScalar w g n v).coresPresent = s.coresPresent := rfl
@[simp] theorem State.writeScalar_slicesInService (s : State) (w g n : Nat) (v : Reg) : (s.writeScalar w g n v).slicesInService = s.slicesInService := rfl
@[simp] theorem State.writeScalar_spillBytes (s : State) (w g n : Nat) (v : Reg) : (s.writeScalar w g n v).spillBytes = s.spillBytes := rfl
@[simp] theorem State.writeScalar_portsFitted (s : State) (w g n : Nat) (v : Reg) : (s.writeScalar w g n v).portsFitted = s.portsFitted := rfl
@[simp] theorem State.writeScalar_regBanks (s : State) (w g n : Nat) (v : Reg) : (s.writeScalar w g n v).regBanks = s.regBanks := rfl
@[simp] theorem State.writeScalar_routes (s : State) (w g n : Nat) (v : Reg) : (s.writeScalar w g n v).routes = s.routes := rfl
@[simp] theorem State.writeScalar_links (s : State) (w g n : Nat) (v : Reg) : (s.writeScalar w g n v).links = s.links := rfl
@[simp] theorem State.writeScalar_apBase (s : State) (w g n : Nat) (v : Reg) : (s.writeScalar w g n v).apBase = s.apBase := rfl
@[simp] theorem State.writeScalar_sampler0 (s : State) (w g n : Nat) (v : Reg) : (s.writeScalar w g n v).sampler0 = s.sampler0 := rfl
@[simp] theorem State.writeScalar_counters0 (s : State) (w g n : Nat) (v : Reg) : (s.writeScalar w g n v).counters0 = s.counters0 := rfl
@[simp] theorem State.writeScalar_sampled0 (s : State) (w g n : Nat) (v : Reg) : (s.writeScalar w g n v).sampled0 = s.sampled0 := rfl
@[simp] theorem State.writeScalar_hostFails (s : State) (w g n : Nat) (v : Reg) : (s.writeScalar w g n v).hostFails = s.hostFails := rfl
@[simp] theorem State.writeScalar_unsupported (s : State) (w g n : Nat) (v : Reg) : (s.writeScalar w g n v).unsupported = s.unsupported := rfl
@[simp] theorem State.writeScalar_answer (s : State) (w g n : Nat) (v : Reg) : (s.writeScalar w g n v).answer = s.answer := rfl

/-! ### What `State.groupSteps` leaves -/

@[simp] theorem State.groupSteps_ir (s : State) (w g : Nat) : (s.groupSteps w g).ir = s.ir := rfl
@[simp] theorem State.groupSteps_input (s : State) (w g : Nat) : (s.groupSteps w g).input = s.input := rfl
@[simp] theorem State.groupSteps_agenda (s : State) (w g : Nat) : (s.groupSteps w g).agenda = s.agenda := rfl
@[simp] theorem State.groupSteps_cur (s : State) (w g : Nat) : (s.groupSteps w g).cur = s.cur := rfl
@[simp] theorem State.groupSteps_nextId (s : State) (w g : Nat) : (s.groupSteps w g).nextId = s.nextId := rfl
@[simp] theorem State.groupSteps_issues (s : State) (w g : Nat) : (s.groupSteps w g).issues = s.issues := rfl
@[simp] theorem State.groupSteps_freeCtr (s : State) (w g : Nat) : (s.groupSteps w g).freeCtr = s.freeCtr := rfl
@[simp] theorem State.groupSteps_tick (s : State) (w g : Nat) : (s.groupSteps w g).tick = s.tick := rfl
@[simp] theorem State.groupSteps_mem (s : State) (w g : Nat) : (s.groupSteps w g).mem = s.mem := rfl
@[simp] theorem State.groupSteps_hostMem (s : State) (w g : Nat) : (s.groupSteps w g).hostMem = s.hostMem := rfl
@[simp] theorem State.groupSteps_overwritten (s : State) (w g : Nat) : (s.groupSteps w g).overwritten = s.overwritten := rfl
@[simp] theorem State.groupSteps_moment (s : State) (w g : Nat) : (s.groupSteps w g).moment = s.moment := rfl
@[simp] theorem State.groupSteps_acquired (s : State) (w g : Nat) : (s.groupSteps w g).acquired = s.acquired := rfl
@[simp] theorem State.groupSteps_released (s : State) (w g : Nat) : (s.groupSteps w g).released = s.released := rfl
@[simp] theorem State.groupSteps_acting (s : State) (w g : Nat) : (s.groupSteps w g).acting = s.acting := rfl
@[simp] theorem State.groupSteps_irqs (s : State) (w g : Nat) : (s.groupSteps w g).irqs = s.irqs := rfl
@[simp] theorem State.groupSteps_outbox (s : State) (w g : Nat) : (s.groupSteps w g).outbox = s.outbox := rfl
@[simp] theorem State.groupSteps_cores (s : State) (w g : Nat) : (s.groupSteps w g).cores = s.cores := rfl
@[simp] theorem State.groupSteps_tambours (s : State) (w g : Nat) : (s.groupSteps w g).tambours = s.tambours := rfl
@[simp] theorem State.groupSteps_graphs (s : State) (w g : Nat) : (s.groupSteps w g).graphs = s.graphs := rfl
@[simp] theorem State.groupSteps_queues (s : State) (w g : Nat) : (s.groupSteps w g).queues = s.queues := rfl
@[simp] theorem State.groupSteps_services (s : State) (w g : Nat) : (s.groupSteps w g).services = s.services := rfl
@[simp] theorem State.groupSteps_ctxs (s : State) (w g : Nat) : (s.groupSteps w g).ctxs = s.ctxs := rfl
@[simp] theorem State.groupSteps_poolUsed (s : State) (w g : Nat) : (s.groupSteps w g).poolUsed = s.poolUsed := rfl
@[simp] theorem State.groupSteps_spillUsed (s : State) (w g : Nat) : (s.groupSteps w g).spillUsed = s.spillUsed := rfl
@[simp] theorem State.groupSteps_tlb (s : State) (w g : Nat) : (s.groupSteps w g).tlb = s.tlb := rfl
@[simp] theorem State.groupSteps_mapMoves (s : State) (w g : Nat) : (s.groupSteps w g).mapMoves = s.mapMoves := rfl
@[simp] theorem State.groupSteps_mapGens (s : State) (w g : Nat) : (s.groupSteps w g).mapGens = s.mapGens := rfl
@[simp] theorem State.groupSteps_generations (s : State) (w g : Nat) : (s.groupSteps w g).generations = s.generations := rfl
@[simp] theorem State.groupSteps_handovers (s : State) (w g : Nat) : (s.groupSteps w g).handovers = s.handovers := rfl
@[simp] theorem State.groupSteps_performed (s : State) (w g : Nat) : (s.groupSteps w g).performed = s.performed := rfl
@[simp] theorem State.groupSteps_owners (s : State) (w g : Nat) : (s.groupSteps w g).owners = s.owners := rfl
@[simp] theorem State.groupSteps_colls (s : State) (w g : Nat) : (s.groupSteps w g).colls = s.colls := rfl
@[simp] theorem State.groupSteps_collNext (s : State) (w g : Nat) : (s.groupSteps w g).collNext = s.collNext := rfl
@[simp] theorem State.groupSteps_gangLeads (s : State) (w g : Nat) : (s.groupSteps w g).gangLeads = s.gangLeads := rfl
@[simp] theorem State.groupSteps_gangMembers (s : State) (w g : Nat) : (s.groupSteps w g).gangMembers = s.gangMembers := rfl
@[simp] theorem State.groupSteps_remoteRecords (s : State) (w g : Nat) : (s.groupSteps w g).remoteRecords = s.remoteRecords := rfl
@[simp] theorem State.groupSteps_power (s : State) (w g : Nat) : (s.groupSteps w g).power = s.power := rfl
@[simp] theorem State.groupSteps_bootErr (s : State) (w g : Nat) : (s.groupSteps w g).bootErr = s.bootErr := rfl
@[simp] theorem State.groupSteps_bootState (s : State) (w g : Nat) : (s.groupSteps w g).bootState = s.bootState := rfl
@[simp] theorem State.groupSteps_bootRecovery (s : State) (w g : Nat) : (s.groupSteps w g).bootRecovery = s.bootRecovery := rfl
@[simp] theorem State.groupSteps_bootCount (s : State) (w g : Nat) : (s.groupSteps w g).bootCount = s.bootCount := rfl
@[simp] theorem State.groupSteps_mrs (s : State) (w g : Nat) : (s.groupSteps w g).mrs = s.mrs := rfl
@[simp] theorem State.groupSteps_image (s : State) (w g : Nat) : (s.groupSteps w g).image = s.image := rfl
@[simp] theorem State.groupSteps_staged (s : State) (w g : Nat) : (s.groupSteps w g).staged = s.staged := rfl
@[simp] theorem State.groupSteps_portEn (s : State) (w g : Nat) : (s.groupSteps w g).portEn = s.portEn := rfl
@[simp] theorem State.groupSteps_mailbox (s : State) (w g : Nat) : (s.groupSteps w g).mailbox = s.mailbox := rfl
@[simp] theorem State.groupSteps_mbBlock (s : State) (w g : Nat) : (s.groupSteps w g).mbBlock = s.mbBlock := rfl
@[simp] theorem State.groupSteps_mbSeq (s : State) (w g : Nat) : (s.groupSteps w g).mbSeq = s.mbSeq := rfl
@[simp] theorem State.groupSteps_mbDone (s : State) (w g : Nat) : (s.groupSteps w g).mbDone = s.mbDone := rfl
@[simp] theorem State.groupSteps_mbCode (s : State) (w g : Nat) : (s.groupSteps w g).mbCode = s.mbCode := rfl
@[simp] theorem State.groupSteps_stopTick (s : State) (w g : Nat) : (s.groupSteps w g).stopTick = s.stopTick := rfl
@[simp] theorem State.groupSteps_stopArmed (s : State) (w g : Nat) : (s.groupSteps w g).stopArmed = s.stopArmed := rfl
@[simp] theorem State.groupSteps_stopped (s : State) (w g : Nat) : (s.groupSteps w g).stopped = s.stopped := rfl
@[simp] theorem State.groupSteps_clkMode (s : State) (w g : Nat) : (s.groupSteps w g).clkMode = s.clkMode := rfl
@[simp] theorem State.groupSteps_clkPoint (s : State) (w g : Nat) : (s.groupSteps w g).clkPoint = s.clkPoint := rfl
@[simp] theorem State.groupSteps_clkPending (s : State) (w g : Nat) : (s.groupSteps w g).clkPending = s.clkPending := rfl
@[simp] theorem State.groupSteps_lockLost (s : State) (w g : Nat) : (s.groupSteps w g).lockLost = s.lockLost := rfl
@[simp] theorem State.groupSteps_lockTick (s : State) (w g : Nat) : (s.groupSteps w g).lockTick = s.lockTick := rfl
@[simp] theorem State.groupSteps_corrected (s : State) (w g : Nat) : (s.groupSteps w g).corrected = s.corrected := rfl
@[simp] theorem State.groupSteps_critical (s : State) (w g : Nat) : (s.groupSteps w g).critical = s.critical := rfl
@[simp] theorem State.groupSteps_islandPoint (s : State) (w g : Nat) : (s.groupSteps w g).islandPoint = s.islandPoint := rfl
@[simp] theorem State.groupSteps_evBase (s : State) (w g : Nat) : (s.groupSteps w g).evBase = s.evBase := rfl
@[simp] theorem State.groupSteps_evCfg (s : State) (w g : Nat) : (s.groupSteps w g).evCfg = s.evCfg := rfl
@[simp] theorem State.groupSteps_evProd (s : State) (w g : Nat) : (s.groupSteps w g).evProd = s.evProd := rfl
@[simp] theorem State.groupSteps_evCons (s : State) (w g : Nat) : (s.groupSteps w g).evCons = s.evCons := rfl
@[simp] theorem State.groupSteps_errCounters (s : State) (w g : Nat) : (s.groupSteps w g).errCounters = s.errCounters := rfl
@[simp] theorem State.groupSteps_powerLimit (s : State) (w g : Nat) : (s.groupSteps w g).powerLimit = s.powerLimit := rfl
@[simp] theorem State.groupSteps_islandMask (s : State) (w g : Nat) : (s.groupSteps w g).islandMask = s.islandMask := rfl
@[simp] theorem State.groupSteps_cxlMasked (s : State) (w g : Nat) : (s.groupSteps w g).cxlMasked = s.cxlMasked := rfl
@[simp] theorem State.groupSteps_pkg (s : State) (w g : Nat) : (s.groupSteps w g).pkg = s.pkg := rfl
@[simp] theorem State.groupSteps_cxlPeer (s : State) (w g : Nat) : (s.groupSteps w g).cxlPeer = s.cxlPeer := rfl
@[simp] theorem State.groupSteps_cxlUp (s : State) (w g : Nat) : (s.groupSteps w g).cxlUp = s.cxlUp := rfl
@[simp] theorem State.groupSteps_cxlCap (s : State) (w g : Nat) : (s.groupSteps w g).cxlCap = s.cxlCap := rfl
@[simp] theorem State.groupSteps_hbmSize (s : State) (w g : Nat) : (s.groupSteps w g).hbmSize = s.hbmSize := rfl
@[simp] theorem State.groupSteps_cxlSizes (s : State) (w g : Nat) : (s.groupSteps w g).cxlSizes = s.cxlSizes := rfl
@[simp] theorem State.groupSteps_coresPresent (s : State) (w g : Nat) : (s.groupSteps w g).coresPresent = s.coresPresent := rfl
@[simp] theorem State.groupSteps_slicesInService (s : State) (w g : Nat) : (s.groupSteps w g).slicesInService = s.slicesInService := rfl
@[simp] theorem State.groupSteps_spillBytes (s : State) (w g : Nat) : (s.groupSteps w g).spillBytes = s.spillBytes := rfl
@[simp] theorem State.groupSteps_portsFitted (s : State) (w g : Nat) : (s.groupSteps w g).portsFitted = s.portsFitted := rfl
@[simp] theorem State.groupSteps_regBanks (s : State) (w g : Nat) : (s.groupSteps w g).regBanks = s.regBanks := rfl
@[simp] theorem State.groupSteps_routes (s : State) (w g : Nat) : (s.groupSteps w g).routes = s.routes := rfl
@[simp] theorem State.groupSteps_links (s : State) (w g : Nat) : (s.groupSteps w g).links = s.links := rfl
@[simp] theorem State.groupSteps_apBase (s : State) (w g : Nat) : (s.groupSteps w g).apBase = s.apBase := rfl
@[simp] theorem State.groupSteps_sampler0 (s : State) (w g : Nat) : (s.groupSteps w g).sampler0 = s.sampler0 := rfl
@[simp] theorem State.groupSteps_counters0 (s : State) (w g : Nat) : (s.groupSteps w g).counters0 = s.counters0 := rfl
@[simp] theorem State.groupSteps_sampled0 (s : State) (w g : Nat) : (s.groupSteps w g).sampled0 = s.sampled0 := rfl
@[simp] theorem State.groupSteps_hostFails (s : State) (w g : Nat) : (s.groupSteps w g).hostFails = s.hostFails := rfl
@[simp] theorem State.groupSteps_unsupported (s : State) (w g : Nat) : (s.groupSteps w g).unsupported = s.unsupported := rfl
@[simp] theorem State.groupSteps_answer (s : State) (w g : Nat) : (s.groupSteps w g).answer = s.answer := rfl

/-! ### What `State.groupWaits` leaves -/

@[simp] theorem State.groupWaits_ir (s : State) (w g : Nat) : (s.groupWaits w g).ir = s.ir := rfl
@[simp] theorem State.groupWaits_input (s : State) (w g : Nat) : (s.groupWaits w g).input = s.input := rfl
@[simp] theorem State.groupWaits_agenda (s : State) (w g : Nat) : (s.groupWaits w g).agenda = s.agenda := rfl
@[simp] theorem State.groupWaits_cur (s : State) (w g : Nat) : (s.groupWaits w g).cur = s.cur := rfl
@[simp] theorem State.groupWaits_nextId (s : State) (w g : Nat) : (s.groupWaits w g).nextId = s.nextId := rfl
@[simp] theorem State.groupWaits_issues (s : State) (w g : Nat) : (s.groupWaits w g).issues = s.issues := rfl
@[simp] theorem State.groupWaits_freeCtr (s : State) (w g : Nat) : (s.groupWaits w g).freeCtr = s.freeCtr := rfl
@[simp] theorem State.groupWaits_tick (s : State) (w g : Nat) : (s.groupWaits w g).tick = s.tick := rfl
@[simp] theorem State.groupWaits_mem (s : State) (w g : Nat) : (s.groupWaits w g).mem = s.mem := rfl
@[simp] theorem State.groupWaits_hostMem (s : State) (w g : Nat) : (s.groupWaits w g).hostMem = s.hostMem := rfl
@[simp] theorem State.groupWaits_overwritten (s : State) (w g : Nat) : (s.groupWaits w g).overwritten = s.overwritten := rfl
@[simp] theorem State.groupWaits_moment (s : State) (w g : Nat) : (s.groupWaits w g).moment = s.moment := rfl
@[simp] theorem State.groupWaits_acquired (s : State) (w g : Nat) : (s.groupWaits w g).acquired = s.acquired := rfl
@[simp] theorem State.groupWaits_released (s : State) (w g : Nat) : (s.groupWaits w g).released = s.released := rfl
@[simp] theorem State.groupWaits_acting (s : State) (w g : Nat) : (s.groupWaits w g).acting = s.acting := rfl
@[simp] theorem State.groupWaits_irqs (s : State) (w g : Nat) : (s.groupWaits w g).irqs = s.irqs := rfl
@[simp] theorem State.groupWaits_outbox (s : State) (w g : Nat) : (s.groupWaits w g).outbox = s.outbox := rfl
@[simp] theorem State.groupWaits_cores (s : State) (w g : Nat) : (s.groupWaits w g).cores = s.cores := rfl
@[simp] theorem State.groupWaits_tambours (s : State) (w g : Nat) : (s.groupWaits w g).tambours = s.tambours := rfl
@[simp] theorem State.groupWaits_graphs (s : State) (w g : Nat) : (s.groupWaits w g).graphs = s.graphs := rfl
@[simp] theorem State.groupWaits_queues (s : State) (w g : Nat) : (s.groupWaits w g).queues = s.queues := rfl
@[simp] theorem State.groupWaits_services (s : State) (w g : Nat) : (s.groupWaits w g).services = s.services := rfl
@[simp] theorem State.groupWaits_ctxs (s : State) (w g : Nat) : (s.groupWaits w g).ctxs = s.ctxs := rfl
@[simp] theorem State.groupWaits_poolUsed (s : State) (w g : Nat) : (s.groupWaits w g).poolUsed = s.poolUsed := rfl
@[simp] theorem State.groupWaits_spillUsed (s : State) (w g : Nat) : (s.groupWaits w g).spillUsed = s.spillUsed := rfl
@[simp] theorem State.groupWaits_tlb (s : State) (w g : Nat) : (s.groupWaits w g).tlb = s.tlb := rfl
@[simp] theorem State.groupWaits_mapMoves (s : State) (w g : Nat) : (s.groupWaits w g).mapMoves = s.mapMoves := rfl
@[simp] theorem State.groupWaits_mapGens (s : State) (w g : Nat) : (s.groupWaits w g).mapGens = s.mapGens := rfl
@[simp] theorem State.groupWaits_generations (s : State) (w g : Nat) : (s.groupWaits w g).generations = s.generations := rfl
@[simp] theorem State.groupWaits_handovers (s : State) (w g : Nat) : (s.groupWaits w g).handovers = s.handovers := rfl
@[simp] theorem State.groupWaits_performed (s : State) (w g : Nat) : (s.groupWaits w g).performed = s.performed := rfl
@[simp] theorem State.groupWaits_owners (s : State) (w g : Nat) : (s.groupWaits w g).owners = s.owners := rfl
@[simp] theorem State.groupWaits_colls (s : State) (w g : Nat) : (s.groupWaits w g).colls = s.colls := rfl
@[simp] theorem State.groupWaits_collNext (s : State) (w g : Nat) : (s.groupWaits w g).collNext = s.collNext := rfl
@[simp] theorem State.groupWaits_gangLeads (s : State) (w g : Nat) : (s.groupWaits w g).gangLeads = s.gangLeads := rfl
@[simp] theorem State.groupWaits_gangMembers (s : State) (w g : Nat) : (s.groupWaits w g).gangMembers = s.gangMembers := rfl
@[simp] theorem State.groupWaits_remoteRecords (s : State) (w g : Nat) : (s.groupWaits w g).remoteRecords = s.remoteRecords := rfl
@[simp] theorem State.groupWaits_power (s : State) (w g : Nat) : (s.groupWaits w g).power = s.power := rfl
@[simp] theorem State.groupWaits_bootErr (s : State) (w g : Nat) : (s.groupWaits w g).bootErr = s.bootErr := rfl
@[simp] theorem State.groupWaits_bootState (s : State) (w g : Nat) : (s.groupWaits w g).bootState = s.bootState := rfl
@[simp] theorem State.groupWaits_bootRecovery (s : State) (w g : Nat) : (s.groupWaits w g).bootRecovery = s.bootRecovery := rfl
@[simp] theorem State.groupWaits_bootCount (s : State) (w g : Nat) : (s.groupWaits w g).bootCount = s.bootCount := rfl
@[simp] theorem State.groupWaits_mrs (s : State) (w g : Nat) : (s.groupWaits w g).mrs = s.mrs := rfl
@[simp] theorem State.groupWaits_image (s : State) (w g : Nat) : (s.groupWaits w g).image = s.image := rfl
@[simp] theorem State.groupWaits_staged (s : State) (w g : Nat) : (s.groupWaits w g).staged = s.staged := rfl
@[simp] theorem State.groupWaits_portEn (s : State) (w g : Nat) : (s.groupWaits w g).portEn = s.portEn := rfl
@[simp] theorem State.groupWaits_mailbox (s : State) (w g : Nat) : (s.groupWaits w g).mailbox = s.mailbox := rfl
@[simp] theorem State.groupWaits_mbBlock (s : State) (w g : Nat) : (s.groupWaits w g).mbBlock = s.mbBlock := rfl
@[simp] theorem State.groupWaits_mbSeq (s : State) (w g : Nat) : (s.groupWaits w g).mbSeq = s.mbSeq := rfl
@[simp] theorem State.groupWaits_mbDone (s : State) (w g : Nat) : (s.groupWaits w g).mbDone = s.mbDone := rfl
@[simp] theorem State.groupWaits_mbCode (s : State) (w g : Nat) : (s.groupWaits w g).mbCode = s.mbCode := rfl
@[simp] theorem State.groupWaits_stopTick (s : State) (w g : Nat) : (s.groupWaits w g).stopTick = s.stopTick := rfl
@[simp] theorem State.groupWaits_stopArmed (s : State) (w g : Nat) : (s.groupWaits w g).stopArmed = s.stopArmed := rfl
@[simp] theorem State.groupWaits_stopped (s : State) (w g : Nat) : (s.groupWaits w g).stopped = s.stopped := rfl
@[simp] theorem State.groupWaits_clkMode (s : State) (w g : Nat) : (s.groupWaits w g).clkMode = s.clkMode := rfl
@[simp] theorem State.groupWaits_clkPoint (s : State) (w g : Nat) : (s.groupWaits w g).clkPoint = s.clkPoint := rfl
@[simp] theorem State.groupWaits_clkPending (s : State) (w g : Nat) : (s.groupWaits w g).clkPending = s.clkPending := rfl
@[simp] theorem State.groupWaits_lockLost (s : State) (w g : Nat) : (s.groupWaits w g).lockLost = s.lockLost := rfl
@[simp] theorem State.groupWaits_lockTick (s : State) (w g : Nat) : (s.groupWaits w g).lockTick = s.lockTick := rfl
@[simp] theorem State.groupWaits_corrected (s : State) (w g : Nat) : (s.groupWaits w g).corrected = s.corrected := rfl
@[simp] theorem State.groupWaits_critical (s : State) (w g : Nat) : (s.groupWaits w g).critical = s.critical := rfl
@[simp] theorem State.groupWaits_islandPoint (s : State) (w g : Nat) : (s.groupWaits w g).islandPoint = s.islandPoint := rfl
@[simp] theorem State.groupWaits_evBase (s : State) (w g : Nat) : (s.groupWaits w g).evBase = s.evBase := rfl
@[simp] theorem State.groupWaits_evCfg (s : State) (w g : Nat) : (s.groupWaits w g).evCfg = s.evCfg := rfl
@[simp] theorem State.groupWaits_evProd (s : State) (w g : Nat) : (s.groupWaits w g).evProd = s.evProd := rfl
@[simp] theorem State.groupWaits_evCons (s : State) (w g : Nat) : (s.groupWaits w g).evCons = s.evCons := rfl
@[simp] theorem State.groupWaits_errCounters (s : State) (w g : Nat) : (s.groupWaits w g).errCounters = s.errCounters := rfl
@[simp] theorem State.groupWaits_powerLimit (s : State) (w g : Nat) : (s.groupWaits w g).powerLimit = s.powerLimit := rfl
@[simp] theorem State.groupWaits_islandMask (s : State) (w g : Nat) : (s.groupWaits w g).islandMask = s.islandMask := rfl
@[simp] theorem State.groupWaits_cxlMasked (s : State) (w g : Nat) : (s.groupWaits w g).cxlMasked = s.cxlMasked := rfl
@[simp] theorem State.groupWaits_pkg (s : State) (w g : Nat) : (s.groupWaits w g).pkg = s.pkg := rfl
@[simp] theorem State.groupWaits_cxlPeer (s : State) (w g : Nat) : (s.groupWaits w g).cxlPeer = s.cxlPeer := rfl
@[simp] theorem State.groupWaits_cxlUp (s : State) (w g : Nat) : (s.groupWaits w g).cxlUp = s.cxlUp := rfl
@[simp] theorem State.groupWaits_cxlCap (s : State) (w g : Nat) : (s.groupWaits w g).cxlCap = s.cxlCap := rfl
@[simp] theorem State.groupWaits_hbmSize (s : State) (w g : Nat) : (s.groupWaits w g).hbmSize = s.hbmSize := rfl
@[simp] theorem State.groupWaits_cxlSizes (s : State) (w g : Nat) : (s.groupWaits w g).cxlSizes = s.cxlSizes := rfl
@[simp] theorem State.groupWaits_coresPresent (s : State) (w g : Nat) : (s.groupWaits w g).coresPresent = s.coresPresent := rfl
@[simp] theorem State.groupWaits_slicesInService (s : State) (w g : Nat) : (s.groupWaits w g).slicesInService = s.slicesInService := rfl
@[simp] theorem State.groupWaits_spillBytes (s : State) (w g : Nat) : (s.groupWaits w g).spillBytes = s.spillBytes := rfl
@[simp] theorem State.groupWaits_portsFitted (s : State) (w g : Nat) : (s.groupWaits w g).portsFitted = s.portsFitted := rfl
@[simp] theorem State.groupWaits_regBanks (s : State) (w g : Nat) : (s.groupWaits w g).regBanks = s.regBanks := rfl
@[simp] theorem State.groupWaits_routes (s : State) (w g : Nat) : (s.groupWaits w g).routes = s.routes := rfl
@[simp] theorem State.groupWaits_links (s : State) (w g : Nat) : (s.groupWaits w g).links = s.links := rfl
@[simp] theorem State.groupWaits_apBase (s : State) (w g : Nat) : (s.groupWaits w g).apBase = s.apBase := rfl
@[simp] theorem State.groupWaits_sampler0 (s : State) (w g : Nat) : (s.groupWaits w g).sampler0 = s.sampler0 := rfl
@[simp] theorem State.groupWaits_counters0 (s : State) (w g : Nat) : (s.groupWaits w g).counters0 = s.counters0 := rfl
@[simp] theorem State.groupWaits_sampled0 (s : State) (w g : Nat) : (s.groupWaits w g).sampled0 = s.sampled0 := rfl
@[simp] theorem State.groupWaits_hostFails (s : State) (w g : Nat) : (s.groupWaits w g).hostFails = s.hostFails := rfl
@[simp] theorem State.groupWaits_unsupported (s : State) (w g : Nat) : (s.groupWaits w g).unsupported = s.unsupported := rfl
@[simp] theorem State.groupWaits_answer (s : State) (w g : Nat) : (s.groupWaits w g).answer = s.answer := rfl

/-! ### What `Thread.raise` leaves -/

@[simp] theorem Thread.raise_regs (t : Thread) (f : FlagSet) : (t.raise f).regs = t.regs := rfl
@[simp] theorem Thread.raise_queue (t : Thread) (f : FlagSet) : (t.raise f).queue = t.queue := rfl
@[simp] theorem Thread.raise_qseq (t : Thread) (f : FlagSet) : (t.raise f).qseq = t.qseq := rfl
@[simp] theorem Thread.raise_preds (t : Thread) (f : FlagSet) : (t.raise f).preds = t.preds := rfl
@[simp] theorem Thread.raise_imode (t : Thread) (f : FlagSet) : (t.raise f).imode = t.imode := rfl
@[simp] theorem Thread.raise_srg (t : Thread) (f : FlagSet) : (t.raise f).srg = t.srg := rfl
@[simp] theorem Thread.raise_pc (t : Thread) (f : FlagSet) : (t.raise f).pc = t.pc := rfl
@[simp] theorem Thread.raise_recbuf (t : Thread) (f : FlagSet) : (t.raise f).recbuf = t.recbuf := rfl
@[simp] theorem Thread.raise_pcnt (t : Thread) (f : FlagSet) : (t.raise f).pcnt = t.pcnt := rfl
@[simp] theorem Thread.raise_fault (t : Thread) (f : FlagSet) : (t.raise f).fault = t.fault := rfl
@[simp] theorem Thread.raise_ports (t : Thread) (f : FlagSet) : (t.raise f).ports = t.ports := rfl
@[simp] theorem Thread.raise_life (t : Thread) (f : FlagSet) : (t.raise f).life = t.life := rfl
@[simp] theorem Thread.raise_wait (t : Thread) (f : FlagSet) : (t.raise f).wait = t.wait := rfl
@[simp] theorem Thread.raise_stalls (t : Thread) (f : FlagSet) : (t.raise f).stalls = t.stalls := rfl
@[simp] theorem Thread.raise_clock (t : Thread) (f : FlagSet) : (t.raise f).clock = t.clock := rfl
@[simp] theorem Thread.raise_hist (t : Thread) (f : FlagSet) : (t.raise f).hist = t.hist := rfl
@[simp] theorem Thread.raise_arriving (t : Thread) (f : FlagSet) : (t.raise f).arriving = t.arriving := rfl
@[simp] theorem Thread.raise_words (t : Thread) (f : FlagSet) : (t.raise f).words = t.words := rfl
@[simp] theorem Thread.raise_lastIssue (t : Thread) (f : FlagSet) : (t.raise f).lastIssue = t.lastIssue := rfl
@[simp] theorem Thread.raise_weave (t : Thread) (f : FlagSet) : (t.raise f).weave = t.weave := rfl
@[simp] theorem Thread.raise_yielded (t : Thread) (f : FlagSet) : (t.raise f).yielded = t.yielded := rfl
@[simp] theorem Thread.raise_readyAt (t : Thread) (f : FlagSet) : (t.raise f).readyAt = t.readyAt := rfl
@[simp] theorem Thread.raise_early (t : Thread) (f : FlagSet) : (t.raise f).early = t.early := rfl
@[simp] theorem Thread.raise_request (t : Thread) (f : FlagSet) : (t.raise f).request = t.request := rfl
@[simp] theorem Thread.raise_fenced (t : Thread) (f : FlagSet) : (t.raise f).fenced = t.fenced := rfl
@[simp] theorem Thread.raise_aged (t : Thread) (f : FlagSet) : (t.raise f).aged = t.aged := rfl
@[simp] theorem Thread.raise_counted (t : Thread) (f : FlagSet) : (t.raise f).counted = t.counted := rfl

/-! ### What `Thread.tickStall` leaves -/

@[simp] theorem Thread.tickStall_regs (t : Thread) : (t.tickStall).regs = t.regs := rfl
@[simp] theorem Thread.tickStall_queue (t : Thread) : (t.tickStall).queue = t.queue := rfl
@[simp] theorem Thread.tickStall_qseq (t : Thread) : (t.tickStall).qseq = t.qseq := rfl
@[simp] theorem Thread.tickStall_preds (t : Thread) : (t.tickStall).preds = t.preds := rfl
@[simp] theorem Thread.tickStall_tsw (t : Thread) : (t.tickStall).tsw = t.tsw := rfl
@[simp] theorem Thread.tickStall_imode (t : Thread) : (t.tickStall).imode = t.imode := rfl
@[simp] theorem Thread.tickStall_srg (t : Thread) : (t.tickStall).srg = t.srg := rfl
@[simp] theorem Thread.tickStall_pc (t : Thread) : (t.tickStall).pc = t.pc := rfl
@[simp] theorem Thread.tickStall_recbuf (t : Thread) : (t.tickStall).recbuf = t.recbuf := rfl
@[simp] theorem Thread.tickStall_pcnt (t : Thread) : (t.tickStall).pcnt = t.pcnt := rfl
@[simp] theorem Thread.tickStall_fault (t : Thread) : (t.tickStall).fault = t.fault := rfl
@[simp] theorem Thread.tickStall_ports (t : Thread) : (t.tickStall).ports = t.ports := rfl
@[simp] theorem Thread.tickStall_life (t : Thread) : (t.tickStall).life = t.life := rfl
@[simp] theorem Thread.tickStall_wait (t : Thread) : (t.tickStall).wait = t.wait := rfl
@[simp] theorem Thread.tickStall_arriving (t : Thread) : (t.tickStall).arriving = t.arriving := rfl
@[simp] theorem Thread.tickStall_words (t : Thread) : (t.tickStall).words = t.words := rfl
@[simp] theorem Thread.tickStall_lastIssue (t : Thread) : (t.tickStall).lastIssue = t.lastIssue := rfl
@[simp] theorem Thread.tickStall_weave (t : Thread) : (t.tickStall).weave = t.weave := rfl
@[simp] theorem Thread.tickStall_yielded (t : Thread) : (t.tickStall).yielded = t.yielded := rfl
@[simp] theorem Thread.tickStall_readyAt (t : Thread) : (t.tickStall).readyAt = t.readyAt := rfl
@[simp] theorem Thread.tickStall_early (t : Thread) : (t.tickStall).early = t.early := rfl
@[simp] theorem Thread.tickStall_request (t : Thread) : (t.tickStall).request = t.request := rfl
@[simp] theorem Thread.tickStall_fenced (t : Thread) : (t.tickStall).fenced = t.fenced := rfl
@[simp] theorem Thread.tickStall_aged (t : Thread) : (t.tickStall).aged = t.aged := rfl
@[simp] theorem Thread.tickStall_counted (t : Thread) : (t.tickStall).counted = t.counted := rfl

/-! ### What `Thread.step` leaves -/

@[simp] theorem Thread.step_regs (t : Thread) : (t.step).regs = t.regs := rfl
@[simp] theorem Thread.step_queue (t : Thread) : (t.step).queue = t.queue := rfl
@[simp] theorem Thread.step_qseq (t : Thread) : (t.step).qseq = t.qseq := rfl
@[simp] theorem Thread.step_preds (t : Thread) : (t.step).preds = t.preds := rfl
@[simp] theorem Thread.step_tsw (t : Thread) : (t.step).tsw = t.tsw := rfl
@[simp] theorem Thread.step_imode (t : Thread) : (t.step).imode = t.imode := rfl
@[simp] theorem Thread.step_srg (t : Thread) : (t.step).srg = t.srg := rfl
@[simp] theorem Thread.step_recbuf (t : Thread) : (t.step).recbuf = t.recbuf := rfl
@[simp] theorem Thread.step_pcnt (t : Thread) : (t.step).pcnt = t.pcnt := rfl
@[simp] theorem Thread.step_fault (t : Thread) : (t.step).fault = t.fault := rfl
@[simp] theorem Thread.step_ports (t : Thread) : (t.step).ports = t.ports := rfl
@[simp] theorem Thread.step_life (t : Thread) : (t.step).life = t.life := rfl
@[simp] theorem Thread.step_arriving (t : Thread) : (t.step).arriving = t.arriving := rfl
@[simp] theorem Thread.step_lastIssue (t : Thread) : (t.step).lastIssue = t.lastIssue := rfl
@[simp] theorem Thread.step_weave (t : Thread) : (t.step).weave = t.weave := rfl
@[simp] theorem Thread.step_yielded (t : Thread) : (t.step).yielded = t.yielded := rfl
@[simp] theorem Thread.step_readyAt (t : Thread) : (t.step).readyAt = t.readyAt := rfl
@[simp] theorem Thread.step_early (t : Thread) : (t.step).early = t.early := rfl
@[simp] theorem Thread.step_fenced (t : Thread) : (t.step).fenced = t.fenced := rfl
@[simp] theorem Thread.step_aged (t : Thread) : (t.step).aged = t.aged := rfl

/-! ### What `Thread.jump` leaves -/

@[simp] theorem Thread.jump_regs (t : Thread) (a : BitVec 56) : (t.jump a).regs = t.regs := rfl
@[simp] theorem Thread.jump_queue (t : Thread) (a : BitVec 56) : (t.jump a).queue = t.queue := rfl
@[simp] theorem Thread.jump_qseq (t : Thread) (a : BitVec 56) : (t.jump a).qseq = t.qseq := rfl
@[simp] theorem Thread.jump_preds (t : Thread) (a : BitVec 56) : (t.jump a).preds = t.preds := rfl
@[simp] theorem Thread.jump_tsw (t : Thread) (a : BitVec 56) : (t.jump a).tsw = t.tsw := rfl
@[simp] theorem Thread.jump_imode (t : Thread) (a : BitVec 56) : (t.jump a).imode = t.imode := rfl
@[simp] theorem Thread.jump_srg (t : Thread) (a : BitVec 56) : (t.jump a).srg = t.srg := rfl
@[simp] theorem Thread.jump_recbuf (t : Thread) (a : BitVec 56) : (t.jump a).recbuf = t.recbuf := rfl
@[simp] theorem Thread.jump_pcnt (t : Thread) (a : BitVec 56) : (t.jump a).pcnt = t.pcnt := rfl
@[simp] theorem Thread.jump_fault (t : Thread) (a : BitVec 56) : (t.jump a).fault = t.fault := rfl
@[simp] theorem Thread.jump_ports (t : Thread) (a : BitVec 56) : (t.jump a).ports = t.ports := rfl
@[simp] theorem Thread.jump_life (t : Thread) (a : BitVec 56) : (t.jump a).life = t.life := rfl
@[simp] theorem Thread.jump_arriving (t : Thread) (a : BitVec 56) : (t.jump a).arriving = t.arriving := rfl
@[simp] theorem Thread.jump_lastIssue (t : Thread) (a : BitVec 56) : (t.jump a).lastIssue = t.lastIssue := rfl
@[simp] theorem Thread.jump_weave (t : Thread) (a : BitVec 56) : (t.jump a).weave = t.weave := rfl
@[simp] theorem Thread.jump_yielded (t : Thread) (a : BitVec 56) : (t.jump a).yielded = t.yielded := rfl
@[simp] theorem Thread.jump_readyAt (t : Thread) (a : BitVec 56) : (t.jump a).readyAt = t.readyAt := rfl
@[simp] theorem Thread.jump_early (t : Thread) (a : BitVec 56) : (t.jump a).early = t.early := rfl
@[simp] theorem Thread.jump_fenced (t : Thread) (a : BitVec 56) : (t.jump a).fenced = t.fenced := rfl
@[simp] theorem Thread.jump_aged (t : Thread) (a : BitVec 56) : (t.jump a).aged = t.aged := rfl

/-! ### What `Thread.reserve` leaves -/

@[simp] theorem Thread.reserve_regs (t : Thread) : (t.reserve).regs = t.regs := rfl
@[simp] theorem Thread.reserve_preds (t : Thread) : (t.reserve).preds = t.preds := rfl
@[simp] theorem Thread.reserve_tsw (t : Thread) : (t.reserve).tsw = t.tsw := rfl
@[simp] theorem Thread.reserve_imode (t : Thread) : (t.reserve).imode = t.imode := rfl
@[simp] theorem Thread.reserve_srg (t : Thread) : (t.reserve).srg = t.srg := rfl
@[simp] theorem Thread.reserve_pc (t : Thread) : (t.reserve).pc = t.pc := rfl
@[simp] theorem Thread.reserve_recbuf (t : Thread) : (t.reserve).recbuf = t.recbuf := rfl
@[simp] theorem Thread.reserve_pcnt (t : Thread) : (t.reserve).pcnt = t.pcnt := rfl
@[simp] theorem Thread.reserve_fault (t : Thread) : (t.reserve).fault = t.fault := rfl
@[simp] theorem Thread.reserve_ports (t : Thread) : (t.reserve).ports = t.ports := rfl
@[simp] theorem Thread.reserve_life (t : Thread) : (t.reserve).life = t.life := rfl
@[simp] theorem Thread.reserve_wait (t : Thread) : (t.reserve).wait = t.wait := rfl
@[simp] theorem Thread.reserve_stalls (t : Thread) : (t.reserve).stalls = t.stalls := rfl
@[simp] theorem Thread.reserve_clock (t : Thread) : (t.reserve).clock = t.clock := rfl
@[simp] theorem Thread.reserve_hist (t : Thread) : (t.reserve).hist = t.hist := rfl
@[simp] theorem Thread.reserve_arriving (t : Thread) : (t.reserve).arriving = t.arriving := rfl
@[simp] theorem Thread.reserve_words (t : Thread) : (t.reserve).words = t.words := rfl
@[simp] theorem Thread.reserve_lastIssue (t : Thread) : (t.reserve).lastIssue = t.lastIssue := rfl
@[simp] theorem Thread.reserve_weave (t : Thread) : (t.reserve).weave = t.weave := rfl
@[simp] theorem Thread.reserve_yielded (t : Thread) : (t.reserve).yielded = t.yielded := rfl
@[simp] theorem Thread.reserve_readyAt (t : Thread) : (t.reserve).readyAt = t.readyAt := rfl
@[simp] theorem Thread.reserve_early (t : Thread) : (t.reserve).early = t.early := rfl
@[simp] theorem Thread.reserve_request (t : Thread) : (t.reserve).request = t.request := rfl
@[simp] theorem Thread.reserve_fenced (t : Thread) : (t.reserve).fenced = t.fenced := rfl
@[simp] theorem Thread.reserve_aged (t : Thread) : (t.reserve).aged = t.aged := rfl
@[simp] theorem Thread.reserve_counted (t : Thread) : (t.reserve).counted = t.counted := rfl

/-! ### What `Thread.writeLate` leaves -/

@[simp] theorem Thread.writeLate_regs (t : Thread) (p : Target) (v : Reg) : (t.writeLate p v).regs = t.regs := rfl
@[simp] theorem Thread.writeLate_queue (t : Thread) (p : Target) (v : Reg) : (t.writeLate p v).queue = t.queue := rfl
@[simp] theorem Thread.writeLate_qseq (t : Thread) (p : Target) (v : Reg) : (t.writeLate p v).qseq = t.qseq := rfl
@[simp] theorem Thread.writeLate_preds (t : Thread) (p : Target) (v : Reg) : (t.writeLate p v).preds = t.preds := rfl
@[simp] theorem Thread.writeLate_tsw (t : Thread) (p : Target) (v : Reg) : (t.writeLate p v).tsw = t.tsw := rfl
@[simp] theorem Thread.writeLate_imode (t : Thread) (p : Target) (v : Reg) : (t.writeLate p v).imode = t.imode := rfl
@[simp] theorem Thread.writeLate_srg (t : Thread) (p : Target) (v : Reg) : (t.writeLate p v).srg = t.srg := rfl
@[simp] theorem Thread.writeLate_pc (t : Thread) (p : Target) (v : Reg) : (t.writeLate p v).pc = t.pc := rfl
@[simp] theorem Thread.writeLate_recbuf (t : Thread) (p : Target) (v : Reg) : (t.writeLate p v).recbuf = t.recbuf := rfl
@[simp] theorem Thread.writeLate_pcnt (t : Thread) (p : Target) (v : Reg) : (t.writeLate p v).pcnt = t.pcnt := rfl
@[simp] theorem Thread.writeLate_fault (t : Thread) (p : Target) (v : Reg) : (t.writeLate p v).fault = t.fault := rfl
@[simp] theorem Thread.writeLate_ports (t : Thread) (p : Target) (v : Reg) : (t.writeLate p v).ports = t.ports := rfl
@[simp] theorem Thread.writeLate_life (t : Thread) (p : Target) (v : Reg) : (t.writeLate p v).life = t.life := rfl
@[simp] theorem Thread.writeLate_wait (t : Thread) (p : Target) (v : Reg) : (t.writeLate p v).wait = t.wait := rfl
@[simp] theorem Thread.writeLate_stalls (t : Thread) (p : Target) (v : Reg) : (t.writeLate p v).stalls = t.stalls := rfl
@[simp] theorem Thread.writeLate_clock (t : Thread) (p : Target) (v : Reg) : (t.writeLate p v).clock = t.clock := rfl
@[simp] theorem Thread.writeLate_words (t : Thread) (p : Target) (v : Reg) : (t.writeLate p v).words = t.words := rfl
@[simp] theorem Thread.writeLate_lastIssue (t : Thread) (p : Target) (v : Reg) : (t.writeLate p v).lastIssue = t.lastIssue := rfl
@[simp] theorem Thread.writeLate_weave (t : Thread) (p : Target) (v : Reg) : (t.writeLate p v).weave = t.weave := rfl
@[simp] theorem Thread.writeLate_yielded (t : Thread) (p : Target) (v : Reg) : (t.writeLate p v).yielded = t.yielded := rfl
@[simp] theorem Thread.writeLate_readyAt (t : Thread) (p : Target) (v : Reg) : (t.writeLate p v).readyAt = t.readyAt := rfl
@[simp] theorem Thread.writeLate_early (t : Thread) (p : Target) (v : Reg) : (t.writeLate p v).early = t.early := rfl
@[simp] theorem Thread.writeLate_request (t : Thread) (p : Target) (v : Reg) : (t.writeLate p v).request = t.request := rfl
@[simp] theorem Thread.writeLate_fenced (t : Thread) (p : Target) (v : Reg) : (t.writeLate p v).fenced = t.fenced := rfl
@[simp] theorem Thread.writeLate_aged (t : Thread) (p : Target) (v : Reg) : (t.writeLate p v).aged = t.aged := rfl
@[simp] theorem Thread.writeLate_counted (t : Thread) (p : Target) (v : Reg) : (t.writeLate p v).counted = t.counted := rfl

/-! ### What `Group.mapLive` leaves -/

@[simp] theorem Group.mapLive_role (g : Group) (f : Thread → Thread) : (g.mapLive f).role = g.role := rfl
@[simp] theorem Group.mapLive_allot (g : Group) (f : Thread → Thread) : (g.mapLive f).allot = g.allot := rfl
@[simp] theorem Group.mapLive_firstTid (g : Group) (f : Thread → Thread) : (g.mapLive f).firstTid = g.firstTid := rfl
@[simp] theorem Group.mapLive_quad (g : Group) (f : Thread → Thread) : (g.mapLive f).quad = g.quad := rfl
@[simp] theorem Group.mapLive_slot (g : Group) (f : Thread → Thread) : (g.mapLive f).slot = g.slot := rfl
@[simp] theorem Group.mapLive_birthQuad (g : Group) (f : Thread → Thread) : (g.mapLive f).birthQuad = g.birthQuad := rfl
@[simp] theorem Group.mapLive_birthSlot (g : Group) (f : Thread → Thread) : (g.mapLive f).birthSlot = g.birthSlot := rfl
@[simp] theorem Group.mapLive_scalars (g : Group) (f : Thread → Thread) : (g.mapLive f).scalars = g.scalars := rfl
@[simp] theorem Group.mapLive_gsel (g : Group) (f : Thread → Thread) : (g.mapLive f).gsel = g.gsel := rfl
@[simp] theorem Group.mapLive_efmt (g : Group) (f : Thread → Thread) : (g.mapLive f).efmt = g.efmt := rfl
@[simp] theorem Group.mapLive_walk (g : Group) (f : Thread → Thread) : (g.mapLive f).walk = g.walk := rfl
@[simp] theorem Group.mapLive_pendFault (g : Group) (f : Thread → Thread) : (g.mapLive f).pendFault = g.pendFault := rfl
@[simp] theorem Group.mapLive_poll (g : Group) (f : Thread → Thread) : (g.mapLive f).poll = g.poll := rfl
@[simp] theorem Group.mapLive_matrixCount (g : Group) (f : Thread → Thread) : (g.mapLive f).matrixCount = g.matrixCount := rfl
@[simp] theorem Group.mapLive_lookupCount (g : Group) (f : Thread → Thread) : (g.mapLive f).lookupCount = g.lookupCount := rfl
@[simp] theorem Group.mapLive_engineCount (g : Group) (f : Thread → Thread) : (g.mapLive f).engineCount = g.engineCount := rfl
@[simp] theorem Group.mapLive_cpyIssued (g : Group) (f : Thread → Thread) : (g.mapLive f).cpyIssued = g.cpyIssued := rfl
@[simp] theorem Group.mapLive_latch (g : Group) (f : Thread → Thread) : (g.mapLive f).latch = g.latch := rfl
@[simp] theorem Group.mapLive_formation (g : Group) (f : Thread → Thread) : (g.mapLive f).formation = g.formation := rfl
@[simp] theorem Group.mapLive_holds (g : Group) (f : Thread → Thread) : (g.mapLive f).holds = g.holds := rfl

/-! ### What passing to the next group sets -/

@[simp] theorem Thread.step_pc (t : Thread) : t.step.pc = t.nextPc := rfl
@[simp] theorem Thread.step_words (t : Thread) : t.step.words = Words.none := rfl
@[simp] theorem Thread.step_wait (t : Thread) : t.step.wait = .running := rfl
@[simp] theorem Thread.step_request (t : Thread) : t.step.request = none := rfl
@[simp] theorem Thread.step_counted (t : Thread) : t.step.counted = false := rfl
@[simp] theorem Thread.jump_request (t : Thread) (a : BitVec 56) : (t.jump a).request = none := rfl
@[simp] theorem Thread.jump_counted (t : Thread) (a : BitVec 56) : (t.jump a).counted = false := rfl
@[simp] theorem Thread.jump_pc (t : Thread) (a : BitVec 56) : (t.jump a).pc = a := rfl
@[simp] theorem Thread.jump_words (t : Thread) (a : BitVec 56) : (t.jump a).words = Words.none := rfl
@[simp] theorem Thread.jump_wait (t : Thread) (a : BitVec 56) : (t.jump a).wait = .running := rfl
@[simp] theorem Thread.jump_hist (t : Thread) (a : BitVec 56) : (t.jump a).hist = [] := rfl

end Sys2Proof.Machine
end

