-- ==== Sys2Proof/Laws/Memory.lean ====
section
/-! SUPPORT. Sparse memories: a read after a write, and that every memory operation keeps the canonical form. -/

namespace Sys2Proof.Machine

open Sys2Proof

variable {n : Nat}

/-! ### Reads after writes -/

@[simp] theorem Sparse.get_nil (a : Nat) : Sparse.get ([] : List (Nat × BitVec n)) a = 0 := rfl

/-- Below every listed index a word reads as 0. -/
theorem Sparse.get_below {m : List (Nat × BitVec n)} {k : Nat} (h : Sparse.wfFrom (some k) m = true) {a : Nat} (ha : a ≤ k) :
    Sparse.get m a = 0 := by
  induction m generalizing k with
  | nil => rfl
  | cons e t ih =>
    obtain ⟨i, x⟩ := e
    simp only [Sparse.wfFrom, Bool.and_eq_true, decide_eq_true_eq] at h
    have hi : ¬ i = a := by omega
    simp only [Sparse.get, hi, if_false]
    exact ih h.2 (by omega)

/-- A canonical list without a lower bound is one above any index its first entry allows. -/
theorem Sparse.wf_of_wfFrom {m : List (Nat × BitVec n)} {lo : Option Nat} (h : Sparse.wfFrom lo m = true) :
    Sparse.wfFrom none m = true := by
  cases m with
  | nil => rfl
  | cons e t => obtain ⟨i, x⟩ := e; simp only [Sparse.wfFrom, Bool.and_eq_true] at h ⊢; exact ⟨⟨trivial, h.1.2⟩, h.2⟩

/-- A write keeps the canonical form, and the bound below it. -/
theorem Sparse.wfFrom_set {m : List (Nat × BitVec n)} {lo : Option Nat} (h : Sparse.wfFrom lo m = true) (a : Nat) (v : BitVec n)
    (ha : ∀ b, lo = some b → b < a) : Sparse.wfFrom lo (Sparse.set m a v) = true := by
  induction m generalizing lo with
  | nil =>
    simp only [Sparse.set]
    split
    · rfl
    · rename_i hv
      cases lo <;> simp_all [Sparse.wfFrom]
  | cons e t ih =>
    obtain ⟨i, x⟩ := e
    have h' := h
    simp only [Sparse.wfFrom, Bool.and_eq_true, decide_eq_true_eq] at h
    simp only [Sparse.set]
    split
    · rename_i hlt
      split
      · exact h'
      · rename_i hv
        cases lo <;> simp_all [Sparse.wfFrom]
    · rename_i hlt
      split
      · rename_i heq
        subst heq
        split
        · cases t with
          | nil => rfl
          | cons e t =>
            obtain ⟨j, y⟩ := e
            have h2 := h.2
            simp only [Sparse.wfFrom, Bool.and_eq_true, decide_eq_true_eq] at h2 ⊢
            refine ⟨⟨?_, h2.1.2⟩, h2.2⟩
            cases lo with
            | none => rfl
            | some b => have := ha b rfl; simp only [decide_eq_true_eq]; omega
        · rename_i hv
          simp only [Sparse.wfFrom, Bool.and_eq_true, decide_eq_true_eq]
          exact ⟨⟨h.1.1, hv⟩, h.2⟩
      · rename_i hne
        simp only [Sparse.wfFrom, Bool.and_eq_true, decide_eq_true_eq]
        refine ⟨⟨h.1.1, h.1.2⟩, ih h.2 ?_⟩
        rintro b hb
        cases hb
        omega

/-- A write keeps the canonical form. -/
theorem Memory.wf_set {m : List (Nat × BitVec n)} (h : Memory.wf m = true) (a : Nat) (v : BitVec n) :
    Memory.wf (Sparse.set m a v) = true := Sparse.wfFrom_set h a v (by simp)

theorem Sparse.get_set_from {m : List (Nat × BitVec n)} {lo : Option Nat} (h : Sparse.wfFrom lo m = true) (a b : Nat)
    (v : BitVec n) : Sparse.get (Sparse.set m a v) b = if a = b then v else Sparse.get m b := by
  induction m generalizing lo with
  | nil =>
    simp only [Sparse.set]
    by_cases hv : v = 0
    · subst hv; simp [Sparse.get]
    · rw [if_neg hv]; simp [Sparse.get]
  | cons e t ih =>
    obtain ⟨i, x⟩ := e
    simp only [Sparse.wfFrom, Bool.and_eq_true, decide_eq_true_eq] at h
    simp only [Sparse.set]
    split
    · rename_i hlt
      by_cases hv : v = 0
      · simp only [hv, if_true]
        split
        · rename_i hab
          subst hab
          have hi : ¬ i = a := by omega
          simp only [Sparse.get, hi, if_false]
          exact Sparse.get_below h.2 (by omega)
        · rfl
      · simp only [hv, if_false, Sparse.get]
    · rename_i hlt
      split
      · rename_i heq
        subst heq
        by_cases hv : v = 0
        · simp only [hv, if_true, Sparse.get]
          split
          · rename_i hab
            subst hab
            exact Sparse.get_below h.2 (Nat.le_refl _)
          · rfl
        · simp only [hv, if_false, Sparse.get]
          split <;> rfl
      · rename_i hne
        simp only [Sparse.get]
        rw [ih h.2]
        by_cases hib : i = b
        · subst hib; simp only [if_true, hne, if_false]
        · simp only [hib, if_false]

/-- A read after a write, in a canonical memory: the written word at its index, every other word as before. -/
theorem Sparse.get_set {m : List (Nat × BitVec n)} (h : Memory.wf m = true) (a b : Nat) (v : BitVec n) :
    Sparse.get (Sparse.set m a v) b = if a = b then v else Sparse.get m b := Sparse.get_set_from h a b v

/-! ### Runs of bytes -/

/-- Storing bytes keeps the canonical form. -/
theorem Memory.wf_writeBytes {m : List Host.Cell} (h : Memory.wf m = true) (a : Nat) (bs : List Byte) :
    Memory.wf (writeBytes m a bs) = true := by
  induction bs generalizing m a with
  | nil => exact h
  | cons b t ih => exact ih (Memory.wf_set h a b) (a + 1)

/-- A byte outside the run stored reads as before. -/
theorem get_writeBytes_outside {m : List Host.Cell} (h : Memory.wf m = true) (a : Nat) (bs : List Byte) (x : Nat)
    (hx : x < a ∨ a + bs.length ≤ x) : Sparse.get (writeBytes m a bs) x = Sparse.get m x := by
  induction bs generalizing m a with
  | nil => rfl
  | cons b t ih =>
    simp only [List.length_cons] at hx
    rw [writeBytes, ih (Memory.wf_set h a b) (a + 1) (by omega), Sparse.get_set h, if_neg (by omega)]

/-- A byte of the run stored reads as stored. -/
theorem get_writeBytes_inside {m : List Host.Cell} (h : Memory.wf m = true) (a : Nat) (bs : List Byte) (i : Nat)
    (hi : i < bs.length) : Sparse.get (writeBytes m a bs) (a + i) = bs[i] := by
  induction bs generalizing m a i with
  | nil => simp at hi
  | cons b t ih =>
    rw [writeBytes]
    cases i with
    | zero =>
      rw [get_writeBytes_outside (Memory.wf_set h a b) (a + 1) t (a + 0) (by omega), Sparse.get_set h]
      simp
    | succ j =>
      have := ih (Memory.wf_set h a b) (a + 1) j (by simpa using hi)
      simpa [Nat.add_assoc, Nat.add_comm 1 j] using this

/-- The bytes stored are read back. -/
theorem readBytes_writeBytes {m : List Host.Cell} (h : Memory.wf m = true) (a : Nat) (bs : List Byte) :
    readBytes (writeBytes m a bs) a bs.length = bs := by
  refine List.ext_getElem (by simp [readBytes]) fun i hi _ => ?_
  simp only [readBytes, List.length_map, List.length_range] at hi
  simp [readBytes, get_writeBytes_inside h a bs i hi]

/-! ### The named operations on the package's memory -/

/-- A fold of steps that each leave memory as it is leaves it. -/
theorem foldl_mem {α : Type} (f : State → α → State) (hf : ∀ s a, (f s a).mem = s.mem) (l : List α) (s : State) :
    (l.foldl f s).mem = s.mem := by
  induction l generalizing s with
  | nil => rfl
  | cons a t ih => rw [List.foldl_cons, ih, hf]

@[simp] theorem State.revokeWord_mem (s : State) (w : Option Nat) (a : Nat) : (s.revokeWord w a).mem = s.mem := by
  unfold State.revokeWord
  split
  · rfl
  · split <;> rfl

@[simp] theorem State.revoke_mem (s : State) (w : Option Nat) (pa n : Nat) : (s.revoke w pa n).mem = s.mem :=
  foldl_mem _ (fun s a => s.revokeWord_mem w a) _ s

@[simp] theorem State.noteFor_mem (s : State) (g : Option (Nat × Nat)) (m : Nat) (w : Option Nat) (a : Nat) (l : List Byte) :
    (s.noteFor g m w a l).mem = s.mem := by
  unfold State.noteFor
  split <;> rfl

@[simp] theorem State.noteOld_mem (s : State) (w : Option Nat) (a : Nat) (l : List Byte) : (s.noteOld w a l).mem = s.mem :=
  s.noteFor_mem _ _ _ _ _

@[simp] theorem State.unrelease_mem (s : State) (pa n : Nat) : (s.unrelease pa n).mem = s.mem := rfl

/-- What a write at the home does to memory. -/
@[simp] theorem State.writeHomeFor_mem (s : State) (g : Option (Nat × Nat)) (m : Nat) (w : Option Nat) (pa : Nat) (bs : List Byte) :
    (s.writeHomeFor g m w pa bs).mem = writeBytes s.mem pa bs := by simp [State.writeHomeFor]

@[simp] theorem State.writeHome_mem (s : State) (w : Option Nat) (pa : Nat) (bs : List Byte) :
    (s.writeHome w pa bs).mem = writeBytes s.mem pa bs := s.writeHomeFor_mem _ _ _ _ _

/-- A write at the home keeps the canonical form. -/
theorem State.writeHome_wf {s : State} (h : Memory.wf s.mem = true) (w : Option Nat) (pa : Nat) (bs : List Byte) :
    Memory.wf (s.writeHome w pa bs).mem = true := by rw [State.writeHome_mem]; exact Memory.wf_writeBytes h pa bs

/-- A fold of steps that each keep memory canonical keeps it canonical. -/
theorem foldl_wf {α : Type} (f : State → α → State) (hf : ∀ s a, Memory.wf s.mem = true → Memory.wf (f s a).mem = true)
    (l : List α) {s : State} (h : Memory.wf s.mem = true) : Memory.wf (l.foldl f s).mem = true := by
  induction l generalizing s with
  | nil => exact h
  | cons a t ih => exact ih (hf s a h)

@[simp] theorem State.reachHome_mem (s : State) (gen k : Nat) : (s.reachHome gen k).mem = s.mem := by
  unfold State.reachHome
  split
  · split <;> rfl
  · rfl

@[simp] theorem State.reachHome_performed (s : State) (gen k : Nat) : (s.reachHome gen k).performed = s.performed := by
  unfold State.reachHome
  split
  · split <;> rfl
  · rfl

/-- What performing a write-through does to memory: its bytes are stored, unless its home has performed it already (R282). -/
theorem State.performWrite_mem (s : State) (w k : Nat) (t : WriteThrough) :
    (s.performWrite w k t).mem = if t.seq ≤ s.lastPerformed w k then s.mem else writeBytes s.mem t.addr t.bytes := by
  have e : ((s.reachHome t.gen k).countRequest k).lastPerformed w k = s.lastPerformed w k := by
    simp [State.lastPerformed, State.countRequest, State.count0]
  have q : ((s.reachHome t.gen k).countRequest k).mem = s.mem := by simp [State.countRequest, State.count0]
  simp only [State.performWrite, e]
  split
  · exact q
  · have m : (((s.reachHome t.gen k).countRequest k).writeHomeFor (some (w, t.grp)) t.moment (some w) t.addr t.bytes).mem =
        writeBytes s.mem t.addr t.bytes := by rw [State.writeHomeFor_mem, q]
    cases t.rel <;> split <;> exact m

/-- Performing a write-through keeps the canonical form. -/
theorem State.performWrite_wf {s : State} (h : Memory.wf s.mem = true) (w k : Nat) (t : WriteThrough) :
    Memory.wf (s.performWrite w k t).mem = true := by
  rw [State.performWrite_mem]
  split
  · exact h
  · exact Memory.wf_writeBytes h _ _

/-- Performing write-throughs keeps the canonical form. -/
theorem State.drain_wf {s : State} (h : Memory.wf s.mem = true) (w : Nat) (pick : WriteThrough → Bool) :
    Memory.wf (s.drain w pick).mem = true := by
  unfold State.drain
  split
  · exact h
  · exact foldl_wf _ (fun s a hs => State.performWrite_wf hs _ _ _) _ (s := s.modWg w _) h

/-- A recall keeps the canonical form. -/
theorem State.recall_wf {s : State} (h : Memory.wf s.mem = true) (pa n : Nat) : Memory.wf (s.recall pa n).mem = true := by
  unfold State.recall
  refine foldl_wf _ (fun s x hs => ?_) _ h
  split
  · exact State.drain_wf hs _ _
  · exact hs

/-- A release keeps the canonical form. -/
theorem State.releaseNow_wf {s : State} (h : Memory.wf s.mem = true) (w sc : Nat) : Memory.wf (s.releaseNow w sc).mem = true := by
  unfold State.releaseNow
  split
  · exact h
  · exact State.drain_wf h _ _

/-- A release that may be deferred keeps the canonical form. -/
theorem State.release_wf {s : State} (h : Memory.wf s.mem = true) (w sc : Nat) (full : Bool) :
    Memory.wf (s.release w sc full).mem = true := by
  unfold State.release
  split
  · exact h
  · exact State.releaseNow_wf h w sc

@[simp] theorem State.writeSpadFor_mem (s : State) (g : Option (Nat × Nat)) (w off : Nat) (bs : List Byte) :
    (s.writeSpadFor g w off bs).mem = s.mem := s.noteFor_mem _ _ _ _ _

@[simp] theorem State.writeSpad_mem (s : State) (w off : Nat) (bs : List Byte) : (s.writeSpad w off bs).mem = s.mem :=
  s.writeSpadFor_mem _ _ _ _

@[simp] theorem State.landAll_mem (s : State) (w : Nat) : (s.landAll w).mem = s.mem := by
  unfold State.landAll
  split
  · rfl
  · exact foldl_mem _ (fun s (e : Inbound) => s.writeSpadFor_mem none w e.off e.bytes) _ s

@[simp] theorem State.groupAcquired_mem (s : State) (g : Nat × Nat) (sc : Nat) : (s.groupAcquired g sc).mem = s.mem := by
  unfold State.groupAcquired
  split <;> rfl

@[simp] theorem State.acquireOf_mem (s : State) (w sc : Nat) : (s.acquireOf w sc).mem = s.mem := by
  unfold State.acquireOf
  split
  · rfl
  · rw [State.landAll_mem]; rfl

@[simp] theorem State.acquire_mem (s : State) (w sc : Nat) : (s.acquire w sc).mem = s.mem := by
  unfold State.acquire State.curAcquired
  split
  · split
    · rw [State.groupAcquired_mem, State.acquireOf_mem]
    · exact s.acquireOf_mem w sc
  · exact s.acquireOf_mem w sc

/-- A thread's store is a pending write-through: memory at the home is as before (R272). -/
@[simp] theorem State.storeLocal_mem (s : State) (w : Nat) (p : Path) (pa : Nat) (bs : List Byte) :
    (s.storeLocal w p pa bs).mem = s.mem := rfl

/-- A translation changes no memory. -/
@[simp] theorem State.translate_mem (s : State) (c va : Nat) (k : Access) : (s.translate c va k).1.mem = s.mem := by
  unfold State.translate
  split
  · split <;> rfl
  · split
    · rfl
    · split
      · rfl
      · dsimp only
        split <;> (split <;> first | rfl | (unfold State.contEntry; dsimp only; split <;> rfl))

end Sys2Proof.Machine
end

