-- ==== Sys2Proof/Laws/Threads.lean ====
section
/-! SUPPORT. What the named updates of workgroups, groups and threads leave to be found by name; and views that differ only in
what other threads hold. -/

namespace Sys2Proof.Machine

open Sys2Proof

variable {s : State}

/-! ### Workgroups -/

/-- A workgroup found by its number has that number. -/
theorem State.wg?_id {w : Nat} {x : Workgroup} (h : s.wg? w = some x) : x.id = w := by
  have := List.find?_some h
  simpa using this

/-- The workgroup found after a change that keeps numbers. -/
theorem State.wg?_modWg {w v : Nat} {f : Workgroup → Workgroup} (hf : ∀ x, (f x).id = x.id) :
    (s.modWg w f).wg? v = (s.wg? v).map fun x => if x.id = w then f x else x := by
  simp only [State.wg?, State.modWg, List.find?_map]
  congr 1
  congr 1
  funext x
  simp only [Function.comp_apply]
  split <;> simp [hf]

/-- The workgroup that a change names. -/
theorem State.wg?_modWg_same {w : Nat} {f : Workgroup → Workgroup} (hf : ∀ x, (f x).id = x.id) :
    (s.modWg w f).wg? w = (s.wg? w).map f := by
  rw [State.wg?_modWg hf]
  cases h : s.wg? w with
  | none => rfl
  | some x => simp [State.wg?_id h]

/-! ### Groups and threads -/

/-- The workgroup after a change of one of its groups. -/
theorem State.wg?_modGrp {w g : Nat} {f : Group → Group} :
    (s.modGrp w g f).wg? w = (s.wg? w).map fun x => { x with groups := x.groups.modify g f } :=
  State.wg?_modWg_same fun _ => rfl

/-- The group that a change names. -/
theorem State.grp?_modGrp {w g : Nat} {f : Group → Group} : (s.modGrp w g f).grp? w g = (s.grp? w g).map f := by
  simp only [State.grp?, State.wg?_modGrp]
  cases s.wg? w with
  | none => rfl
  | some x => simp [Option.map]

/-- The thread that a change names. -/
theorem State.thread?_modThread {t : ThreadId} {f : Thread → Thread} :
    (s.modThread t f).thread? t = (s.thread? t).map f := by
  simp only [State.thread?, State.modThread, State.grp?_modGrp]
  cases s.grp? t.wg t.grp with
  | none => rfl
  | some x => simp [Option.map]

/-- A thread that is set holds what it was set to. -/
theorem State.thread?_setThread {t : ThreadId} {x y : Thread} (h : s.thread? t = some y) :
    (s.setThread t x).thread? t = some x := by
  rw [State.setThread, State.thread?_modThread, h]; rfl

/-- Another thread of the group is as before. -/
theorem State.thread?_setThread_ne {w g t u : Nat} {x : Thread} (h : u ≠ t) :
    (s.setThread ⟨w, g, t⟩ x).thread? ⟨w, g, u⟩ = s.thread? ⟨w, g, u⟩ := by
  simp only [State.thread?, State.setThread, State.modThread, State.grp?_modGrp]
  cases s.grp? w g with
  | none => rfl
  | some y => simp [Ne.symm h]

/-! ### Views -/

/-- The parts of a view. -/
theorem State.view?_eq_some {w g t : Nat} {v : View} :
    s.view? w g t = some v ↔
      s.wg? w = some v.wg ∧ v.wg.groups[g]? = some v.grp ∧ v.grp.threads[t]? = some v.t ∧ v.gtid = t := by
  unfold State.view?
  cases s.wg? w with
  | none => simp
  | some x =>
    cases hg : x.groups[g]? with
    | none => simp only [hg]; constructor <;> [intro h; rintro ⟨h, h', -⟩] <;> simp_all
    | some y =>
      cases ht : y.threads[t]? with
      | none =>
        simp only [hg, ht, Option.map_none, reduceCtorEq, false_iff]
        rintro ⟨h, h', h'', -⟩
        cases h
        rw [hg] at h'
        cases h'
        rw [ht] at h''
        cases h''
      | some z =>
        simp only [hg, ht, Option.map_some, Option.some.injEq]
        constructor
        · rintro rfl; simp [hg, ht]
        · rintro ⟨h1, h2, h3, h4⟩
          obtain ⟨a, b, c, d⟩ := v
          subst h1
          simp_all

/-- Two views of a thread that agree in all that the thread's own instructions read: they differ in other threads of the
workgroup only. -/
structure View.Same (v v' : View) : Prop where
  gtid : v'.gtid = v.gtid
  thread : v'.t = v.t
  grp : ∃ ts, v'.grp = { v.grp with threads := ts }
  wg : ∃ gs, v'.wg = { v.wg with groups := gs }
  roles : v'.wg.groups.map (fun g => (g.role, g.firstTid)) = v.wg.groups.map (fun g => (g.role, g.firstTid))

theorem View.Same.refl (v : View) : View.Same v v := ⟨rfl, rfl, ⟨_, rfl⟩, ⟨_, rfl⟩, rfl⟩

theorem View.Same.trans {a b c : View} (h : View.Same a b) (h' : View.Same b c) : View.Same a c := by
  obtain ⟨ts, e⟩ := h.grp
  obtain ⟨ts', e'⟩ := h'.grp
  obtain ⟨gs, k⟩ := h.wg
  obtain ⟨gs', k'⟩ := h'.wg
  exact ⟨h'.gtid.trans h.gtid, h'.thread.trans h.thread, ⟨ts', by rw [e', e]⟩, ⟨gs', by rw [k', k]⟩, h'.roles.trans h.roles⟩

/-- The first TID of a role, from the roles and first TIDs of the groups alone. -/
theorem roleFirst_fold (r k : Nat) (l : List Group) :
    (l.filter fun g => g.role == r).foldl (init := k) (fun k g => min k g.firstTid) =
      ((l.map fun g => (g.role, g.firstTid)).filter fun e => e.1 == r).foldl (init := k) (fun k e => min k e.2) := by
  induction l generalizing k with
  | nil => rfl
  | cons g t ih =>
    simp only [List.filter_cons, List.map_cons]
    split <;> simp only [List.foldl_cons, ih]

theorem View.Same.roleFirst {v v' : View} (h : View.Same v v') : v'.roleFirst = v.roleFirst := by
  obtain ⟨ts, e⟩ := h.grp
  unfold View.roleFirst
  rw [roleFirst_fold, roleFirst_fold, h.roles, e]

theorem View.Same.tid {v v' : View} (h : View.Same v v') : v'.tid = v.tid := by
  obtain ⟨ts, e⟩ := h.grp
  unfold View.tid; rw [e, h.gtid]

theorem View.Same.recidx {v v' : View} (h : View.Same v v') : v'.recidx = v.recidx := by
  obtain ⟨gs, e⟩ := h.wg
  unfold View.recidx; rw [h.roleFirst, h.tid, e]

/-- Sources read the same. -/
theorem View.Same.read {v v' : View} (h : View.Same v v') (c : BitVec 7) : v'.read c = v.read c := by
  obtain ⟨ts, e⟩ := h.grp
  unfold View.read
  split <;> simp only [*, h.thread, h.gtid, h.tid, h.recidx, View.lane]

theorem View.Same.fourth {v v' : View} (h : View.Same v v') : v'.fourth = v.fourth := by
  unfold View.fourth; rw [h.thread]; split <;> simp only [h.read]

theorem View.Same.operands {v v' : View} (h : View.Same v v') (a b : BitVec 7) : v'.operands a b = v.operands a b := by
  unfold View.operands; rw [h.read, h.read, h.fourth, h.thread]

theorem View.Same.inactiveDest {v v' : View} (h : View.Same v v') (d : BitVec 7) (lat : Option Nat) :
    v'.inactiveDest d lat = v.inactiveDest d lat := by
  unfold View.inactiveDest; rw [h.thread]; split <;> simp only [h.read]

/-- The checks come out the same. -/
theorem View.Same.check {v v' : View} (h : View.Same v v') (f : Form) : f.check v' = f.check v := by
  obtain ⟨ts, e⟩ := h.grp
  unfold Form.check; rw [h.thread, e]

/-- After another thread of the group is set, a thread's view is the same but for that thread. -/
theorem State.view?_setThread_ne {w g t u : Nat} {x : Thread} {v : View} (h : u ≠ t) (hv : s.view? w g u = some v) :
    ∃ v', (s.setThread ⟨w, g, t⟩ x).view? w g u = some v' ∧ View.Same v v' := by
  obtain ⟨h1, h2, h3, h4⟩ := State.view?_eq_some.mp hv
  refine ⟨⟨{ v.wg with groups := v.wg.groups.modify g fun y => { y with threads := y.threads.modify t fun _ => x } },
    { v.grp with threads := v.grp.threads.modify t fun _ => x }, v.gtid, v.t⟩, State.view?_eq_some.mpr ⟨?_, ?_, ?_, h4⟩, ?_⟩
  · simp only [State.setThread, State.modThread, State.wg?_modGrp, h1]; rfl
  · simp [h2]
  · simp [Ne.symm h, h3]
  · refine ⟨rfl, rfl, ⟨_, rfl⟩, ⟨_, rfl⟩, ?_⟩
    apply List.ext_getElem?
    intro i
    simp only [List.getElem?_map, List.getElem?_modify]
    by_cases hi : g = i
    · subst hi; simp only [if_true]; cases v.wg.groups[g]? <;> rfl
    · simp only [hi, if_false]; cases v.wg.groups[i]? <;> rfl

end Sys2Proof.Machine
end

