-- ==== Sys2Proof/Laws/Issue.lean ====
section
/-! SUPPORT. What the ways of running an instruction do, said once: lanes that all pass, one thread alone, a group together,
events; and that a word executed by threads, and an event with the power on, always answers a next state. -/

namespace Sys2Proof.Machine

open Sys2Proof

variable {s : State}

/-! ### Lanes -/

/-- Lanes that each act on their own thread alone, and that pass their checks, act together. -/
theorem foldl_lane_eq {f : Form} {body : Lane} {w g : Nat} {th : View → Thread} (ts : List Nat) (hn : ts.Nodup) (x : State)
    (hx : ∃ l, x = { s with wgs := l })
    (hb : ∀ y, (∃ l, y = { s with wgs := l }) → ∀ t ∈ ts, ∀ v v', s.view? w g t = some v → View.Same v v' →
      body y v' = (y, .ok (th v)))
    (hv : ∀ t ∈ ts, ∃ v v', s.view? w g t = some v ∧ x.view? w g t = some v' ∧ View.Same v v' ∧ f.check v = .ok ()) :
    ts.foldl (State.lane f body w g) (x, []) =
      (ts.foldl (fun x t => match s.view? w g t with | none => x | some v => x.setThread ⟨w, g, t⟩ (th v)) x, []) := by
  induction ts generalizing x with
  | nil => rfl
  | cons t r ih =>
    obtain ⟨v, v', e, e', same, ck⟩ := hv t (List.mem_cons_self ..)
    have step : State.lane f body w g (x, []) t = (x.setThread ⟨w, g, t⟩ (th v), []) := by
      simp only [State.lane, e', same.check, ck, hb x hx t (List.mem_cons_self ..) v v' e same]
    rw [List.foldl_cons, step, List.foldl_cons, e]
    have hx' : ∃ l, x.setThread ⟨w, g, t⟩ (th v) = { s with wgs := l } := by
      obtain ⟨l, rfl⟩ := hx
      exact ⟨_, rfl⟩
    refine ih (List.nodup_cons.mp hn).2 _ hx' (fun y hy u hu => hb y hy u (List.mem_cons_of_mem _ hu)) (fun u hu => ?_)
    obtain ⟨a, a', k, k', sa, ca⟩ := hv u (List.mem_cons_of_mem _ hu)
    have hne : u ≠ t := by rintro rfl; exact (List.nodup_cons.mp hn).1 hu
    obtain ⟨a'', k'', sa'⟩ := State.view?_setThread_ne (x := th v) hne k'
    exact ⟨a, a'', k, k'', sa.trans sa', ca⟩

/-- A word that each thread executes for itself, when every thread passes. Its lanes find a machine that differs from that before
the instruction in workgroups only. -/
theorem State.Executes.perLane_eq {f : Form} {w g : Nat} {ts : List Nat} (h : s.Executes f w g ts) {body : Lane}
    {th : View → Thread}
    (hb : ∀ y, (∃ l, y = { s with wgs := l }) → ∀ t ∈ ts, ∀ v v', s.view? w g t = some v → View.Same v v' →
      body y v' = (y, .ok (th v))) :
    s.perLane f body = .next (s.lanes w g ts th) := by
  have e := foldl_lane_eq (f := f) (s := s) ts h.nodup s ⟨s.wgs, rfl⟩ hb (fun t ht => by
    obtain ⟨v, k, c⟩ := h.checks t ht
    exact ⟨v, v, k, k, View.Same.refl v, c⟩)
  simp only [State.perLane, h.cur, e, State.takeHits, List.isEmpty_nil, if_true]
  rfl

/-- A vector instruction whose operation reads its lane alone and does not trap. -/
theorem State.Executes.vector_eq {f : Form} {w g : Nat} {ts : List Nat} (h : s.Executes f w g ts) {lat : Option Nat}
    {op : Compute} {th : View → Thread} {r : View → Reg} (ho : ∀ v v', View.Same v v' → op v' = .ok (th v, r v)) :
    s.vector f lat op = .next (s.lanes w g ts (View.vectorResult f.dst lat th r)) := by
  refine h.perLane_eq fun y _ t _ v v' _ same => ?_
  simp only [vectorLane, same.thread, ho v v' same, View.vectorResult]
  split
  · rfl
  · simp only [same.inactiveDest]

/-- An integer instruction with a vector destination that does not trap. -/
theorem State.Executes.intOp_eq {f : Form} {w g : Nat} {ts : List Nat} (h : s.Executes f w g ts) (hf : f.scalar = false)
    {lat : Option Nat} {a b : BitVec 7} {op : Operands → Except Trap (Reg × FlagSet)} {r : Operands → Reg}
    {fl : Operands → FlagSet} (ho : ∀ o, op o = .ok (r o, fl o)) :
    s.intOp f a b lat op = .next (s.lanes w g ts (View.vectorResult f.dst lat
      (fun v => v.t.raise (fl (v.operands a b))) (fun v => r (v.operands a b)))) := by
  unfold State.intOp
  rw [hf]
  exact h.vector_eq fun v v' same => by simp only [ho, same.operands, same.thread]

/-- An instruction that writes a predicate. -/
theorem State.Executes.pred_eq {f : Form} {w g : Nat} {ts : List Nat} (h : s.Executes f w g ts) {p : BitVec 4}
    {op : View → Thread × Bool} {th : View → Thread} {r : View → Bool} (ho : ∀ v v', View.Same v v' → op v' = (th v, r v)) :
    s.perLane f (predLane p 4 op) = .next (s.lanes w g ts (View.predResult p th r)) := by
  refine h.perLane_eq fun y _ t _ v v' _ same => ?_
  simp only [predLane, same.thread, ho v v' same, View.predResult]
  split <;> rfl

/-! ### One thread alone -/

/-- A word that one thread executes. -/
theorem State.Alone.perLane_eq {f : Form} {w g : Nat} {v : View} (h : s.Alone f w g v) (body : Lane) :
    s.perLane f body = .next (match body s v with
      | (t, .error x) => t.takeFault (.ofGroup w g [(v.gtid, x)])
      | (t, .ok th) => t.setThread ⟨w, g, v.gtid⟩ th) := by
  simp only [State.perLane, h.cur, List.foldl_cons, List.foldl_nil, State.lane, h.view, h.check]
  rcases body s v with ⟨t, _ | _⟩ <;> rfl

/-- One thread executes by itself what the lanes execute together. -/
theorem State.Alone.executes {f : Form} {w g : Nat} {v : View} (h : s.Alone f w g v) : s.Executes f w g [v.gtid] :=
  ⟨h.cur, List.nodup_singleton _, fun t ht => by
    obtain rfl := List.mem_singleton.mp ht
    exact ⟨v, h.view, h.check⟩⟩

/-- The workgroup a view names. -/
theorem State.Alone.wg_id {f : Form} {w g : Nat} {v : View} (h : s.Alone f w g v) : v.wg.id = w :=
  State.wg?_id (State.view?_eq_some.mp h.view).1

/-! ### A group together -/

theorem Group.mem_liveGtids {gr : Group} {i : Nat} :
    i ∈ gr.liveGtids ↔ ∃ t, gr.threads[i]? = some t ∧ t.isLive = true := by
  simp only [Group.liveGtids, List.mem_filter, List.mem_range]
  constructor
  · rintro ⟨hi, h⟩
    obtain ⟨t, e⟩ : ∃ t, gr.threads[i]? = some t := ⟨_, List.getElem?_eq_getElem hi⟩
    exact ⟨t, e, by simpa [e] using h⟩
  · rintro ⟨t, e, h⟩
    exact ⟨(List.getElem?_eq_some_iff.mp e).1, by simp [e, h]⟩

theorem Group.liveGtids_nodup (gr : Group) : gr.liveGtids.Nodup := List.nodup_range.filter _

/-- When every thread passes its checks none is turned away. -/
theorem uniformHits_nil {f : Form} {w g : Nat} {ts : List Nat}
    (h : ∀ t ∈ ts, ∃ v, s.view? w g t = some v ∧ f.check v = .ok ()) : s.uniformHits f w g ts = [] := by
  simp only [State.uniformHits, List.filterMap_eq_nil_iff]
  intro t ht
  obtain ⟨v, e, c⟩ := h t ht
  simp only [e, c]

/-- The group once some of its threads have arrived. -/
theorem grp?_arriveUniform (w g : Nat) (ts : List Nat) {gr : Group} (h : s.grp? w g = some gr) :
    (s.arriveUniform w g ts).grp? w g =
      some { gr with threads := ts.foldl (fun l t => l.modify t fun x => { x with wait := .uniform }) gr.threads } := by
  unfold State.arriveUniform
  induction ts generalizing s gr with
  | nil => simpa using h
  | cons t r ih =>
    rw [List.foldl_cons, List.foldl_cons]
    have e : (s.modThread ⟨w, g, t⟩ fun x => { x with wait := .uniform }).grp? w g =
        some { gr with threads := gr.threads.modify t fun x => { x with wait := .uniform } } := by
      simp only [State.modThread, State.grp?_modGrp, h, Option.map_some]
    exact ih e

/-- A thread of a list after some of its places have been marked as waiting. -/
theorem getElem?_marked (ts : List Nat) (l : List Thread) (i : Nat) :
    (ts.foldl (fun l t => l.modify t fun x => { x with wait := .uniform }) l)[i]? =
      if i ∈ ts then (l[i]?).map (fun x => { x with wait := Wait.uniform }) else l[i]? := by
  induction ts generalizing l with
  | nil => simp
  | cons t r ih =>
    rw [List.foldl_cons, ih, List.getElem?_modify]
    by_cases hit : t = i
    · subst hit
      cases l[t]? <;> simp
    · have : i ≠ t := fun h => hit h.symm
      simp [hit, this]

/-- Once a group has gathered each of its live threads waits, where it stood. -/
theorem gathered_threads {gr : Group} {i : Nat} {t : Thread}
    (h : (gr.liveGtids.foldl (fun l t => l.modify t fun x => { x with wait := .uniform }) gr.threads)[i]? = some t) :
    ∃ u, gr.threads[i]? = some u ∧ t = if u.isLive then { u with wait := .uniform } else u := by
  rw [getElem?_marked] at h
  split at h <;> rename_i hm
  · obtain ⟨u, e, live⟩ := Group.mem_liveGtids.mp hm
    rw [e, Option.map_some, Option.some.injEq] at h
    exact ⟨u, e, by rw [live]; exact h.symm⟩
  · refine ⟨t, h, ?_⟩
    have : t.isLive = false := by
      by_contra hl
      exact hm (Group.mem_liveGtids.mpr ⟨t, h, by simpa using hl⟩)
    simp [this]

/-- The group-uniform rendezvous of R28, when it forms at this issue. -/
theorem State.Together.uniform_eq {f : Form} {w g : Nat} {gr : Group} {pc : BitVec 56} {ws : Words}
    (h : s.Together f w g gr pc ws) (act : State → Nat → Nat → Words → GroupAct) :
    s.uniform f act = .next (match act (s.gathered w g gr) w g ws with
      | .done t => t.groupSteps w g
      | .wait t => t.groupWaits w g
      | .settled t => t
      | .fault t x => t.takeFault (t.groupDelivery w g x)) := by
  have hits := uniformHits_nil h.checks
  have all : gr.liveGtids.filter (fun t => !(([] : List (Nat × Trap)).any fun e => e.1 == t)) = gr.liveGtids := by simp
  obtain ⟨i, r, hl⟩ : ∃ i r, gr.liveGtids = i :: r := by
    cases e : gr.liveGtids with
    | nil => exact absurd e h.live
    | cons i r => exact ⟨i, r, rfl⟩
  have first : (gr.liveGtids.head?.bind fun t => (s.thread? ⟨w, g, t⟩).map fun x => (x.pc, x.words)) = some (pc, ws) := by
    obtain ⟨t, e, live⟩ := Group.mem_liveGtids.mp (show i ∈ gr.liveGtids by rw [hl]; exact List.mem_cons_self ..)
    obtain ⟨h1, h2⟩ := h.stand t (List.mem_of_getElem? e) live
    simp only [hl, List.head?_cons, Option.bind_some, State.thread?, h.grp, e, Option.map_some, h1, h2]
  have grp := grp?_arriveUniform w g gr.liveGtids h.grp
  generalize hthreads : gr.liveGtids.foldl (fun l t => l.modify t fun x => { x with wait := Wait.uniform }) gr.threads = l at grp
  have stands : ∀ t ∈ l, t.isLive = true → t.wait = .uniform ∧ t.pc = pc := by
    intro t ht live
    obtain ⟨k, hk⟩ := List.mem_iff_getElem?.mp ht
    obtain ⟨u, e, rfl⟩ := gathered_threads (by rw [hthreads]; exact hk)
    by_cases hu : u.isLive = true
    · simp only [hu, if_true]
      exact ⟨trivial, (h.stand u (List.mem_of_getElem? e) hu).1⟩
    · simp only [hu] at live; exact absurd live hu
  have liveNe : ({ gr with threads := l } : Group).liveGtids.isEmpty = false := by
    obtain ⟨t, e, live⟩ := Group.mem_liveGtids.mp (show i ∈ gr.liveGtids by rw [hl]; exact List.mem_cons_self ..)
    have hi : i ∈ gr.liveGtids := Group.mem_liveGtids.mpr ⟨t, e, live⟩
    have : l[i]? = some { t with wait := .uniform } := by
      rw [← hthreads, getElem?_marked, if_pos hi, e]; rfl
    have mem : i ∈ ({ gr with threads := l } : Group).liveGtids := Group.mem_liveGtids.mpr ⟨_, this, live⟩
    cases hc : ({ gr with threads := l } : Group).liveGtids with
    | nil => rw [hc] at mem; simp at mem
    | cons _ _ => rfl
  have a1 : ({ gr with threads := l } : Group).allLive (fun t => t.wait ≠ .uniform || t.pc == pc) = true := by
    simp only [Group.allLive, List.all_eq_true]
    intro t ht
    by_cases live : t.isLive = true
    · simp [live, (stands t ht live).2]
    · simp [live]
  have a2 : ({ gr with threads := l } : Group).allLive (fun t => t.wait = .uniform) = true := by
    simp only [Group.allLive, List.all_eq_true]
    intro t ht
    by_cases live : t.isLive = true
    · simp [live, (stands t ht live).1]
    · simp [live]
  simp only [State.uniform, h.cur, hits, all, first, State.takeHits, List.isEmpty_nil, if_true, grp, a1, a2, liveNe,
    Bool.not_true, Bool.or_self, Bool.false_eq_true, if_false, State.gathered]
  cases act (s.arriveUniform w g gr.liveGtids) w g ws <;> rfl

/-! ### Every word answers -/

theorem perLane_answers (h : s.cur.isSome) (f : Form) (b : Lane) : Answers (s.perLane f b) := by
  obtain ⟨u, hu⟩ := Option.isSome_iff_exists.mp h
  simp [State.perLane, hu, Answers]

theorem vector_answers (h : s.cur.isSome) (f : Form) (lat : Option Nat) (op : Compute) : Answers (s.vector f lat op) :=
  perLane_answers h _ _

theorem uniform_answers (h : s.cur.isSome) (f : Form) (act : State → Nat → Nat → Words → GroupAct) :
    Answers (s.uniform f act) := by
  obtain ⟨u, hu⟩ := Option.isSome_iff_exists.mp h
  simp only [State.uniform, hu]
  repeat' split
  all_goals exact ⟨_, rfl⟩

theorem intOp_answers (h : s.cur.isSome) (f : Form) (a b : BitVec 7) (lat : Option Nat)
    (op : Operands → Except Trap (Reg × FlagSet)) : Answers (s.intOp f a b lat op) := by
  unfold State.intOp
  split
  · exact uniform_answers h _ _
  · exact vector_answers h _ _ _

theorem rendezvous_answers (h : s.cur.isSome) (f : Form) (b : BitVec 7) (wait : View → Reg → Bool → Wait)
    (finish : State → Nat → Nat → List Nat → State) : Answers (s.rendezvous f b wait finish) := by
  obtain ⟨u, hu⟩ := Option.isSome_iff_exists.mp h
  simp [State.rendezvous, hu, Answers]

theorem event_answers (h : s.power = true) (f : State → Input → State) : Answers (s.event f) := by
  simp [State.event, h, Answers]

theorem management_answers (h : s.power = true) (f : State → Input → State) : Answers (s.management f) := by
  simp [State.management, h, Answers]

/-- An event while the module runs. -/
theorem event_eq (h : s.power = true) (r : s.running = true) (f : State → Input → State) : s.event f = .next (f s s.input) := by
  simp [State.event, h, r]

/-- An event of the management controller. -/
theorem management_eq (h : s.power = true) (f : State → Input → State) : s.management f = .next (f s s.input) := by
  simp [State.management, h]

end Sys2Proof.Machine
end

