-- ==== Sys2Proof/Tests/Slice0.lean ====
section
/-! SUPPORT. Tests of the model's own: ill-formed terms that the checks refuse, words of every family, and single instructions on
values that the spec works out. -/

open Sys2Proof Sys2Proof.Machine Sys2Proof.Rules

namespace Sys2Proof.Tests

set_option Elab.async false

/-! ### A small machine -/

/-- A thread whose register i holds 16 i + k. -/
def bthread (k : Nat) : Thread :=
  { Thread.entry 0x100000 0 1 with regs := Vector.ofFn fun i => BitVec.ofNat 64 (16 * i.val + k) }

/-- A Ready module with one context and one workgroup, whose one group has the given threads; `ts` execute the word in hand. -/
def machine (th : List Thread) (ts : List Nat) : State :=
  let s := State.reset.loaded
  let f (x : Workgroup) : Workgroup := { x with groups := [Group.entry 0 64 0 0 0 th] }
  { s with agenda := [], cur := some ⟨0, 0, ts⟩, ir := 0xABCDE, wgs := s.wgs.map f }

/-- A machine of `n` threads that all execute the word in hand. -/
def bench (n : Nat) : State := machine ((List.range n).map bthread) (List.range n)

/-- A thread with registers g0, g1, … as given. -/
def holding (l : List Nat) : Thread :=
  { Thread.entry 0x100000 0 1 with regs := Vector.ofFn fun i => BitVec.ofNat 64 (l.getD i.val 0) }

/-- One thread with registers as given, which executes the word in hand. -/
def one (l : List Nat) : State := machine [holding l] [0]

/-- A machine whose threads are changed. -/
def withThreads (f : Thread → Thread) (s : State) : State :=
  { s with wgs := s.wgs.map fun x => { x with groups := x.groups.map fun g => { g with threads := g.threads.map f } } }

/-- A machine whose group 0 is changed. -/
def withGroup (f : Group → Group) (s : State) : State :=
  { s with wgs := s.wgs.map fun x => { x with groups := x.groups.map f } }

/-- A machine whose workgroup is changed. -/
def withWg (f : Workgroup → Workgroup) (s : State) : State := { s with wgs := s.wgs.map f }

/-- The machine after an instruction. -/
def after (i : Instr) (s : State) : State := match exec i s with
  | .next t => t
  | _ => s

/-- A place of a thread of group 0, whether its value has arrived or is on its way. -/
def got (s : State) (j : Nat) (p : Target) : Option Nat := match s.thread? ⟨0, 0, j⟩ with
  | some t => match t.arriving.find? fun a => a.target = p with
    | some a => some a.value.toNat
    | none => some (t.value p).toNat
  | none => none

/-- A field of a thread of group 0. -/
def field {α : Type} (s : State) (j : Nat) (f : Thread → α) : Option α := (s.thread? ⟨0, 0, j⟩).map f

/-- A node of a program of one role, with four out-ports: to node 1, a completion port, to itself, to another package. -/
def programNode : NodeDesc :=
  { kind := .program, clust := 1, final := false, gather := 0, home := 0, rsize := 0, imode := 0, depth := 3, tiles := 0, tables := 0,
    regq := 1, spadq := 1, l1q := 2, exch := 0, rcb := 5, per := 1, timer := 100, cap := 4, min := 1,
    ports := [{ valid := true, remote := false, compl := false, pkg := 0, node := 1, rdepth := 0 },
      { valid := true, remote := false, compl := true, pkg := 0, node := 1, rdepth := 0 },
      { valid := true, remote := false, compl := false, pkg := 0, node := 0, rdepth := 0 },
      { valid := true, remote := true, compl := false, pkg := 7, node := 1, rdepth := 3 }],
    roles := [{ entry := 0x100000, regs := 16, groups := 1, threads := 2 }], body := [] }

/-- A node of a running graph with nothing in it. -/
def emptyNode (d : NodeDesc) : Node :=
  { desc := d, queue := [], waiting := [], chunks := [], nextChunk := 0, launches := 0, finalClosed := false, candidateSince := none,
    timerDue := false, killed := false, joinLeft := 0, joinDepth := 0, fired := false, held := [], copyLaunches := [] }

/-- A region of a policy, with no budget but the context's. -/
def region (index policy : Nat) : Region :=
  { index := index, parent := none, wgs := none, quires := none, tiles := none, rsbytes := none, prio := 1, policy := policy, preempt := 2,
    timeout := 1000, seed := 1 }

/-- A graph of two such nodes. -/
def plainGraph (policy : Nat) : Graph :=
  { id := 0, ctx := 1024, queue := 0, graphid := 77, entry := 0, nodes := [emptyNode programNode, emptyNode programNode],
    regions := [region 5 policy], hostLeft := [], feeding := false, fscope := 3, sigaddr := 0, sigval := 0, stataddr := 0, faults := 0,
    overflow := 0, stranded := 0, remoteOut := [], credits := [], stalls := [] }

/-- A machine whose workgroup belongs to that graph, in a context with a fault log. -/
def inGraph (policy : Nat) (s : State) : State :=
  { s with graphs := [plainGraph policy], ctxs := s.ctxs.map fun c => { c with logBase := 0x300000 } }

/-- Whether each word decodes to its instruction. -/
def reads (l : List (Nat × Instr)) : Bool := l.all fun x => decodeTableWord 32 x.1 = some x.2

/-! ### Ill-formed terms are refused -/

/-- R70: a destination code that is reserved, and a source code that is (R69). -/
theorem test_ill_formed_codes :
    [Instr.iadd32 0x42 1 2, .iadd32 1 0x7D 2, .iadd32 1 2 0x7F, .fadd 0x70 1 2].all (fun i => !i.wellFormed) = true := by
  decide +kernel

/-- R29, R116: an s-register from vector sources, and from an instruction that writes none. -/
theorem test_ill_formed_scalar_destinations :
    [Instr.iadd32 0x50 1 0x51, .fadd 0x50 0x51 0x52, .isel 0x50 0x51 0x52 12 0, .match32 0x50 0x51 0x52].all
      (fun i => !i.wellFormed) = true := by decide +kernel

/-- R27: a predicate destination of 12 or more, a predicate source of 14 or more. -/
theorem test_ill_formed_predicates :
    [Instr.icmp 12 0 1 2 2, .pset 13 0 1 2, .pset 1 0 14 2, .bra 15 0 0, .isel 1 2 3 14 0, .emitq 0 12].all
      (fun i => !i.wellFormed) = true := by decide +kernel

/-- R75, R107, R131: conditions and types that a compare does not have. -/
theorem test_ill_formed_compares :
    [Instr.icmp 0 6 1 2 2, .icmp 0 0 1 2 4, .fcmp 0 8 1 2 8, .fcmp 0 0 1 2 2, .icmp 0 0 1 2 8].all
      (fun i => !i.wellFormed) = true := by decide +kernel

/-- R135: pairs of types and rounding codes that a conversion does not have. -/
theorem test_ill_formed_conversions :
    [Instr.frnd 1 2 8 8 6, .fcvt 1 2 8 8 0, .fcvt 1 2 8 9 7, .fcvti 1 2 8 2 7, .icvtf 1 2 8 8 0, .frnd 1 2 8 9 0].all
      (fun i => !i.wellFormed) = true := by decide +kernel

/-- R74, R142: a space, a size or a scope that is reserved. -/
theorem test_ill_formed_accesses :
    [Instr.ld 1 2 3 2 0, .ld 1 2 0 7 0, .st 1 2 0 4 0, .ldAcq 1 2 0 2 6 0, .stRel 1 2 0 2 7 0, .ldx 1 2 3 0 7, .stx 1 2 3 0 5,
      .xst 1 2 0 4 0].all (fun i => !i.wellFormed) = true := by decide +kernel

/-- R150: scopes and predicates that a form of major 0x20 does not have. -/
theorem test_ill_formed_syncs :
    [Instr.fence 6, .fenceAcq 7, .fenceRel 6, .barArrive 6 0 1, .barWait 6 0 1, .barSync 7 0 1, .barTest 0 0 1 3, .barTest 0 0 1 12,
      .gsync 6, .wsync 0, .cwb 2 1 2, .icinv 2 1 2].all (fun i => !i.wellFormed) = true := by decide +kernel

/-- R36, R252: a selector of no special value, and one that differs from thread to thread into an s-register. -/
theorem test_ill_formed_selectors :
    [Instr.sysrd 1 16, .sysrd 0x50 0, .sysrd 0x51 13].all (fun i => !i.wellFormed) = true := by decide +kernel

/-- R87, R162, R216: a gang field, a walk's destination, and an engine's scalar registers out of their ranges. -/
theorem test_ill_formed_engine_words :
    [Instr.mma 0 1 0 1 15 63, .walkset 1 0x51 0x52, .walkset 0x50 1 0x52, .walknext 1, .cpy 0 25 0 0, .lay 0 29 0 0, .lay 0 0 31 0,
      .topk 0 31 0, .texp 0 31 0].all (fun i => !i.wellFormed) = true := by decide +kernel

/-- One term of each of those forms with legal fields is well formed. -/
theorem test_well_formed :
    [Instr.iadd32 0x41 1 0x7C, .iadd32 0x50 0x51 0x70, .icmp 11 5 1 2 7, .fcmp 0 7 1 2 8, .frnd 1 2 8 8 5, .fcvt 1 2 8 9 6,
      .ld 1 2 2 6 0x40, .st 1 2 1 3 0, .ldAcq 1 2 0 2 5 0, .fence 5, .wsync 1, .cwb 5 1 2, .icinv 3 1 2, .barTest 0 0 1 10,
      .sysrd 0x50 3, .sysrd 1 15, .mma 0 1 0 7 15 63, .walkset 0x50 0x51 0x52, .cpy 0 24 31 1, .lay 0 28 30 0, .emitq 7 11].all
      Instr.wellFormed = true := by decide +kernel

/-! ### Words -/

/-- The words that the chapters of the spec encode as examples. -/
theorem test_words_of_the_spec : reads [
    (0x10202011, .iaddImm32 4 2 0x011), (0xF8D48300, .prefixWord), (0x52001043, .ffma 0x40 1 2), (0xFE001234, .wideHint),
    (0xFEACF135, .wideHint), (0x283BCDEF, .movi 7 0x3CDEF), (0x356FFFFD, .bra 5 1 0xFFFFD), (0xFC000001, .stallHint),
    (0x0C28114B, .bilv 5 1 0x0A), (0x3B000100, .call 12 0 0x100), (0x3C000000, .nop), (0x40302A00, .ballot 6 2 0x50),
    (0x50181040, .fadd 3 1 2), (0x2C481038, .fcmp 1 2 2 3 8), (0x5418104C, .fpackE4m3 3 1 2), (0x54283088, .f8dot4E4m3 5 3 4),
    (0x582848B2, .fcvt 5 4 8 11 1), (0x44388201, .fflagsClr 7 8), (0x60282110, .ld 5 2 0 2 0x10), (0x643835FF, .st 7 3 1 3 0x7F),
    (0x70302062, .ldx 6 2 3 0 2), (0x68282131, .ldAcq 5 2 0 2 3 1), (0x7A004E21, .atomAdd 0x40 4 0x71 1), (0x80608082, .barArm 2 1 2),
    (0x80E4B880, .barSync 1 2 0x71), (0x84282504, .xst 5 2 1 2 4)] = true := by decide +kernel

/-- The words that the chapters of the engines encode as examples. -/
theorem test_engine_words_of_the_spec : reads [
    (0x908510C1, .mma 4 5 0 4 3 1), (0x98002980, .gang 0 0x53), (0x9431C8F0, .mtrans 6 7 1 0 15), (0x98520000, .accld 2 8),
    (0x98818000, .accst 0 6), (0x99000000, .mwait 0), (0x99427900, .mflags 9 0x72), (0x3C100006, .tick 2), (0x48012345, .mark),
    (0x49000007, .trap), (0x4A000000, .brk), (0x44180000, .sysrd 3 0), (0x46880007, .sysrd 0x51 7), (0x44305121, .syswrSrg 6 5),
    (0xA0808802, .layq 4 8 2), (0xA0488800, .lay 2 4 8 0), (0xA0051000, .cpy 1 8 16 0), (0xA0011001, .cpy 0 8 16 1),
    (0xA0CD4000, .topk 3 10 0), (0xA1028000, .texp 0 20 0), (0xA1518000, .coll 4 12 0), (0xA1800000, .cwait), (0xA400E600, .recInit 7 3),
    (0xA4A00000, .emit 2), (0xA5000800, .emitq 0 4), (0xA5900000, .eport 1)] = true := by decide +kernel

/-- R88: reserved majors and fields that are not zero make no instruction. -/
theorem test_words_refused :
    [0x3C00_0007, 0xA800_0000, 0x0400_001F, 0x0C00_0021, 0xF800_0001].all (fun w => (decodeTableWord 32 w).isNone) = true := by decide +kernel

/-- The words of the family, with fields of their own: R66, R85, R86 and the tables of chapter 03. -/
theorem test_decode_integer32 : reads [
    (0x00000000, .zeroWord), (0x04A020A0, .iadd32 0x14 2 5), (0x04A020A1, .isub32 0x14 2 5), (0x04A020A2, .imul32 0x14 2 5),
    (0x04A020A3, .imulh32 0x14 2 5), (0x04A020A4, .imulhn32 0x14 2 5), (0x04A020A5, .idiv32 0x14 2 5),
    (0x04A020A6, .idivn32 0x14 2 5), (0x04A020A7, .irem32 0x14 2 5), (0x04A020A8, .iremn32 0x14 2 5),
    (0x04A020A9, .iminI32 0x14 2 5), (0x04A020AA, .iminN32 0x14 2 5), (0x04A020AB, .imaxI32 0x14 2 5),
    (0x04A020AC, .imaxN32 0x14 2 5), (0x04A0200D, .iabs32 0x14 2), (0x04A020AE, .and32 0x14 2 5),
    (0x04A020AF, .or32 0x14 2 5), (0x04A020B0, .xor32 0x14 2 5), (0x04A020B1, .andn32 0x14 2 5),
    (0x04A020B2, .shl32 0x14 2 5), (0x04A020B3, .shr32 0x14 2 5), (0x04A020B4, .sra32 0x14 2 5),
    (0x04A020B5, .rotl32 0x14 2 5), (0x04A020B6, .imad32 0x14 2 5)] = true := by decide +kernel

/-- The words of the family, with fields of their own: R66, R85, R86 and the tables of chapter 03. -/
theorem test_decode_integer64 : reads [
    (0x08A020A0, .iadd64 0x14 2 5), (0x08A020A1, .isub64 0x14 2 5), (0x08A020A2, .imul64 0x14 2 5),
    (0x08A020A3, .imulh64 0x14 2 5), (0x08A020A4, .imulhn64 0x14 2 5), (0x08A020A5, .idiv64 0x14 2 5),
    (0x08A020A6, .idivn64 0x14 2 5), (0x08A020A7, .irem64 0x14 2 5), (0x08A020A8, .iremn64 0x14 2 5),
    (0x08A020A9, .iminI64 0x14 2 5), (0x08A020AA, .iminN64 0x14 2 5), (0x08A020AB, .imaxI64 0x14 2 5),
    (0x08A020AC, .imaxN64 0x14 2 5), (0x08A0200D, .iabs64 0x14 2), (0x08A020AE, .and64 0x14 2 5),
    (0x08A020AF, .or64 0x14 2 5), (0x08A020B0, .xor64 0x14 2 5), (0x08A020B1, .andn64 0x14 2 5),
    (0x08A020B2, .shl64 0x14 2 5), (0x08A020B3, .shr64 0x14 2 5), (0x08A020B4, .sra64 0x14 2 5),
    (0x08A020B5, .rotl64 0x14 2 5), (0x08A020B6, .imad64 0x14 2 5)] = true := by decide +kernel

/-- The words of the family, with fields of their own: R66, R85, R86 and the tables of chapter 03. -/
theorem test_decode_bits : reads [
    (0x0CA02000, .popc32 0x14 2), (0x0CA02001, .popc64 0x14 2), (0x0CA02002, .clz32 0x14 2), (0x0CA02003, .clz64 0x14 2),
    (0x0CA02004, .ctz32 0x14 2), (0x0CA02005, .ctz64 0x14 2), (0x0CA02006, .brev32 0x14 2), (0x0CA02007, .brev64 0x14 2),
    (0x0CA020A8, .bfxI64 0x14 2 5), (0x0CA020A9, .bfxN64 0x14 2 5), (0x0CA020AA, .bfi 0x14 2 5), (0x0CA020AB, .bilv 0x14 2 5),
    (0x0CA020AC, .bdilv 0x14 2 5), (0x0CA020AD, .perm8 0x14 2 5), (0x0CA020AE, .fsh32 0x14 2 5),
    (0x0CA020AF, .fsh64 0x14 2 5), (0x0CA02010, .sextI8 0x14 2), (0x0CA02011, .sextI16 0x14 2), (0x0CA02012, .sextI32 0x14 2),
    (0x0CA02013, .zextN8 0x14 2), (0x0CA02014, .zextN16 0x14 2), (0x0CA02015, .zextN32 0x14 2), (0x0CA02016, .mov 0x14 2),
    (0x0CA020B7, .addr 0x14 2 5), (0x0CA020B8, .dot4I8 0x14 2 5), (0x0CA020B9, .dot4N8 0x14 2 5)] = true := by decide +kernel

/-- The words of the family, with fields of their own: R66, R85, R86 and the tables of chapter 03. -/
theorem test_decode_immediates : reads [
    (0x10A02ABC, .iaddImm32 0x14 2 0xabc), (0x14A02ABC, .iaddImm64 0x14 2 0xabc), (0x18A02ABC, .andImm 0x14 2 0xabc),
    (0x1CA02ABC, .orImm 0x14 2 0xabc), (0x20A02ABC, .xorImm 0x14 2 0xabc), (0x24A02013, .shlImm32 0x14 2 0x13),
    (0x24A0222D, .shlImm64 0x14 2 0x2d), (0x24A02413, .shrImm32 0x14 2 0x13), (0x24A0262D, .shrImm64 0x14 2 0x2d),
    (0x24A02813, .sraImm32 0x14 2 0x13), (0x24A02A2D, .sraImm64 0x14 2 0x2d), (0x24A02C13, .rotlImm32 0x14 2 0x13),
    (0x24A02E2D, .rotlImm64 0x14 2 0x2d), (0x28A4D2F1, .movi 0x14 0x4d2f1)] = true := by decide +kernel

/-- The words of the family, with fields of their own: R66, R85, R86 and the tables of chapter 03. -/
theorem test_decode_predicates_and_control : reads [
    (0x2D4CA023, .icmp 5 3 0x14 2 3), (0x2D4CA028, .fcmp 5 3 0x14 2 8), (0x314E7000, .pset 5 3 9 0xc),
    (0x3569A3C5, .bra 5 1 0x9a3c5), (0x3969A3C5, .call 5 1 0x9a3c5), (0x3C000000, .nop), (0x3C014001, .brx 0x14),
    (0x3C014002, .ret 0x14), (0x3C000003, .exit), (0x3C000004, .yieldTurn), (0x3C014005, .fuse 0x14),
    (0x3CA00006, .tick 0x14), (0x5CA020AB, .isel 0x14 2 5 5 1)] = true := by decide +kernel

/-- The words of the family, with fields of their own: R66, R85, R86 and the tables of chapter 03. -/
theorem test_decode_lane_and_status : reads [
    (0x40A020A0, .ballot 0x14 2 5), (0x40A020A1, .voteAny 0x14 2 5), (0x40A020A2, .voteAll 0x14 2 5),
    (0x40A020A3, .voteEq 0x14 2 5), (0x40A020A4, .match32 0x14 2 5), (0x40A020A5, .match64 0x14 2 5),
    (0x40A020A6, .shflIdx 0x14 2 5), (0x40A020A7, .shflUp 0x14 2 5), (0x40A020A8, .shflDn 0x14 2 5),
    (0x40A020A9, .shflXor 0x14 2 5), (0x40A020AA, .reduxAdd32 0x14 2 5), (0x40A020AB, .reduxMinI32 0x14 2 5),
    (0x40A020AC, .reduxMinN32 0x14 2 5), (0x40A020AD, .reduxMaxI32 0x14 2 5), (0x40A020AE, .reduxMaxN32 0x14 2 5),
    (0x40A020AF, .reduxAnd 0x14 2 5), (0x40A020B0, .reduxOr 0x14 2 5), (0x40A020B1, .reduxXor 0x14 2 5),
    (0x40A020B2, .reduxAdd64 0x14 2 5), (0x44A0005D, .sysrd 0x14 0x5d), (0x44A02120, .syswrImode 0x14 2),
    (0x44A02121, .syswrSrg 0x14 2), (0x44A00200, .fflagsRd 0x14), (0x44A02201, .fflagsClr 0x14 2),
    (0x44A02202, .fflagsCtl 0x14 2), (0x48000000, .mark), (0x49000000, .trap), (0x4A000000, .brk)] = true := by decide +kernel

/-- The words of the family, with fields of their own: R66, R85, R86 and the tables of chapter 03. -/
theorem test_decode_float : reads [
    (0x50A020A0, .fadd 0x14 2 5), (0x50A020A1, .fsub 0x14 2 5), (0x50A020A2, .fmul 0x14 2 5), (0x50A020A3, .ffma 0x14 2 5),
    (0x50A020A4, .fmin 0x14 2 5), (0x50A020A5, .fmax 0x14 2 5), (0x50A020A6, .fminn 0x14 2 5), (0x50A020A7, .fmaxn 0x14 2 5),
    (0x50A02008, .fabs 0x14 2), (0x50A02009, .fneg 0x14 2), (0x50A0200A, .frcp 0x14 2), (0x50A0200B, .frsq 0x14 2),
    (0x50A0200C, .fsqrt 0x14 2), (0x50A0200D, .fexp2 0x14 2), (0x50A0200E, .flog2 0x14 2), (0x50A0200F, .fsin 0x14 2),
    (0x50A02010, .fcos 0x14 2), (0x50A02011, .fclass 0x14 2)] = true := by decide +kernel

/-- The words of the family, with fields of their own: R66, R85, R86 and the tables of chapter 03. -/
theorem test_decode_packed_and_conversions : reads [
    (0x54A020A0, .hadd2F16 0x14 2 5), (0x54A020A1, .hadd2Bf16 0x14 2 5), (0x54A020A2, .hmul2F16 0x14 2 5),
    (0x54A020A3, .hmul2Bf16 0x14 2 5), (0x54A020A4, .hfma2F16 0x14 2 5), (0x54A020A5, .hfma2Bf16 0x14 2 5),
    (0x54A020A6, .fdot2F16 0x14 2 5), (0x54A020A7, .fdot2Bf16 0x14 2 5), (0x54A020A8, .f8dot4E4m3 0x14 2 5),
    (0x54A020A9, .f8dot4E5m2 0x14 2 5), (0x54A020AA, .fpackF16 0x14 2 5), (0x54A020AB, .fpackBf16 0x14 2 5),
    (0x54A020AC, .fpackE4m3 0x14 2 5), (0x54A020AD, .fpackE5m2 0x14 2 5), (0x58A0288A, .frnd 0x14 2 8 8 5),
    (0x58A0298A, .fcvt 0x14 2 9 8 5), (0x58A0282A, .fcvti 0x14 2 8 2 5), (0x58A0228A, .icvtf 0x14 2 2 8 5)] = true := by decide +kernel

/-- The words of the family, with fields of their own: R66, R85, R86 and the tables of chapter 03. -/
theorem test_decode_loads_and_stores : reads [
    (0x60A02A85, .ld 0x14 2 2 5 5), (0x64A02A85, .st 0x14 2 2 5 5), (0x68A02AA5, .ldAcq 0x14 2 2 5 2 5),
    (0x6CA02AA5, .stRel 0x14 2 2 5 2 5), (0x70A020B5, .ldx 0x14 2 5 2 5), (0x74A020B5, .stx 0x14 2 5 2 5),
    (0x84A02A85, .xst 0x14 2 2 5 5)] = true := by decide +kernel

/-- The words of the family, with fields of their own: R66, R85, R86 and the tables of chapter 03. -/
theorem test_decode_atomics : reads [
    (0x78A020A2, .atomAdd 0x14 2 5 2), (0x78A020A6, .atomMin 0x14 2 5 2), (0x78A020AA, .atomMax 0x14 2 5 2),
    (0x78A020AD, .atomAnd 0x14 2 5 1), (0x78A020AF, .atomOr 0x14 2 5 1), (0x78A020B1, .atomXor 0x14 2 5 1),
    (0x78A020B3, .atomExch 0x14 2 5 1), (0x78A020B5, .atomCas 0x14 2 5 1), (0x78A020B6, .atomFadd 0x14 2 5),
    (0x78A020B7, .atomFmin 0x14 2 5), (0x78A020B8, .atomFmax 0x14 2 5), (0x78A020B9, .atomIncb 0x14 2 5),
    (0x78A020BA, .atomDecb 0x14 2 5)] = true := by decide +kernel

/-- The words of the family, with fields of their own: R66, R85, R86 and the tables of chapter 03. -/
theorem test_decode_reductions : reads [
    (0x7C014042, .aredAdd 0x14 2 2), (0x7C014046, .aredMin 0x14 2 2), (0x7C01404A, .aredMax 0x14 2 2),
    (0x7C01404D, .aredAnd 0x14 2 1), (0x7C01404F, .aredOr 0x14 2 1), (0x7C014051, .aredXor 0x14 2 1),
    (0x7C014053, .aredExch 0x14 2 1), (0x7C014056, .aredFadd 0x14 2), (0x7C014057, .aredFmin 0x14 2),
    (0x7C014058, .aredFmax 0x14 2), (0x7C014059, .aredIncb 0x14 2), (0x7C01405A, .aredDecb 0x14 2)] = true := by decide +kernel

/-- The words of the family, with fields of their own: R66, R85, R86 and the tables of chapter 03. -/
theorem test_decode_fences_and_barriers : reads [
    (0x80140000, .fence 5), (0x80340000, .fenceAcq 5), (0x80540000, .fenceRel 5), (0x80614A02, .barArm 5 0x14 2),
    (0x80954A00, .barArrive 5 5 0x14), (0x80A14A00, .barExpect 5 0x14), (0x80D54A00, .barWait 5 5 0x14),
    (0x80F54A00, .barSync 5 5 0x14), (0x81154A03, .barTest 5 5 0x14 3), (0x81200000, .barSwap), (0x81540000, .gsync 5),
    (0x81740000, .wsync 5), (0x81800A00, .pref 0x14), (0x81A00A02, .cinv 0x14 2), (0x81D40A02, .cwb 5 0x14 2),
    (0x81F40A02, .icinv 5 0x14 2)] = true := by decide +kernel

/-- The words of the family, with fields of their own: R66, R85, R86 and the tables of chapter 03. -/
theorem test_decode_compress_and_walks : reads [
    (0x88A020A0, .stc32 0x14 2 5), (0x88A020A1, .stc64 0x14 2 5), (0x88A020A2, .lde32 0x14 2 5),
    (0x88A020A3, .lde64 0x14 2 5), (0x8CA020A0, .walkset 0x14 2 5), (0x8CA02001, .walkld32 0x14 2),
    (0x8CA00E21, .walkldRow 0x14), (0x8CA00E61, .walkldCol 0x14), (0x8CA02002, .walkld64 0x14 2),
    (0x8CA02003, .walkst32 0x14 2), (0x8CA02004, .walkst64 0x14 2), (0x8CA00005, .walknext 0x14)] = true := by decide +kernel

/-- The words of the family, with fields of their own: R66, R85, R86 and the tables of chapter 03. -/
theorem test_decode_matrix : reads [
    (0x9266A96D, .mma 0x13 6 5 2 5 0x2d), (0x9499AA50, .mtrans 0x13 6 5 2 5), (0x9599AA50, .mperm 0x13 6 5 2 5),
    (0x9699AA50, .mrsum 0x13 6 5 2 5), (0x98280A00, .gang 5 0x14), (0x986CC000, .accld 5 0x13), (0x98ACC000, .accst 5 0x13),
    (0x98E80000, .acczero 5), (0x99280000, .mwait 5), (0x9944CA00, .mflags 0x13 0x14)] = true := by decide +kernel

/-- The words of the family, with fields of their own: R66, R85, R86 and the tables of chapter 03. -/
theorem test_decode_lookup : reads [
    (0x9C098000, .tcfg 0x13), (0x9CD98000, .tbuild 5 0x13), (0x9D09D5D0, .tlook 0x13 5 0x5d), (0x9D8005D0, .tinv 0x5d),
    (0x9E598000, .tstat 5 0x13), (0x9ED98000, .tspill 5 0x13), (0x9F598000, .tfill 5 0x13), (0x9F800000, .twait),
    (0x9F998000, .twaitPoll 0x13)] = true := by decide +kernel

/-- The words of the family, with fields of their own: R66, R85, R86 and the tables of chapter 03. -/
theorem test_decode_engines_and_records : reads [
    (0xA0166601, .cpy 5 0x13 6 1), (0xA0566601, .lay 5 0x13 6 1), (0xA0826609, .layq 0x13 6 9), (0xA0D66001, .topk 5 0x13 1),
    (0xA1166001, .texp 5 0x13 1), (0xA1566001, .coll 5 0x13 1), (0xA1800000, .cwait), (0xA4028A00, .recInit 0x14 5),
    (0xA4D00000, .emit 5), (0xA5500A00, .emitq 5 5), (0xA5D00000, .eport 5)] = true := by decide +kernel

/-- The words of the family, with fields of their own: R66, R85, R86 and the tables of chapter 03. -/
theorem test_decode_prefix_and_hints : reads [
    (0xF8000000, .prefixWord), (0xFE000000, .wideHint), (0xFD000000, .modifierHint), (0xFC000000, .stallHint)] = true := by decide +kernel

/-! ### Single instructions, on values that the spec works out -/

/-- R25 (the example of chapter 01): a second queue slot, and a product of the two youngest. -/
theorem test_queue_ages :
    let s := after (.movi 0x40 5) (one [])
    let t := after (.iaddImm32 0x40 0x40 7) s
    got s 0 (.slot 1) = some 5 ∧ got t 0 (.slot 2) = some 12 ∧ got (after (.imul32 4 0x40 0x41) t) 0 (.named 4) = some 60 := by
  decide +kernel

/-- R84 (the example of chapter 03): a fixed-latency result read one clock after its producer is the new value under SAFE and the
old one under TRUST. -/
theorem test_interlock_modes :
    let s (m : BitVec 2) := withThreads (fun t => { t with imode := m, stalls := [1, 0, 0, 0, 0, 0] }) (one [0, 0, 10, 5, 100])
    got (after (.iaddImm32 5 4 1) (after (.iadd32 4 2 3) (s 0))) 0 (.named 5) = some 16 ∧
    got (after (.iaddImm32 5 4 1) (after (.iadd32 4 2 3) (s 1))) 0 (.named 5) = some 101 := by decide +kernel

/-- R81, R102: the immediate 0x0123_4567_89AB_CDEF of two hints and a `movi`. -/
theorem test_wide_immediate :
    let s := withThreads (fun t => { t with words := { t.words with wides := [0x1234, 0xACF135] } }) (one [])
    got (after (.movi 7 0x3CDEF) s) 0 (.named 7) = some 0x0123456789ABCDEF := by decide +kernel

/-- R99: sums wrap; the quotient by zero is all ones and raises IDZ (R44). -/
theorem test_integer_corners :
    got (after (.iadd32 3 1 2) (one [0, 0xFFFFFFFF, 2])) 0 (.named 3) = some 1 ∧
    got (after (.idiv64 3 1 2) (one [0, 7, 0])) 0 (.named 3) = some 0xFFFFFFFFFFFFFFFF ∧
    field (after (.idiv64 3 1 2) (one [0, 7, 0])) 0 (fun t => t.tsw.toNat % 64) = some 32 := by decide +kernel

/-- R44, R99: the least signed number by −1, and shifts by the width and more. -/
theorem test_division_and_shift_corners :
    got (after (.idiv32 3 1 2) (one [0, 0x80000000, 0xFFFFFFFF])) 0 (.named 3) = some 0x80000000 ∧
    got (after (.shl64 3 1 2) (one [0, 1, 64])) 0 (.named 3) = some 0 ∧
    got (after (.sra32 3 1 2) (one [0, 0x80000000, 33])) 0 (.named 3) = some 0xFFFFFFFF := by decide +kernel

/-- R105 (the example of chapter 04): the spreads of a Morton code. -/
theorem test_morton_spread :
    got (after (.bilv 5 1 10) (one [0, 5, 0, 0, 0, 0, 0, 0, 0, 0, 0x203])) 0 (.named 5) = some 0x104 ∧
    got (after (.bilv 5 1 10) (one [0, 3, 0, 0, 0, 0, 0, 0, 0, 0, 0x103])) 0 (.named 5) = some 0x012 ∧
    got (after (.bilv 5 1 10) (one [0, 6, 0, 0, 0, 0, 0, 0, 0, 0, 0x003])) 0 (.named 5) = some 0x048 := by decide +kernel

/-- R112 (the example of chapter 04): a call from 0x1000 to 0x1400 leaves the return address in q1. -/
theorem test_call :
    let s := after (.call 12 0 0x100) (withThreads (fun t => { t with pc := 0x1000 }) (one []))
    field s 0 Thread.pc = some 0x1400 ∧ got s 0 (.slot 1) = some 0x1004 := by decide +kernel

/-- R111: a branch three words backwards. -/
theorem test_branch_back :
    field (after (.bra 12 0 0xFFFFD) (one [])) 0 Thread.pc = some 0xFFFF4 := by decide +kernel

/-- Threads 0 to 2 of six wait at a lane collective of the example of chapter 04, and thread 3 reaches it. -/
def collective (d : BitVec 7) (shift : Nat) : State :=
  let wait (k a : Nat) : Thread :=
    let t : Thread := { holding [0, 0, a] with wait := .lane 0xF (BitVec.ofNat 64 a) (BitVec.ofNat 64 shift) (decide (d = 0x40)) }
    if d = 0x40 then t.reserve else if k = 9 then holding [0, 0, a] else t
  let arrives : Thread := holding [0, 0, 0x80000000]
  let p : Prefix := { mps := 12, mneg := 0, pol := 0, rnd := 0, cuse := 1, c := 0x71 }
  withGroup (fun g => { g with scalars := g.scalars.set 0 0xF })
    (machine [wait 0 0x7FC00000, wait 1 0x7FC00000, wait 2 0,
      if shift = 0 then arrives else { arrives with words := { arrives.words with pre := some p } }, bthread 4, bthread 5] [3])

/-- What the four members hold in g6. -/
def members (i : Instr) (shift : Nat) : List (Option Nat) := (List.range 4).map fun j => got (after i (collective 6 shift)) j (.named 6)

/-- R121, R122 (the example of chapter 04): `match`, `ballot` and `shfl.up`. -/
theorem test_lane_collectives :
    members (.match32 6 2 0x50) 0 = [some 3, some 3, some 4, some 8] ∧
    members (.ballot 6 2 0x50) 0 = [some 0xB, some 0xB, some 0xB, some 0xB] ∧
    members (.shflUp 6 2 0x50) 1 = [some 0x7FC00000, some 0x7FC00000, some 0x7FC00000, some 0] := by decide +kernel

/-- R121 (the example of chapter 04): votes and maxima. -/
theorem test_votes_and_reductions :
    members (.voteAny 6 2 0x50) 0 = [some 1, some 1, some 1, some 1] ∧ members (.voteAll 6 2 0x50) 0 = [some 0, some 0, some 0, some 0] ∧
    members (.voteEq 6 2 0x50) 0 = [some 0, some 0, some 0, some 0] ∧
    members (.reduxMaxN32 6 2 0x50) 0 = [some 0x80000000, some 0x80000000, some 0x80000000, some 0x80000000] ∧
    members (.reduxMaxI32 6 2 0x50) 0 = [some 0x7FC00000, some 0x7FC00000, some 0x7FC00000, some 0x7FC00000] := by decide +kernel

/-- R134, R133 (the example of chapter 05): packing to E4M3 and a dot product. -/
theorem test_pack_and_dot :
    let s := one [0, 0x439600003F800000, 0xBDCCCCCD43FA0000]
    got (after (.fpackE4m3 3 1 2) s) 0 (.named 3) = some 0x9D7E7938 ∧
    got (after (.f8dot4E4m3 5 3 4) (one [0, 0, 0, 0x9D7E7938, 0x38383838])) 0 (.named 5) = some 0x44383980 := by decide +kernel

/-- R54, R138 (the example of chapter 05): the three elements of a DB4 block, with the other lanes' zeros. -/
theorem test_denusk_block :
    let e (c : Nat) : FVal × ElemRnd := (fp32.decode c, .mode .rne)
    let b := denuskEncode true (e 0x40400000 :: e 0x3E800000 :: e 0xBE400000 :: List.replicate 29 (e 0))
    b.1 = 0x7E80 ∧ (b.2.take 4).map Prod.fst = [3, 9, 0xD, 0] := by decide +kernel

/-- R142: a load of a word at a scaled offset, and of a byte with its sign. -/
theorem test_loads :
    let s : State := { one [0, 0, 0x200000] with mem := writeBytes State.reset.loaded.mem 0x200040 [0x78, 0x56, 0x34, 0x92] }
    got (after (.ld 5 2 0 2 0x10) s) 0 (.named 5) = some 0x92345678 ∧
    got (after (.ld 5 2 0 6 0x10) s) 0 (.named 5) = some 0xFFFFFFFF92345678 := by decide +kernel

/-- R147 (the example of chapter 06): four adds of 5, 3, 0 and 7 leave 115 in the word. -/
theorem test_atomic_adds :
    let s : State := { machine ([5, 3, 0, 7].map fun k => holding [0, 0, 0, 0, 0x200000, 0, k]) [0, 1, 2, 3] with
      mem := writeBytes State.reset.loaded.mem 0x200000 [100] }
    leNat (readBytes (after (.atomAdd 0x40 4 6 1) s).mem 0x200000 4) = 115 := by decide +kernel

/-- R163 (the example of chapter 06): the grant of a group of eight to a request of width 16. -/
theorem test_walk_grant :
    (walkRequest 0x21910).map (fun q => (q.grant 8).word) = some 0x21908 := by decide +kernel

/-- R236, R237 (the example of chapter 09): the five columns of greatest keys, in rank order. -/
theorem test_rank :
    rankColumns [0xBFC00000, 0, 0x80000000, 0xC0000000, 0x80000000, 0xC0000000, 0x407FFFFF, 0xBF000000] 5 [] = [3, 5, 0, 7, 2] := by
  decide +kernel

/-- R231 (the reshape-transpose of chapter 20): one pass, three destination dimensions; and the place of an element of row (1, 1). -/
theorem test_layout :
    let d := layDesc [0, 0x400, 0x2D0, 0x301, 0x0002000300040008, 0x0000000100010001]
    d.passes + 4 * (d.merged - 1) = 9 ∧ d.place 104 = 72 := by decide +kernel

/-- R236 (the example of chapter 09): the keys 1.5, NaN, −0.0, 2.0, −1.0 and 0.5 as naturals. -/
theorem test_mapped_keys :
    [0x3FC00000, 0x7FC00000, 0x80000000, 0x40000000, 0xBF800000, 0x3F000000].map (keyRank 8) =
      [0xBFC00000, 0, 0x80000000, 0xC0000000, 0x407FFFFF, 0xBF000000] := by decide +kernel

/-- R197 (the example of chapter 08): the subset sums of 1, 2, 3 and 4. -/
theorem test_table_entries :
    let xs := [0x3F80, 0x4000, 0x4040, 0x4080].map bf16.decode
    [5, 9, 15, 0].map (fun i => (tableEntry 0 xs i).1) = [0x40800000, 0x40A00000, 0x41200000, 0] := by decide +kernel

/-- R60 (the example of chapter 02): two roundings of a BF16 dot of 16, and one of an 8-bit one. -/
theorem test_block_sums :
    let prod (x : Nat) : FVal × FVal := (bf16.decode x, bf16.decode 0x3F80)
    let big : FVal × FVal := (bf16.decode 0x4580, bf16.decode 0x4580)
    let z := prod 0
    let xs := [big, prod 0x3F80, z, z, z, z, z, z, prod 0x3F80, z, z, z, z, z, z, z]
    (accumulateBlocks .rne 8 2 0 xs).1 = 0x4B800000 := by decide +kernel

/-- R244: `rec` puts a word into its slot. -/
theorem test_record : field (after (.recInit 7 3) (one [0, 0, 0, 0, 0, 0, 0, 0xABCD])) 0 (fun t => t.recbuf[3]) = some 0xABCD := by
  decide +kernel

/-- R251, R331: `trap 7` under the park policy leaves its code as fault address, and an entry in the log. -/
theorem test_trap :
    let s := after .trap { inGraph 4 (one []) with ir := 0x49000007 }
    field s 0 (fun t => (t.fault.cause, t.fault.faddr)) = some (0x30, 7) ∧
      leNat (readBytes s.mem 0x300008 8) = 7 := by decide +kernel

/-- R113, R331: a jump to an address that is no multiple of 4 leaves its cause and the address in the log. -/
theorem test_misaligned_target :
    let s := after (.brx 1) (inGraph 4 (one [0, 0x1002]))
    leNat (readBytes s.mem 0x300007 1) = 0x09 ∧ leNat (readBytes s.mem 0x300008 8) = 0x1002 := by
  decide +kernel

/-- R66: a word at the PC is fetched and executed: the step of a machine that holds `nop` moves to the next word. -/
theorem test_step_nop : field (match step (State.reset.withFetchWord 32 0x3C000000) with
    | .next t => t
    | _ => State.reset) 0 Thread.pc = some 0x100004 := by decide +kernel

/-- R390: SHA-384 of the empty message (FIPS 180-4). -/
theorem test_sha384 : sha384 [] =
    0x38B060A751AC96384CD9327EB1B1E36A21FDB71114BE07434C0CC7BF63F6E1DA274EDEBFE76F65FBD51AD2F14898B95B := by decide +kernel

end Sys2Proof.Tests
end

