-- ==== Sys2Proof/Tests/Witness.lean ====
section
/-! SUPPORT. States and operands that meet the hypotheses of the statements: of each clause, together, at values where clauses
adjoin. -/

open Sys2Proof Sys2Proof.Machine Sys2Proof.Rules

namespace Sys2Proof.Tests

set_option Elab.async false

/-! ### What it is to meet a statement's hypotheses -/

/-- The checks on a form pass in a view. -/
def passes (f : Form) (v : View) : Bool := match f.check v with
  | .ok _ => true
  | .error _ => false

theorem passes_iff {f : Form} {v : View} : passes f v = true ↔ f.check v = .ok () := by
  unfold passes
  cases f.check v <;> simp

/-- The threads `ts` of group 0 execute a form. -/
def crew (s : State) (f : Form) (ts : List Nat) : Bool :=
  decide (s.cur = some ⟨0, 0, ts⟩) && decide ts.Nodup && ts.all fun t => match s.view? 0 0 t with
    | some v => passes f v
    | none => false

/-- What `crew` decides. -/
theorem executes_of_crew {s : State} {f : Form} {ts : List Nat} (h : crew s f ts = true) : s.Executes f 0 0 ts := by
  simp only [crew, Bool.and_eq_true, decide_eq_true_eq, List.all_eq_true] at h
  refine ⟨h.1.1, h.1.2, fun t ht => ?_⟩
  have := h.2 t ht
  revert this
  cases hv : s.view? 0 0 t with
  | none => simp
  | some v => exact fun hc => ⟨v, rfl, passes_iff.mp hc⟩

/-- One thread of group 0 executes a form alone, and its view meets a condition. -/
def lone (s : State) (f : Form) (p : View → Bool) : Bool := match s.cur with
  | some ⟨0, 0, [t]⟩ => match s.view? 0 0 t with
    | some v => passes f v && p v
    | none => false
  | _ => false

/-- What `lone` decides. -/
theorem alone_of_lone {s : State} {f : Form} {p : View → Bool} (h : lone s f p = true) :
    ∃ v, s.Alone f 0 0 v ∧ p v = true := by
  unfold lone at h
  split at h
  · next t hc =>
    split at h
    · next v hv =>
      simp only [Bool.and_eq_true] at h
      have ht : v.gtid = t := by
        revert hv
        unfold State.view?
        split
        · simp
        · split
          · simp
          · simp only [Option.map_eq_some_iff]
            rintro ⟨_, _, rfl⟩
            rfl
      subst ht
      exact ⟨v, ⟨hc, hv, passes_iff.mp h.1⟩, h.2⟩
    · simp at h
  · simp at h

/-- The live threads of group 0 execute a form together, and their workgroup and group meet a condition. -/
def joint (s : State) (f : Form) (p : Workgroup → Group → Bool) : Bool := match s.wg? 0 with
  | some x => match x.groups[0]? with
    | some gr => decide (s.cur = some ⟨0, 0, gr.liveGtids⟩) && decide (gr.liveGtids ≠ []) &&
        (match gr.threads.head? with
         | some a => gr.threads.all fun t => !t.isLive || (decide (t.pc = a.pc) && decide (t.words = a.words))
         | none => false) &&
        (gr.liveGtids.all fun t => match s.view? 0 0 t with
          | some v => passes f v
          | none => false) && p x gr
    | none => false
  | none => false

/-- What `joint` decides. -/
theorem together_of_joint {s : State} {f : Form} {p : Workgroup → Group → Bool} (h : joint s f p = true) :
    ∃ x gr pc ws, s.Together f 0 0 gr pc ws ∧ s.wg? 0 = some x ∧ p x gr = true := by
  unfold joint at h
  split at h
  · next x hx =>
    split at h
    · next gr hg =>
      simp only [Bool.and_eq_true, decide_eq_true_eq] at h
      obtain ⟨⟨⟨⟨hc, hl⟩, hs⟩, hk⟩, hp⟩ := h
      revert hs
      cases ha : gr.threads.head? with
      | none => simp
      | some a =>
        simp only [List.all_eq_true, Bool.or_eq_true, Bool.not_eq_true', Bool.and_eq_true, decide_eq_true_eq]
        intro hs
        refine ⟨x, gr, a.pc, a.words, ⟨hc, ?_, hl, fun t ht hlive => ?_, fun t ht => ?_⟩, hx, hp⟩
        · simp [State.grp?, hx, hg]
        · rcases hs t ht with hd | hd
          · simp [hd] at hlive
          · exact hd
        · have := List.all_eq_true.mp hk t ht
          revert this
          cases hv : s.view? 0 0 t with
          | none => simp
          | some v => exact fun hc => ⟨v, rfl, passes_iff.mp hc⟩
    · simp at h
  · simp at h

/-- The live threads of group 0 of workgroup 0 stand together at an instruction. -/
theorem gathers_of_joint {s : State} {i : Instr} {p : Workgroup → Group → Bool} (h : joint s (instrForm i) p = true) :
    ∃ x gr, Gathers s i 0 0 x gr ∧ p x gr = true := by
  obtain ⟨x, gr, pc, ws, ht, hx, hp⟩ := together_of_joint h
  exact ⟨x, gr, ⟨⟨pc, ws, ht⟩, hx⟩, hp⟩

/-! ### Decoding and issuing -/

/-- RoundTrip: canonical instructions that the encoder lays out. -/
theorem witness_RoundTrip :
    [Instr.iadd32 1 2 3, .icmp 0 0 1 2 2, .fcmp 0 0 1 2 8, .frnd 1 2 8 8 0, .fcvt 1 2 8 9 0, .fcvti 1 2 8 2 0, .icvtf 1 2 2 8 0, .prefixWord].all
      (fun i => i.canonical && (encode i 0xABCDE).isSome) = true := by decide +kernel

/-- OneMeaning: words that decode. -/
theorem witness_OneMeaning : [0x04A020A0, 0, 0x3C000000, 0xF8D48300].all (fun w => (decodeTableWord 32 w).isSome) = true := by
  decide +kernel

/-- StepRunsDecoded: a weave of one thread stands at a word of memory, with no breakpoint enabled. -/
theorem witness_StepRunsDecoded :
    let s := State.reset.withFetchWord 32 0x04A020A0
    let r : State := ({ s with agenda := [] } : State).splitWeaves 0 0
    let u : IssueSet := ⟨0, 0, [0]⟩
    s.power = true ∧ s.agenda = [.issue u] ∧ s.issues? = true ∧ r.weave u = [0] ∧ (r.thread? ⟨0, 0, 0⟩).isSome = true ∧
      ((r.wg? 0).map fun x => x.ctx) = some 1024 ∧
      ((((r.markIssue 0 0 [0]).fetch 1024 0x100000).2.toOption).map BitVec.toNat) = some 0x04A020A0 ∧
      ((r.markIssue 0 0 [0]).fetch 1024 0x100000).1.breakpointHits 0 0 [0] = [] := by decide +kernel

/-- FormChecks: a view with an illegal field; one with a register at its allotment of 64 and one below it. -/
theorem witness_FormChecks :
    let view (n : Nat) : View := ⟨Workgroup.bare 0 1024 0x100000, Group.entry 0 n 0 0 0 [bthread 0], 0, bthread 0⟩
    (instrForm (.iadd32 0x42 1 2)).groupLegal (view 16).t.words = false ∧
    (instrForm (.iadd32 16 15 17)).groupLegal (view 16).t.words = true ∧
    rangeError 16 ((instrForm (.iadd32 16 15 17)).codes Words.none) = some 16 ∧
    rangeError 16 ((instrForm (.iadd32 15 15 16)).codes Words.none) = some 16 ∧
    rangeError 16 ((instrForm (.iadd32 15 15 15)).codes Words.none) = none := by decide +kernel

/-! ### Integers, floats, predicates -/

/-- Integers, RegisterFrame: two lanes execute each integer instruction, into a register, the queue and nowhere. -/
theorem witness_Integers_lanes : [5, 0x40, 0x41].all (fun d => ((integers d 2 3 7 7 7 7).map IntRule.instr).all fun i =>
    crew (bench 2) (instrForm i) [0, 1]) = true := by decide +kernel

/-- Integers: two threads of a group execute each into an s-register, from s-registers and constants. -/
theorem witness_Integers_scalar : ((integers 0x50 0x6F 0x71 0x7FF 7 31 63).map IntRule.instr).all (fun i =>
    joint (bench 2) (instrForm i) fun _ _ => isScalarDst 0x50) = true := by decide +kernel

/-- StepRunsDecoded: two threads of one weave stand at one word, and two at two. -/
theorem witness_StepRunsDecoded_weaves :
    let apart : Group := Group.entry 0 16 0 0 0 [bthread 0, { bthread 1 with pc := 0x100004 }]
    let joined : Group := Group.entry 0 16 0 0 0 [bthread 0, bthread 1]
    (apart.split.threads.map Thread.weave) = [0, 1] ∧ (joined.split.threads.map Thread.weave) = [0, 0] := by decide +kernel

/-- StepRunsDecoded: a thread whose group is counted already and one whose is not execute a word that begins a group and one that does
not; the thread goes on, or stands there still, running or at an engine. -/
theorem witness_StepRunsDecoded_counts :
    [(false, false, Wait.running), (true, false, .running), (false, true, .running), (true, true, .engine)].all (fun e =>
      let of (c : Bool) (w : Wait) : State := withThreads (fun t => { t with counted := c, wait := w }) (bench 1)
      ((of e.1 .running).thread? ⟨0, 0, 0⟩).any (fun y => y.counted == e.1) &&
        ((of e.2.1 e.2.2).thread? ⟨0, 0, 0⟩).any fun z => z.isLive && (z.counted == e.2.1) && decide (z.wait = e.2.2)) = true ∧
    (beginsGroup (.iadd32 1 2 3), beginsGroup (decode 0xFC000001)) = (true, false) := by decide +kernel

/-- BitFields: control words of stride 1 and offset 0, and of stride 8 and offset 7. -/
theorem witness_BitFields_controls :
    [((1, 0), (0x001 : Reg)), ((8, 7), 0x708)].all (fun x => (bf x.2 0 4).toNat == x.1.1 && (bf x.2 8 3).toNat == x.1.2) = true := by
  decide +kernel

/-- BitFields: one active thread executes each form, with strides at and beyond their bounds and bits that the control words ignore. -/
theorem witness_BitFields : [0, 1, 8, 9].all (fun k => [Instr.bfxN64 5 0 1, .bfxI64 5 0 1, .bfi 5 0 1, .bilv 5 0 1, .bdilv 5 0 1].all fun i =>
    lone (one [0x8000000000000007, 0xF000 + k]) (instrForm i) fun v => v.t.maskTrue v.t.words && decide (isScalarDst 5 = false) &&
      decide (((v.read 1).extractLsb' 0 4).toNat = k)) = true := by decide +kernel

/-- DenuskElements: one active thread converts an element of each format to FP32. -/
theorem witness_DenuskElements : [13, 14].all (fun p => lone (one [0xFF0000FF]) (instrForm (.fcvt 5 0 p 8 0)) fun v =>
    v.t.maskTrue v.t.words && decide (isScalarDst 5 = false)) = true := by decide +kernel

/-- AddressCheck: two lanes, one with the greatest sum that is canonical and one with the least that is not; a group with each; and each
other form of the major. -/
theorem witness_AddressCheck :
    (let s := machine [holding [0, 2 ^ 56 - 2, 1], holding [0, 2 ^ 56 - 1, 1]] [0, 1]
     crew s (instrForm (.addr 3 1 2)) [0, 1] && [(0, true), (1, false)].all fun e => (s.view? 0 0 e.1).any fun v =>
       v.t.maskTrue v.t.words && decide ((v.read 1 + v.read 2).toNat < 2 ^ 56) == e.2) = true ∧
    [(2 ^ 56 - 2, true), (2 ^ 56 - 1, false)].all (fun e =>
      joint (withGroup (fun g => { g with scalars := (g.scalars.set 1 (BitVec.ofNat 64 e.1)).set 2 1 }) (bench 2)) (instrForm (.addr 0x50 0x51 0x52)) fun _ gr =>
        decide ((gr.read 0x51 + gr.read 0x52).toNat < 2 ^ 56) == e.2) = true ∧
    (bits 5 1 2).all (fun r => crew (bench 2) (instrForm r.instr) [0, 1]) = true ∧
    (bits 0x50 0x51 0x52).all (fun r => joint (bench 2) (instrForm r.instr) fun _ _ => true) = true := by decide +kernel

/-- Integers, LaneForms: each type and condition of `icmp`; `pset`; `isel` with and without NEG. -/
theorem witness_Integers_predicates :
    [2, 3, 6, 7].all (fun t => [0, 1, 2, 3, 4, 5].all fun c => crew (bench 2) (instrForm (.icmp 11 c 1 2 t)) [0, 1]) = true ∧
    crew (bench 2) (instrForm (.pset 0 6 13 11)) [0, 1] = true ∧
    [0, 1].all (fun n => crew (bench 2) (instrForm (.isel 5 1 2 12 n)) [0, 1]) = true := by decide +kernel

/-- FloatResults, RegisterFrame: two lanes execute each float instruction; `fcmp` of each type and condition. -/
theorem witness_FloatResults :
    ((floats 5 2 3).map LaneRule.instr).all (fun i => crew (bench 2) (instrForm i) [0, 1]) = true ∧
    [8, 9, 10].all (fun t => [0, 1, 2, 3, 4, 5, 6, 7].all fun c => crew (bench 2) (instrForm (.fcmp 1 c 1 2 t)) [0, 1] &&
      (fmtOfType (BitVec.toNat t)).isSome) = true := by decide +kernel

/-- FloatResults, LaneForms: a conversion of each shape, with and without stochastic rounding, and codes of finite values of each format. -/
theorem witness_FloatResults_conversions :
    [8, 9, 10].all (fun t => [0, 5].all fun r => crew (bench 2) (instrForm (.frnd 5 1 t t r)) [0, 1]) = true ∧
    [2, 3, 6, 7].all (fun t => [0, 6].all fun r => crew (bench 2) (instrForm (.fcvti 5 1 8 t r)) [0, 1] &&
      crew (bench 2) (instrForm (.icvtf 5 1 t 8 r)) [0, 1]) = true ∧
    [9, 10, 11, 12].all (fun t => [0, 6].all fun r => crew (bench 2) (instrForm (.fcvt 5 1 8 t r)) [0, 1] &&
      crew (bench 2) (instrForm (.fcvt 5 1 t 8 0)) [0, 1] && (fmtOfType (BitVec.toNat t)).isSome) = true ∧
    [(fp32, 0x3F800000), (fp16, 1), (bf16, 0x8000), (e4m3, 0x7E), (e5m2, 0x7B)].all (fun x =>
      match x.1.decode x.2 with | .fin _ _ _ => true | _ => false) = true := by decide +kernel

/-- LaneForms: two lanes execute every form, with types of float numbers, into a register, the queue and nowhere. -/
theorem witness_LaneForms : [5, 0x40, 0x41].all (fun d =>
    ((laneForms d 2 3 7 7 7 7 11 0 2 3 6 13 1).all fun e => crew (bench 2) (instrForm e) [0, 1]) &&
    [(8, Instr.fcmp 11 0 2 3 8), (8, .frnd d 2 8 8 0), (8, .fcvti d 2 8 2 0), (8, .icvtf d 2 2 8 0), (9, .fcvt d 2 8 9 0)].all fun e =>
      crew (bench 2) (instrForm e.2) [0, 1] && decide (e.2 ∈ typedForms d 2 3 11 0 8 e.1 2 0) && (fmtOfType (BitVec.toNat (w := 4) e.1)).isSome) = true := by
  decide +kernel

/-- CorrectRounding: FP32 codes of each kind of value that the table of special cases names. -/
theorem witness_CorrectRounding :
    [0x41000000, 0xC1000000, 1].all (fun c => match fp32.operand false c with | .fin n m _ => (n == decide (c / 2 ^ 31 = 1)) && decide (m ≠ 0) | _ => false) = true ∧
    [0, 0x80000000].all (fun c => match fp32.operand false c with | .fin n 0 _ => n == decide (c ≠ 0) | _ => false) = true ∧
    fp32.operand true 1 = .fin false 0 0 ∧ fp32.operand false 0x7F800000 = .inf false ∧ fp32.operand false 0xFF800000 = .inf true ∧
    fp32.operand false 0x7FC00000 = .nan false ∧ fp32.operand false 0x7F800001 = .nan true := by decide +kernel

/-- CorrectRounding: numbers that are a whole number, a power of two, a whole number and a half, and 128 and more. -/
theorem witness_CorrectRounding_exact :
    (fp32.operand false 0x42FE0000 = .fin false 0xFE0000 (-17) ∧ fp32.operand false 0x3FC00000 = .fin false 0xC00000 (-23) ∧
      fp32.operand false 0x43000000 = .fin false 0x800000 (-16) ∧ fp32.operand false 0x3E000000 = .fin false 0x800000 (-26)) ∧
    real (.fin false 0xFE0000 (-17)) = (127 : Int) ∧ real (.fin false 0xC00000 (-23)) = (1 : Int) + 1 / 2 ∧
    128 ≤ real (.fin false 0x800000 (-16)) ∧ real (.fin false 0x800000 (-26)) = (2 : ℝ) ^ (-3 : Int) := by
  refine ⟨by decide +kernel, ?_, ?_, ?_, ?_⟩ <;> norm_num [real, zpow_neg, zpow_ofNat]

/-- FloatValues: products that are invalid each way, that are a NaN, an infinity and all finite; blocks of products at the length of
two blocks. -/
theorem witness_FloatValues_blocks :
    ((FVal.inf false).mul (.fin false 0 0)).2 ≠ 0 ∧ ((FVal.nan true).mul (.fin false 1 0)).2 ≠ 0 ∧
    (((FVal.nan false).mul (.fin false 1 0)).1.isNan, ((FVal.nan false).mul (.fin false 1 0)).2) = (true, 0) ∧
    [((FVal.inf false), (FVal.fin false 1 0)), (.inf true, .fin false 1 0)].map (fun p => (p.1.mul p.2).1) = [.inf false, .inf true] ∧
    ((FVal.fin false 3 0).mul (.fin true 5 1)).1 = .fin true 15 1 ∧
    ([(FVal.fin false 3 0, FVal.fin true 5 1)] : List (FVal × FVal)).length ≤ 1 * 1 := by decide +kernel

/-- FloatValues: conditions on values that are no NaN and on one that is; operands of minima and maxima of each kind; codes of each
class; modes that a thread's status word and a prefix name. -/
theorem witness_FloatValues_functions :
    [0, 1, 2, 3, 4, 5, 6, 7].all (fun c => decide ((c : BitVec 4).toNat < 8)) = true ∧
    [0x7F800001, 0x7FC00000].all (fun c => (fp32.decode c).isNan) = true ∧ [0, 0x80000000, 1, 0x7F800000].all (fun c => !(fp32.decode c).isNan) = true ∧
    fp32.decode 0xFF800000 = .inf true ∧ fp32.decode 0x7FC00000 = .nan false ∧ fp32.decode 0x80000001 = .fin true 1 (-149) ∧
    ([0, 1, 2, 3, 4, 5].all fun r => ((bthread 0).convRnd r).isSome) = true ∧ (bthread 0).convRnd 6 = none ∧
    [0, 1, 2, 3, 4].all (fun j => let t := { bthread 0 with tsw := BitVec.ofNat 32 (256 * j) }
      decide (t.words.pre = none ∧ t.tsw.toNat / 256 % 8 = j)) = true ∧
    [1, 2, 3, 4, 5].all (fun r =>
      let p : Prefix := { mps := 0, mneg := 0, pol := 0, rnd := BitVec.ofNat 3 r, cuse := 0, c := 0 }
      decide (({ Words.none with pre := some p } : Words).pre = some p ∧ p.rnd.toNat = r)) = true := by decide +kernel

/-! ### Control flow, exceptions, words of a group -/

/-- BranchesAndPassing: branches and calls; targets that are a multiple of 4 and the least that are not canonical. -/
theorem witness_BranchesAndPassing_jumps :
    [0, 1].all (fun n => crew (bench 2) (instrForm (.bra 11 n 0x80000)) [0, 1] && crew (bench 2) (instrForm (.call 12 n 1)) [0, 1]) = true ∧
    [Instr.brx 1, .ret 1].all (fun i => crew (one [0, 2 ^ 56 - 4]) (instrForm i) [0] &&
      lone (one [0, 2 ^ 56 - 4]) (instrForm i) (fun v => decide ((v.read 1).toNat % 4 = 0 ∧ (v.read 1).toNat < 2 ^ 56)) &&
      lone (one [0, 2 ^ 56 - 1]) (instrForm i) (fun v => decide ((v.read 1).toNat % 4 ≠ 0)) &&
      lone (one [0, 2 ^ 56]) (instrForm i) (fun v => decide ((v.read 1).toNat % 4 = 0 ∧ 2 ^ 56 ≤ (v.read 1).toNat))) = true := by decide +kernel

/-- BranchesAndPassing, TrapInstructions: words that pass with tracing and breakpoints off, and `brk` with them on. -/
theorem witness_BranchesAndPassing_words :
    [Instr.nop, .yieldTurn, .mark, .brk, .trap].all (fun i => crew (bench 2) (instrForm i) [0, 1]) = true ∧
    (((bench 2).ctx? 1024).map fun c => (c.traceEn, c.brkEn)) = some (false, false) ∧ ((bench 2).wg? 0).isSome = true ∧
    ((({ bench 2 with ctxs := (bench 2).ctxs.map fun c => { c with brkEn := true } } : State).ctx? 1024).map Context.brkEn) = some true := by
  decide +kernel

/-- BranchesAndPassing: `fuse` of 0 clocks, and of 1 and of 4,096 clocks in a group in which another thread runs. -/
theorem witness_BranchesAndPassing_fuse :
    lone (one [0, 0]) (instrForm (.fuse 1)) (fun v => v.t.isLive && decide ((v.read 1).toNat = 0)) = true ∧
    [1, 4096].all (fun k => lone (machine [holding [0, k], bthread 0] [0]) (instrForm (.fuse 1)) (fun v => v.t.isLive &&
      decide ((v.read 1).toNat = k) && (v.grp.threads[1]?).any fun u => u.isLive && decide (u.wait = .running))) = true := by decide +kernel

/-- BranchesAndPassing: a thread that has yielded, and a thread of its lane in another group that is ready and issued before it. -/
theorem witness_BranchesAndPassing_yield :
    let h : Group := Group.entry 0 16 0 0 1 [{ bthread 1 with lastIssue := 3 }]
    let s := withWg (fun w => { w with groups := w.groups ++ [h] }) (machine [{ bthread 0 with yielded := true, lastIssue := 4 }] [0])
    let u : IssueSet := ⟨0, 0, [0]⟩
    ((s.wg? 0).map fun x => (x.res, x.groups.map fun g => (g.quad, g.stop))) = some (.resident, [(0, .running), (0, .running)]) ∧
    ((s.thread? ⟨0, 0, 0⟩).map fun t => (t.yielded, t.lastIssue)) = some (true, 4) ∧
    ((s.thread? ⟨0, 1, 0⟩).map fun t => (t.isLive, t.wait, t.words, t.lastIssue)) = some (true, .running, Words.none, 3) ∧
    s.weave u = [] := by decide +kernel

/-- A machine whose translation of the first GiB is cached. -/
def warmed (s : State) : State := { s with tlb := [{ ctx := 1024, va := 0, size := 30, pa := 0, x := true, w := true, r := true }] }

/-- A machine in a context that traces into a ring of 2^8 records at 0x200000, with `n` of them unread and `k` dropped. -/
def tracing (n k : Nat) : State := warmed { one [] with ctxs := (one []).ctxs.map fun c =>
  { c with traceEn := true, traceBase := 0x200000, traceSize := 8, traceProd := BitVec.ofNat 64 n, traceDropped := k } }

/-- BranchesAndPassing: `mark` with a ring that has room for one record, for none, for two after dropped ones, and for one after dropped
ones; the record can be written. -/
theorem witness_BranchesAndPassing_trace :
    [(255, 0), (256, 0), (254, 2), (255, 2)].all (fun x => let s := tracing x.1 x.2
      lone s (instrForm .mark) (fun v => (s.ctx? v.wg.ctx).any fun c => c.traceEn && decide (8 ≤ c.traceSize.toNat) &&
        decide (c.traceDropped = x.2 ∧ 2 ^ c.traceSize.toNat - (c.traceProd - c.traceCons).toNat = 256 - x.1)) &&
      (s.writeRun 1024 (0x200000 + 16 * (x.1 % 256)) (bytesLe 16 0)).2.isOk &&
      (s.writeRun 1024 (0x200000 + 16 * ((x.1 + 1) % 256)) (bytesLe 16 0)).2.isOk) = true := by decide +kernel

/-- BranchesAndPassing: the last thread of a group comes to the `fuse` where the others stand, with no clocks and with 4,096. -/
theorem witness_BranchesAndPassing_fuses : [0, 4096].all (fun k =>
    lone (machine [{ bthread 0 with wait := .fuse 100 }, holding [0, k], { bthread 2 with life := .exited }] [1]) (instrForm (.fuse 1))
      fun v => v.t.isLive && decide ((v.read 1).toNat = k) && (v.grp.threads[0]?).any fun u => decide (u.pc = v.t.pc ∧ u.wait = .fuse 100)) = true := by
  decide +kernel

/-- TrapInstructions: threads of a group that is there execute a word. -/
theorem witness_TrapInstructions :
    (bench 2).cur = some ⟨0, 0, [0, 1]⟩ ∧ ((bench 2).grp? 0 0).map (fun g => g.threads.length) = some 2 := by decide +kernel

/-- ParkedFaultAndCauses: a thread of a region under the park policy, a serviceable cause, and a log that can be written. -/
theorem witness_ParkedFaultAndCauses :
    let s := inGraph 4 (one [])
    let id : ThreadId := ⟨0, 0, 0⟩
    let x : Trap := { cause := .softwareTrap, addr := 7 }
    ((s.wg? 0).map fun w => (s.regionOf w).policy) = some 4 ∧ (s.thread? id).map (fun t => (t.isLive, t.wait)) = some (true, .running) ∧
    x.cause.fate ≠ .none ∧ x.cause.isTranslation = false ∧ x.cause ≠ .haltRequest ∧
    ((s.ctx? 1024).any fun c => decide (c.logBase ≠ 0 ∧ (c.flprod - c.flcons).toNat < 2 ^ c.logSize) &&
      ((((s.modThread id fun t => t.takeImage x).dropWaiting [id]).modGraph 0 fun k => { k with faults := k.faults + 1 }).controlWrite 1024
        (c.logBase.toNat + 64 * (c.flprod.toNat % 2 ^ c.logSize)) (List.replicate 8 (bytesLe 8 0))).2.isOk) = true := by decide +kernel

/-- GroupWords: threads with no words before them, with one wide hint, and with two and a modifier hint. -/
theorem witness_GroupWords :
    let s (w : Words) := withThreads (fun t => { t with words := w }) (bench 2)
    [Words.none, { Words.none with wides := [1] }, { Words.none with wides := [1, 2], modifier := some (modifierOf 0) }].all (fun w =>
      decide ((s w).cur = some ⟨0, 0, [0, 1]⟩) && [0, 1].all fun t => (((s w).view? 0 0 t).map fun v => decide (v.t.words = w)) = some true) = true := by
  decide +kernel

/-! ### Special values and status, collectives -/

/-- SpecialRegisters: each selector into a register, those that a group shares into an s-register; `tick`; the status words. -/
theorem witness_SpecialRegisters :
    (List.range 16).all (fun k => crew (bench 2) (instrForm (.sysrd 5 (BitVec.ofNat 8 k))) [0, 1]) = true ∧
    [3, 4, 7, 8, 9, 10, 11, 12, 14, 15].all (fun k => joint (bench 2) (instrForm (.sysrd 0x50 k)) fun _ gr =>
      ((gr.liveGtids.head?.bind fun t => (bench 2).view? 0 0 t)).isSome) = true ∧
    crew (bench 2) (instrForm (.tick 5)) [0, 1] = true ∧ joint (bench 2) (instrForm (.tick 0x6F)) (fun _ _ => isScalarDst 0x6F) = true ∧
    ((statuses 5 2).map LaneRule.instr).all (fun i => crew (bench 2) (instrForm i) [0, 1]) = true := by decide +kernel

/-- The hypotheses of `Arrives` on a view with mask word `m`. -/
def arrives (b : BitVec 7) (m : Reg) (v : View) : Bool :=
  decide (v.read b = m) && !maskBad m v.gtid v.grp.threads.length && decide (v.t.wait = .running) &&
  ((maskMembers m).all fun j => ((v.grp.threads[j]?).map Thread.isLive) = some true) &&
  ((List.range v.grp.threads.length).all fun j => j == v.gtid || match v.grp.threads[j]? with
    | none => true
    | some u => match u.wait.mask? with
      | none => true
      | some n => !(maskMembers n).contains v.gtid || (decide (u.pc = v.t.pc) && decide (n = m)))

/-- The other members stand at the rendezvous already. -/
def othersStand (m : Reg) (v : View) : Bool :=
  (maskMembers m).all fun j => j == v.gtid || (v.grp.threads[j]?).any fun u => decide (u.pc = v.t.pc) && match u.wait with
    | .lane n _ _ _ => decide (n = m)
    | _ => false

/-- The instructions of the table that accept an s-register. -/
def scalarCollectives (d a b : BitVec 7) : List Instr :=
  ((collectives d a b).map CollectiveRule.instr).filter fun i => (instrForm i).rule = .either

/-- LaneCollectives: the last of four members arrives, with a named register and with the queue as destination. -/
theorem witness_LaneCollectives_last : [6, 0x40].all (fun d => ((collectives d 2 0x50).map CollectiveRule.instr).all fun i =>
    lone (collective d 0) (instrForm i) fun v => arrives 0x50 0xF v && othersStand 0xF v && !isScalarDst d) = true := by decide +kernel

/-- LaneCollectives: the last of all the live threads arrives, with an s-register as destination. -/
theorem witness_LaneCollectives_scalar :
    let s := withGroup (fun g => { g with threads := g.threads.take 4 }) (collective 6 0)
    (scalarCollectives 0x51 2 0x50).all (fun i => lone s (instrForm i) fun v => arrives 0x50 0xF v && othersStand 0xF v &&
      decide (v.grp.threads.length ≤ 32) && v.grp.liveGtids.all (maskMembers 0xF).contains) = true := by decide +kernel

/-- LaneCollectives: the first of two members arrives; one arrives with a mask that lacks it, and with one that names a thread that
has ended. -/
theorem witness_LaneCollectives_waits :
    let s (m : Nat) := machine [holding [0, 0, 0, m], bthread 1, { bthread 2 with life := .exited }] [0]
    ((collectives 6 2 3).map CollectiveRule.instr).all (fun i =>
      lone (s 3) (instrForm i) (fun v => arrives 3 3 v && ((v.grp.threads[1]?).any fun u => u.wait.mask? = none)) &&
      lone (s 2) (instrForm i) (fun v => maskBad (v.read 3) v.gtid 3) &&
      lone (s 5) (instrForm i) (fun v => !maskBad (v.read 3) v.gtid 3 && ((v.grp.threads[2]?).any fun u => !u.isLive))) = true := by
  decide +kernel

/-- DenuskEncode: the only thread of a block reaches a conversion to DB8 and to DB4, rounded and stochastic. -/
theorem witness_DenuskEncode : [13, 14].all (fun q => [0, 6].all fun r => lone (one [0, 0x40400000]) (instrForm (.fcvt 2 1 8 q r)) fun v =>
    isDenuskType q && v.t.isLive && v.t.maskTrue v.t.words && decide (v.grp.liveGtids = [v.gtid])) = true := by decide +kernel


/-- DenuskEncode: the first of two threads of a block reaches a conversion; the last of two, one active and one not, does. -/
theorem witness_DenuskEncode_several :
    let i : Instr := .fcvt 2 1 8 13 0
    let live (v : View) : Bool := v.t.isLive && v.t.maskTrue v.t.words && decide (v.grp.liveGtids.filter (fun j => j / 32 = v.gtid / 32) = [0, 1])
    lone (machine [bthread 0, bthread 1] [0]) (instrForm i) (fun v => live v && (v.grp.threads[1]?).any fun u => decide (u.wait = .running)) = true ∧
    [true, false].all (fun b => lone (machine [{ bthread 0 with wait := .denusk 0x40400000 b false }, bthread 1] [1]) (instrForm i) fun v =>
      live v && (v.grp.threads[0]?).any fun u => decide (u.pc = v.t.pc ∧ u.wait = .denusk 0x40400000 b false)) = true := by decide +kernel
/-! ### Memory -/

/-- A translation of a global address to this package's memory, for a kind of access. -/
def maps (s : State) (va : Nat) (k : Access) : Bool :=
  decide ((s.translate 1024 va k).2 = .ok va) && decide ((s.translate 1024 va k).1.place va = .memory)

/-- The machine is settled and the L1 of its workgroup is coherent with memory. -/
def quietMemory (s : State) : Bool := s.wgs.all fun x => x.writes.isEmpty && x.l1.all fun e =>
  decide (e.value = BitVec.ofNat 32 (leNat (readBytes s.mem (4 * e.addr) 4)))

/-- Accesses of each size code. -/
def sizes : List (BitVec 3) := [0, 1, 2, 3]

/-- Loads, Stores: at the last address of the scratchpad window and of the records at which an access of the size ends. -/
theorem witness_Loads_windows :
    sizes.all (fun z => (loads 5 1 0x70 1 z 0 0 0).all fun l =>
      lone (one [0, 3145728 - bytesOf z]) (instrForm l.instr) fun v => v.t.maskTrue v.t.words &&
        decide ((loadAddr l.instr v).toNat % bytesOf z = 0 ∧ (loadAddr l.instr v).toNat + bytesOf z = v.wg.spadq * 196608)) = true ∧
    sizes.all (fun z => (loads 5 1 0x70 2 z 5 0 0).all fun l =>
      lone (one [0, 16 - bytesOf z]) (instrForm l.instr) fun v => v.t.maskTrue v.t.words &&
        decide ((loadAddr l.instr v).toNat % bytesOf z = 0 ∧ (loadAddr l.instr v).toNat + bytesOf z = v.wg.per * v.wg.recSize)) = true := by
  decide +kernel

/-- Loads: at a global address that translates, in a settled machine with a coherent L1, of each size code. -/
theorem witness_Loads_global : [0, 1, 2, 3, 4, 5, 6].all (fun z => (loads 5 1 0x70 0 z 3 0 0).all fun l =>
    let s := one [0, 0x200000]
    lone s (instrForm l.instr) fun v => v.t.maskTrue v.t.words && decide (v.t.words.modifier = none) &&
      decide (v.wg.ctx = 1024 ∧ (loadAddr l.instr v).toNat = 0x200000 ∧ v.t.early = [] ∧ v.t.request = none ∧ s.handovers = []) &&
        maps s 0x200000 .read && quietMemory s) = true := by decide +kernel

/-- Loads: a load from the window that was performed early, of each size code without an extension of sign. -/
theorem witness_Loads_early : sizes.all (fun z =>
    let r : EarlyRead := { global := false, addr := 0, home := false, bytes := (bytesLe 8 0x1122334455667788).take (bytesOf z) }
    [Instr.ld 5 1 1 z 0, .ldx 5 1 0x70 1 z].all fun i => lone (withThreads (fun t => { t with early := [r] }) (one [0, 0])) (instrForm i) fun v =>
      v.t.maskTrue v.t.words && decide (v.t.words.modifier = none ∧ r.bytes.length = bytesOf z ∧ (loadAddr i v).toNat = 0)) = true := by
  decide +kernel

/-- The bucket of an address of a context is being handed over. -/
def handing (s : State) (pa : Nat) : State := { s with handovers := [(s.bucketKey 1024 pa, 1)] }

/-- Loads, Atomics: an access to a bucket that is being handed over, of a workgroup whose L1 is empty. -/
theorem witness_Loads_handover :
    let s := handing (one [0, 0x200000, 3]) 0x200000
    s.handing (s.bucketKey 1024 0x200000) = true ∧ s.place 0x200000 = .memory ∧ maps s 0x200000 .read = true ∧
    maps s 0x200000 .modify = true ∧ quietMemory s = true ∧
    ((loads 5 1 0x70 0 2 3 0 0).map LoadShape.instr ++ (atomics 5 1 2 0 0).map AtomRule.instr).all (fun i =>
      lone s (instrForm i) fun v => v.t.maskTrue v.t.words && decide (v.wg.ctx = 1024 ∧ v.wg.l1 = [] ∧ v.t.words.modifier = none)) = true := by
  decide +kernel

/-- Stores: at the last place of the window; `xst` to the last place of the exchange area of rank 0, and to rank 1 of a launch of one. -/
theorem witness_Stores_scratch :
    sizes.all (fun z => (stores 5 1 0x70 1 z 4 0 0).all fun l =>
      lone (one [0, 3145728 - bytesOf z]) (instrForm l.instr) fun v => v.t.maskTrue v.t.words && Memory.wf v.wg.spad &&
        decide ((loadAddr l.instr v).toNat % bytesOf z = 0 ∧ (loadAddr l.instr v).toNat + bytesOf z = v.wg.spadq * 196608)) = true ∧
    sizes.all (fun z => let s := one [0, 8 * 196608 - bytesOf z]
      lone s (instrForm (.xst 5 1 0 z 0)) fun v => v.t.maskTrue v.t.words && decide (s.peerOf v.wg 0 = some 0) && Memory.wf v.wg.shadow &&
        decide (v.wg.launchSize = 1 ∧ (v.read 1).toNat % bytesOf z = 0 ∧ (v.read 1).toNat + bytesOf z = v.wg.exch * 196608)) = true ∧
    lone (one [0, 0]) (instrForm (.xst 5 1 1 2 0)) (fun v => v.t.maskTrue v.t.words && decide (v.wg.launchSize ≤ 1)) = true := by decide +kernel

/-- Stores: at a global address that translates; a release of the least scope that reaches the homes, outside lazy-release mode. -/
theorem witness_Stores_global :
    sizes.all (fun z => (stores 5 1 0x70 0 z 2 0 0).all fun l => let s := one [0, 0x200000]
      lone s (instrForm l.instr) fun v => v.t.maskTrue v.t.words && decide ((loadAddr l.instr v).toNat = 0x200000) &&
        decide (l.acq = none ∨ l.acq = some 2) && maps s 0x200000 .write && maps (s.drainAll 0) 0x200000 .write && !s.lazyCtx 1024) = true := by
  decide +kernel

/-- Atomics: each atomic at an address that translates. -/
theorem witness_Atomics : [0, 1, 2, 3].all (fun t => [0, 1].all fun q => ((atomics 5 1 2 t q).map AtomRule.instr).all fun i =>
    let s := one [0, 0x200000, 3]
    lone s (instrForm i) fun v => v.t.maskTrue v.t.words && decide (v.t.words.modifier = none) && decide ((v.read 1).toNat = 0x200000) &&
      quietMemory s && Memory.wf s.mem && decide (v.t.early = [] ∧ v.t.request = none ∧ s.handovers = []) && maps s 0x200000 .modify) = true := by decide +kernel

/-- AccessLimits: the first address that is not canonical; the first that is misaligned; accesses one place beyond the window and the
records; a store to the records. -/
theorem witness_AccessLimits_traps :
    let s (a : Nat) := one [0, a]
    (loads 5 1 0x70 0 2 0 0 0 ++ stores 5 1 0x70 0 2 0 0 0).all (fun l => lone (s (2 ^ 56)) (instrForm l.instr) fun v =>
      v.t.maskTrue v.t.words && decide (2 ^ 56 ≤ (loadAddr l.instr v).toNat)) = true ∧
    (loads 5 1 0x70 0 2 0 0 0 ++ stores 5 1 0x70 1 2 0 0 0).all (fun l => lone (s 0x200001) (instrForm l.instr) fun v =>
      v.t.maskTrue v.t.words && decide ((loadAddr l.instr v).toNat < 2 ^ 56 ∧ (loadAddr l.instr v).toNat % 4 ≠ 0)) = true ∧
    (loads 5 1 0x70 1 2 0 0 0 ++ stores 5 1 0x70 1 2 0 0 0).all (fun l => lone (s 3145728) (instrForm l.instr) fun v =>
      v.t.maskTrue v.t.words && decide (v.t.early = [] ∧ (loadAddr l.instr v).toNat % 4 = 0 ∧ v.wg.spadq * 196608 < (loadAddr l.instr v).toNat + 4)) = true ∧
    (loads 5 1 0x70 2 2 0 0 0).all (fun l => lone (s 16) (instrForm l.instr) fun v =>
      v.t.maskTrue v.t.words && decide ((loadAddr l.instr v).toNat % 4 = 0 ∧ v.wg.per * v.wg.recSize < (loadAddr l.instr v).toNat + 4)) = true ∧
    (stores 5 1 0x70 2 2 0 0 0).all (fun l => lone (s 0) (instrForm l.instr) fun v =>
      v.t.maskTrue v.t.words && decide ((loadAddr l.instr v).toNat % 4 = 0)) = true := by decide +kernel

/-- AccessLimits: a thread whose prefix masks it off executes loads, stores and atomics. -/
theorem witness_AccessLimits_inactive :
    let p : Prefix := { mps := 13, mneg := 0, pol := 0, rnd := 0, cuse := 0, c := 0 }
    let s := withThreads (fun t => { t with words := { t.words with pre := some p } }) (one [0, 0x200000])
    ((loads 5 1 0x70 0 2 0 0 0 ++ stores 5 1 0x70 0 2 0 0 0).map LoadShape.instr ++ (atomics 5 1 2 0 0).map AtomRule.instr).all
      (fun i => lone s (instrForm i) fun v => !v.t.maskTrue v.t.words) = true := by decide +kernel

/-! ### Compressing stores and expanding loads -/

/-- Two threads of three supply an element at 0x200000 of width n, the first of them waiting; the third has nothing to do with it. -/
def packing (store : Bool) : State :=
  let waits : Thread := { holding [0, 0x200000, 3] with wait := .compress 3 0x200000 (if store then 7 else 0) true false }
  warmed (machine [waits, holding [0, 0x200000, 3, 0, 0, 9], bthread 2] [1])

/-- CompressExpand: the last of two active members arrives at each form. -/
theorem witness_CompressExpand :
    [(Instr.stc32 5 1 2, true, 4), (.stc64 5 1 2, true, 8), (.lde32 5 1 2, false, 4), (.lde64 5 1 2, false, 8)].all (fun x =>
      let s := packing x.2.1
      lone s (instrForm x.1) fun v => arrives 2 3 v && decide (v.t.pcnt = 0 ∧ v.t.early = []) && v.t.maskTrue v.t.words && decide (v.t.words.modifier = none) &&
        decide ((v.read 1).toNat = 0x200000) && quietMemory s &&
        ((v.grp.threads[0]?).any fun u => decide (u.pc = v.t.pc ∧ u.pcnt = 0 ∧ u.words.modifier = none ∧ u.early = []) && (match u.wait with
          | .compress m b _ a _ => decide (m = 3 ∧ b = 0x200000) && a
          | _ => false)) &&
        [0, 1].all fun k => maps s (0x200000 + k * x.2.2) .read && maps s (0x200000 + k * x.2.2) .write &&
          decide ((s.translate 1024 (0x200000 + k * x.2.2) .write).1 = s)) = true := by decide +kernel

/-! ### Fences, caches, barriers, syncs -/

/-- FencesAndCaches: each fence at the scope below `.clu`, at `.clu` and at the widest. -/
theorem witness_FencesAndCaches_fences : [1, 2, 5].all (fun sc => [Instr.fence sc, .fenceAcq sc, .fenceRel sc].all fun i =>
    lone (one []) (instrForm i) fun v => !(one []).lazyCtx v.wg.ctx) = true := by decide +kernel

/-- FencesAndCaches: fences in lazy-release mode, at the widest scope below `.sys`, at `.sys`, and full ones. -/
theorem witness_FencesAndCaches_lazy :
    let s : State := { one [] with ctxs := (one []).ctxs.map fun c => { c with lazy := true } }
    [Instr.fenceRel 0, .fenceRel 4, .fenceRel 5, .fence 2, .fence 5].all (fun i => lone s (instrForm i) fun v => s.lazyCtx v.wg.ctx) = true := by
  decide +kernel

/-- FencesAndCaches: `pref`, `cinv`, `cwb` of length 0 and of one byte more than its bound, and `icinv`. -/
theorem witness_FencesAndCaches_maintenance :
    let s := one [0, 0x200000, 0x40000001]
    lone s (instrForm (.pref 1)) (fun v => v.wg.writes.isEmpty) = true ∧ lone s (instrForm (.cinv 1 2)) (fun _ => true) = true ∧
    [3, 4, 5].all (fun sc => lone s (instrForm (.cwb sc 1 2)) (fun v => decide (0x40000000 < (v.read 2).toNat)) &&
      lone s (instrForm (.cwb sc 1 0x70)) fun v => decide ((v.read 0x70).toNat = 0)) = true ∧
    [1, 3].all (fun sc => lone s (instrForm (.icinv sc 1 2)) fun _ => true) = true := by decide +kernel

/-- A machine with barrier 2 as given, in which a thread executes with A and B. -/
def atBarrier (b : Barrier) (x y : Nat) : State := withWg (fun w => { w with barriers := w.barriers.set 2 b }) (one [0, x, y])

/-- An armed barrier that expects `e` arrivals and `y` bytes and has `k` and `z`. -/
def armed (e k y z : Nat) : Barrier :=
  { armed := true, phase := false, broken := false, expect := e, arrive := k, bytesExp := y, bytesArr := z }

/-- Barriers: `bar.arm` at each bound of its counts, of barriers in each state. -/
theorem witness_Barriers_arm :
    let runs (b : Barrier) (x y : Nat) (p : Barrier → Nat → Nat → Bool) : Bool := lone (atBarrier b x y) (instrForm (.barArm 2 1 2)) fun v =>
      p (v.wg.barrier 2) (v.read 1).toNat (v.read 2).toNat
    runs Barrier.reset 4096 0 (fun _ e _ => decide (4095 < e)) = true ∧ runs Barrier.reset 4095 (2 ^ 24) (fun _ _ y => decide (2 ^ 24 - 1 < y)) = true ∧
    runs Barrier.reset 0 (2 ^ 24 - 1) (fun x e y => decide (e = 0 ∧ y ≤ 2 ^ 24 - 1 ∧ x.arrive = 0 ∧ x.bytesArr = 0)) = true ∧
    runs { armed 1 0 0 0 with broken := true } 0 0 (fun x e y => decide (e = 0 ∧ y ≤ 2 ^ 24 - 1) && x.broken) = true ∧
    runs (armed 2 1 0 0) 0 0 (fun x e _ => decide (e = 0 ∧ x.arrive ≠ 0) && !x.broken) = true ∧
    runs (armed 2 0 0 1) 0 (2 ^ 24 - 1) (fun x e y => decide (e = 0 ∧ y ≤ 2 ^ 24 - 1 ∧ x.bytesArr ≠ 0) && !x.broken) = true ∧
    runs Barrier.reset 4095 0 (fun x e _ => decide (1 ≤ e ∧ e ≤ 4095) && !x.armed) = true ∧
    runs (armed 1 0 0 0) 1 0 (fun x e _ => x.armed && !x.broken && decide (x.expect = e)) = true ∧
    runs (armed 1 0 0 0) 2 0 (fun x e _ => x.armed && !x.broken && decide (1 ≤ e ∧ x.expect ≠ e)) = true := by decide +kernel

/-- Barriers: `bar.arrive` and `bar.sync` with counts at their bounds, short of the phase, completing it and overrunning it. -/
theorem witness_Barriers_arrive :
    let runs (b : Barrier) (n : Nat) (p : Barrier → Nat → Bool) : Bool :=
      lone (atBarrier b n 0) (instrForm (.barArrive 3 2 1)) (fun v => p (v.wg.barrier 2) (v.read 1).toNat) &&
      lone (atBarrier b n 0) (instrForm (.barSync 3 2 1)) fun v => p (v.wg.barrier 2) (v.read 1).toNat && decide (v.t.wait = .running)
    runs (armed 3 0 0 0) 0 (fun _ n => decide (n = 0)) = true ∧ runs (armed 3 0 0 0) 4096 (fun _ n => decide (4095 < n)) = true ∧
    runs Barrier.reset 1 (fun x n => decide (1 ≤ n) && !x.armed) = true ∧
    runs { armed 3 0 0 0 with broken := true } 1 (fun x n => decide (1 ≤ n) && x.armed && x.broken) = true ∧
    runs (armed 3 2 0 0) 2 (fun x n => x.armed && !x.broken && decide (x.expect < x.arrive + n)) = true ∧
    runs (armed 3 2 0 1) 1 (fun x n => x.armed && !x.broken && decide (x.arrive + n = x.expect ∧ x.bytesExp < x.bytesArr)) = true ∧
    runs (armed 3 0 8 (2 ^ 24)) 1 (fun x n => x.armed && !x.broken && decide (1 ≤ n ∧ 2 ^ 24 - 1 < x.bytesArr)) = true ∧
    runs (armed 3 2 8 8) 1 (fun x n => x.armed && !x.broken && decide (x.arrive + n = x.expect ∧ x.bytesArr = x.bytesExp)) = true ∧
    runs (armed 4095 0 8 0) 4094 (fun x n => x.armed && !x.broken && decide (1 ≤ n ∧ n ≤ 4095 ∧ x.arrive + n < x.expect)) = true := by
  decide +kernel

/-- Barriers: an arrival and a sync that complete a phase for which a live thread waits. -/
theorem witness_Barriers_waiter :
    let s := withWg (fun w => { w with barriers := w.barriers.set 2 (armed 3 2 8 8) })
      (machine [{ bthread 0 with wait := .barrier 2 false 3 }, holding [0, 1]] [1])
    [Instr.barArrive 3 2 1, .barSync 3 2 1].all (fun i => lone s (instrForm i) fun v =>
      decide ((v.wg.barrier 2).arrive + (v.read 1).toNat = (v.wg.barrier 2).expect ∧ (v.wg.barrier 2).bytesArr = (v.wg.barrier 2).bytesExp) &&
        decide (v.t.wait = .running) && v.t.isLive && (v.grp.threads[0]?).any fun u => u.isLive &&
          decide (u.wait = .barrier 2 (v.wg.barrier 2).phase 3)) = true := by decide +kernel

/-- Barriers: `bar.expect`, `bar.wait` and `bar.test` of barriers in each state, and byte counts at their bound. -/
theorem witness_Barriers_waits :
    let expects (b : Barrier) (y : Nat) (p : Barrier → Nat → Bool) : Bool := lone (atBarrier b y 0) (instrForm (.barExpect 2 1)) fun v =>
      p (v.wg.barrier 2) (v.read 1).toNat
    let waits (b : Barrier) (y : Nat) (p : Barrier → Bool → Bool) : Bool := lone (atBarrier b y 0) (instrForm (.barWait 3 2 1)) (fun v =>
      p (v.wg.barrier 2) ((v.read 1).getLsbD 0)) && lone (atBarrier b y 0) (instrForm (.barTest 3 2 1 10)) fun _ => true
    expects (armed 1 0 1 0) (2 ^ 24 - 2) (fun x y => x.armed && !x.broken && decide (x.bytesExp + y ≤ 2 ^ 24 - 1)) = true ∧
    expects (armed 1 0 1 0) (2 ^ 24 - 1) (fun x y => x.armed && !x.broken && decide (2 ^ 24 - 1 < x.bytesExp + y)) = true ∧
    expects Barrier.reset 1 (fun x _ => !x.armed) = true ∧ expects { armed 1 0 0 0 with broken := true } 1 (fun x _ => x.armed && x.broken) = true ∧
    waits (armed 1 0 0 0) 1 (fun x p => x.phase != p) = true ∧ waits (armed 1 0 0 0) 0 (fun x p => x.phase == p && x.armed && !x.broken) = true ∧
    waits Barrier.reset 0 (fun x p => x.phase == p && !x.armed) = true ∧
    waits { armed 1 0 0 0 with broken := true } 0 (fun x p => x.phase == p && x.armed && x.broken) = true := by decide +kernel

/-- Syncs: the last of two participants at each form, and the first of two. -/
theorem witness_Syncs : [1, 2, 5].all (fun sc => (syncs sc).all fun e =>
    let last := machine [{ bthread 0 with wait := .sync e.2.1 e.2.2 }, bthread 1] [1]
    let free (s : State) (v : View) : Bool := decide (v.t.wait = .running) && v.t.isLive &&
      (liveThreads (s.launchOf 0)).all fun y => !otherSync e.2.1 v.t.pc ⟨0, 0, v.gtid⟩ y
    let others (s : State) (v : View) : List (ThreadId × Thread) := (s.participants 0 0 (syncSet e.2.1 e.2.2)).filter fun y => y.1.gtid != v.gtid
    lone last (instrForm e.1) (fun v => free last v && decide ((others last v).map (fun y => (y.2.wait, y.2.pc)) = [(.sync e.2.1 e.2.2, v.t.pc)])) &&
    lone (machine [bthread 0, bthread 1] [1]) (instrForm e.1) fun v => free (machine [bthread 0, bthread 1] [1]) v &&
      decide ((others (machine [bthread 0, bthread 1] [1]) v).map (fun y => y.2.wait) = [.running])) = true := by decide +kernel

/-- Syncs: the workgroups have numbers of their own, and nothing sent to the window of the one that swaps has yet to land. -/
theorem witness_Syncs_swap :
    let s := machine [{ bthread 0 with wait := .sync 2 2 }, bthread 1] [1]
    (s.wgs.map Workgroup.id).Nodup ∧ ((s.wg? 0).map fun x => (x.inbound, decide (x.exch ≤ x.spadq))) = some ([], true) ∧
    lone s (instrForm .barSwap) (fun v => v.t.isLive && decide (v.t.wait = .running)) = true := by decide +kernel

/-! ### Ragged walks -/

/-- The walk of the example of chapter 06: rows of 3, 0, 6 and 1 elements, with its lengths at 0x200100 and its descriptor at 0x200000;
s1 is its address and s2 the request. -/
def walking (request : Nat) : State :=
  let d := leBytes 8 0x200100 ++ leBytes 8 0x210000 ++ leBytes 8 0x220000 ++ leBytes 8 4
  let m := writeBytes (writeBytes (bench 8).mem 0x200000 d) 0x200100 ([3, 0, 6, 1].flatMap fun n => leBytes 4 n)
  withGroup (fun g => { g with scalars := (g.scalars.set 1 0x200000).set 2 (BitVec.ofNat 64 request) }) { bench 8 with mem := m }

/-- RaggedWalks: a request that is granted, with a descriptor that can be read; one with a reserved bit; `walknext` after and before
a `walkset`. -/
theorem witness_RaggedWalks_steps :
    let s := walking 0x21910
    joint s (instrForm (.walkset 0x50 0x51 0x52)) (fun x gr => match walkRequest (gr.read 0x52) with
      | none => false
      | some q => match (s.gathered 0 0 gr).walkDescriptor x.ctx 0 (gr.read 0x51) with
        | (s1, .ok l) => decide ((l.getD 3 0).toNat / 2 ^ 24 % 2 ^ 8 = 0 ∧ (l.getD 3 0).toNat % 2 ^ 24 ≠ 0) &&
          (s1.takeStep x.ctx 0 0 (Walk.start l (q.grant 8) 8)).2.toOption.isSome
        | _ => false) = true ∧
    joint (walking 0x121910) (instrForm (.walkset 0x50 0x51 0x52)) (fun _ gr => (walkRequest (gr.read 0x52)).isNone) = true ∧
    joint s (instrForm (.walknext 0x50)) (fun _ gr => gr.walk.isNone) = true ∧
    joint (after (.walkset 0x50 0x51 0x52) s) (instrForm (.walknext 0x50)) (fun x gr => match gr.walk with
      | none => false
      | some k => (((after (.walkset 0x50 0x51 0x52) s).gathered 0 0 gr).takeStep x.ctx 0 0 k).2.toOption.isSome) = true := by decide +kernel

/-- RaggedWalks: a step of one row that does not pack, at the last column of a row. -/
theorem witness_RaggedWalks_row :
    let k := { Walk.start [0, 0, 0, 4] { ph := 2, pv := 1, pack := false, align := 0, width := 1 } 8 with len := some 3, col := 2 }
    k.pack = false ∧ 0 < k.width ∧ k.row < k.rows ∧ k.len = some 3 ∧ k.col < 3 := by decide +kernel

/-- RaggedWalks: a thread of a group that has made no `walkset` executes each access. -/
theorem witness_RaggedWalks_before :
    [Instr.walkldRow 5, .walkldCol 5, .walkld32 5 0x70, .walkld64 5 0x70, .walkst32 5 0x70, .walkst64 5 0x70].all (fun i =>
      lone (one []) (instrForm i) fun v => v.t.maskTrue v.t.words && v.grp.walk.isNone) = true := by decide +kernel

/-- RaggedWalks: a lane with an element and an idle one execute each access of a walk. -/
theorem witness_RaggedWalks_access :
    let s := after (.walkset 0x50 0x51 0x52) (walking 0x21910)
    [(0, true), (3, false)].all (fun x => let r : State := { s with cur := some ⟨0, 0, [x.1]⟩ }
      [Instr.walkldRow 5, .walkldCol 5, .walkld32 5 0x70, .walkld64 5 0x70, .walkst32 5 0x70, .walkst64 5 0x70].all fun i =>
        lone r (instrForm i) fun v => v.t.maskTrue v.t.words && v.grp.walk.any (fun k => ((k.assigned[v.gtid]?).getD none).isSome == x.2 &&
          decide (k.inbase = 0x210000 ∧ k.outbase = 0x220000 ∧ v.t.early = [])) && maps r 0x210000 .read && maps r 0x220000 .write && quietMemory r) = true := by
  decide +kernel

/-! ### Matrix engine -/

/-- A machine whose core 0 is changed. -/
def withCore (f : Core → Core) (s : State) : State := { s with cores := s.cores.set 0 (f Core.idle) }

/-- A machine whose group's s-registers from s0 on are as given. -/
def withScalars (l : List Nat) (s : State) : State :=
  withGroup (fun g => { g with scalars := Vector.ofFn fun i => BitVec.ofNat 64 (l.getD i.val 0) }) s

/-- A descriptor of a slab of a type, at an offset, with an accumulator of a type and one K-step (R170). -/
def slab (type acc offset : Nat) : Reg := BitVec.ofNat 64 (type * 2 ^ 60 + acc * 2 ^ 54 + 2 ^ 51 + offset)

/-- Each of the products passes the checks of R172, on the last tile held and with its second operand at its bounds. -/
theorem witness_ProductsEnter_ready :
    let x := Workgroup.bare 0 1024 0x100000
    let s := bench 2
    ProductReady s x (.mma 0 1 7 0 15 63) 7 (slab 9 0 0) (slab 9 0 0x2000) ∧ ProductReady s x (.mtrans 0 1 7 0 15) 7 (slab 9 0 0) 120 ∧
    ProductReady s x (.mperm 0 1 7 0 15) 7 (slab 0 1 0) 0x4000000000003000 ∧ ProductReady s x (.mrsum 0 1 7 0 15) 7 (slab 0 1 0) 191 := by
  refine ⟨⟨?_, ?_, ?_, ?_, ?_⟩, ⟨?_, ?_, ?_, ?_, ?_⟩, ⟨?_, ?_, ?_, ?_, ?_⟩, ⟨?_, ?_, ?_, ?_, ?_⟩⟩ <;>
    first | decide +kernel | (simp only [SlabReady, secondReady]; decide +kernel)

/-- ProductsEnter: the live threads of a group stand together at each product; the queue has room for one command, and is full. -/
theorem witness_ProductsEnter_room :
    let s := withScalars [0x9008000000000000, 0x9008000000002000] (bench 2)
    let c (k : Core) (n : Nat) : Core := { k with matrix := List.replicate n (s.newCommand 0 0 [(0, 0)] [] [] (.acczero 0)) }
    (products 0 1 7 0 15 63).all (fun i => joint (withCore (c · 15) s) (instrForm i) (fun x _ =>
        ((withCore (c · 15) s).core? x.core).any fun k => decide (k.matrix.length < 16)) &&
      joint (withCore (c · 16) s) (instrForm i) fun x _ => ((withCore (c · 16) s).core? x.core).any fun k => decide (16 ≤ k.matrix.length)) = true := by
  decide +kernel

/-- A workgroup of two groups in a gang of register 3, the first executing; the second has not arrived, or has. -/
def ganged (second : Option (List Reg)) : State :=
  withWg (fun x => { x with groups := x.groups ++ [{ Group.entry 1 64 2 0 0 [bthread 7] with latch := second }],
                            gangs := x.gangs.set 3 { valid := true, members := 3 } })
    (withScalars [0x9008000000000000, 0x9008000000002000] (bench 2))

/-- ProductsEnter: the first member of a gang arrives, and the last. -/
theorem witness_ProductsEnter_gang : [(none, true), (some [3, 0xABCDE, 0x9008000000000000, 0x9008000000002000], false)].all (fun e =>
    (products 0 1 7 7 15 63).all fun i => joint (ganged e.1) (instrForm i) fun x gr =>
      x.gangs[3].valid && x.gangs[3].members.getLsbD 0 && x.groups.all (fun y => !y.liveGtids.isEmpty) &&
      decide ([BitVec.ofNat 64 3, (ganged e.1).ir.setWidth 64, gr.scalar 0, gr.scalar 1] = [3, 0xABCDE, 0x9008000000000000, 0x9008000000002000]) &&
      (x.groups[1]?).any fun y => y.latch.isNone == e.2) = true := by decide +kernel

/-- ProductsEnter: a tile that is not held; a gang register that is not valid, one whose gang the group is not of, and one with a
member that has no live thread. -/
theorem witness_ProductsEnter_traps :
    (products 0 1 7 0 15 63).all (fun i => joint (withWg (fun x => { x with tilesHeld := 7 }) (bench 2)) (instrForm i) fun x _ =>
      decide (x.tilesHeld ≤ 7)) = true ∧
    [({ valid := false, members := 3 }, 0), ({ valid := true, members := 2 }, 1), ({ valid := true, members := 5 }, 2)].all (fun (e : Gang × Nat) =>
      (products 0 1 7 7 15 63).all fun i => joint (withWg (fun x => { x with gangs := x.gangs.set 3 e.1 }) (ganged none)) (instrForm i) fun x _ =>
        decide (7 < x.tilesHeld) && match e.2 with
          | 0 => !x.gangs[3].valid
          | 1 => !x.gangs[3].members.getLsbD 0
          | _ => x.gangs[3].valid && x.gangs[3].members.getLsbD 0 && x.gangs[3].members.getLsbD 2 && x.groups[2]?.isNone) = true := by
  decide +kernel

/-- MatrixControl: gangs of two groups and of none; a tile held and one not; waits at the count and below it; `mflags`. -/
theorem witness_MatrixControl :
    joint (withThreads (fun t => { t with regs := t.regs.set 1 3 }) (ganged none)) (instrForm (.gang 3 0x50)) (fun x _ =>
      x.groups.all fun y => y.latch.isNone) = true ∧
    [0, 3].all (fun v => joint (withWg (fun x => { x with groups := x.groups.map fun g => { g with scalars := g.scalars.set 0 v } }) (ganged none))
      (instrForm (.gang 0 0x50)) fun x gr => decide (gr.read 0x50 = v ∧ x.groups.length = 2)) = true ∧
    [Instr.accld 7 0, .accst 7 0, .acczero 7].all (fun i => joint (bench 2) (instrForm i) fun x _ => decide (7 < x.tilesHeld)) = true ∧
    [Instr.accld 7 0, .accst 7 0, .acczero 7].all (fun i => joint (withWg (fun x => { x with tilesHeld := 7 }) (bench 2)) (instrForm i) fun x _ =>
      decide (x.tilesHeld ≤ 7)) = true ∧
    [2, 3].all (fun k => joint (withGroup (fun g => { g with matrixCount := k }) (bench 2)) (instrForm (.mwait 2)) fun _ gr =>
      decide (gr.matrixCount = k)) = true ∧
    [0, 1].all (fun k => joint (withGroup (fun g => { g with lookupCount := k }) (bench 2)) (instrForm (.mflags 9 0x72)) fun _ gr =>
      decide (gr.lookupCount = k ∧ gr.matrixCount = 0) && gr.pendFault.isNone) = true := by decide +kernel

/-- MatrixControl: copies of whole tiles of FP32 that end with the window (R184). -/
theorem witness_MatrixControl_copy : CopyReady false 98304 0x80FFC00180000000 ∧ CopyReady true 98304 0x80FFC00180000000 := by
  have o : (bf (0x80FFC00180000000 : Reg) 0 23).toNat = 0 := by decide
  have p : (bf (0x80FFC00180000000 : Reg) 23 23).toNat = 768 := by decide
  have r : rowBlock (bf (0x80FFC00180000000 : Reg) 60 4).toNat = 128 := by decide
  constructor <;> refine ⟨by decide, by decide, by decide, by decide, by decide, fun m j hm hj _ _ => ?_⟩ <;> rw [o, p, r] <;> omega

/-- A machine with one command at the head of the matrix queue of core 0. -/
def multiplying (op : Instr) (regs : List Reg) : State :=
  withCore (fun k => { k with matrix := [(bench 2).newCommand 0 0 [(0, 0)] regs [] op] }) (withGroup (fun g => { g with matrixCount := 1 }) (bench 2))

/-- MatrixCompletion: a command of each shape that the statement computes stands at the head of the queue, and its workgroup lives. -/
theorem witness_MatrixCompletion :
    [(Instr.acczero 7, ([] : List Reg)), (.accld 7 0, [0x80FFC00180000000]), (.accst 7 0, [0x80FFC00180000000]),
      (.mma 0 1 7 0 15 63, [slab 0 1 0, slab 4 0 0x2000]), (.mtrans 0 1 7 0 15, [slab 0 1 0, 0]), (.mperm 0 1 7 0 15, [slab 4 1 0, 0x4000000000003000]),
      (.mrsum 0 1 7 0 15, [slab 0 1 0, 191]), (.mma 0 1 7 0 15 63, [slab 9 0 0, slab 9 0 0x2000])].all (fun e =>
      let s := multiplying e.1 e.2
      s.input.unit == 0 && s.power && s.running && decide (s.overwritten = []) && ((s.core? 0).any fun k => k.matrix.length == 1 && k.lookup.isEmpty &&
        (k.matrix.all fun c => decide (c.regs = e.2 ∧ c.counted = [(0, 0)]) && c.tile? == some 7)) &&
      (s.wg? 0).any fun x => x.anyLive && x.inbound.isEmpty && Memory.wf x.spad && x.tiles.toList.all (Sparse.wfFrom none)) = true ∧
    bf (0x80FFC00180000000 : Reg) 60 4 = 8 ∧ (bf (0x80FFC00180000000 : Reg) 23 23).toNat = 768 ∧ bf (slab 0 1 0) 54 2 = 1 ∧
    (operandOf (slab 9 0 0)).rem = false := by decide +kernel

/-- MatrixCompletion: a command in action that reads a byte that another has written since, and one that none has. -/
theorem witness_MatrixCompletion_raced :
    let s : State := { multiplying (.acczero 7) [] with
      acting := some 3, overwritten := [{ wg := some 0, addr := 5, old := 9, stamp := 4, writer := some 1 }] }
    s.acting = some 3 ∧ s.heldSince 3 (some 0) 5 = [9] ∧ s.heldSince 3 (some 0) 6 = [] := by decide +kernel

/-! ### Lookup engine -/

/-- A valid table of one group of two BF16 activations at offset 0, with FP32 entries that are all zero. -/
def smallTable : Table :=
  { state := .valid, gsel := 0, efmt := 0, sfmt := 0, ngroups := 1, srclen := 4, srcbase := 0, entries := [] }

/-- LookupIssue: configurations at the bounds of their fields; tables held and not; counts of none and one; a pending fault. -/
theorem witness_LookupIssue_control :
    [0, 10, 11, 12, 16].all (fun v => joint (withScalars [v] (bench 2)) (instrForm (.tcfg 0)) fun _ gr => decide ((gr.scalar 0).toNat = v)) = true ∧
    [7, 8].all (fun n => joint (withWg (fun x => { x with tablesHeld := n }) (bench 2)) (instrForm (.tinv 0x80)) (fun x _ =>
        decide (named 0x80 = [7] ∧ x.tablesHeld = n)) &&
      joint (withWg (fun x => { x with tablesHeld := n }) (bench 2)) (instrForm (.tstat 7 3)) fun x _ => decide (x.tablesHeld = n)) = true ∧
    [0, 1].all (fun k => [none, some 5].all fun o => [Instr.twait, .twaitPoll 3].all fun i =>
      joint (withGroup (fun g => { g with lookupCount := k, pendFault := o }) (bench 2)) (instrForm i) fun _ gr =>
        decide (gr.lookupCount = k ∧ gr.pendFault = o)) = true := by decide +kernel

/-- A machine whose table 0 is as given, with the descriptors of the example of chapter 08 in s4, s6 and s7. -/
def looking (t : Table) : State :=
  withWg (fun x => { x with tables := x.tables.set 0 t })
    (withScalars [0, 0, 0, 2, 0xA000000000000000, 0, 0x2C00000100801000, 0x7000] (bench 2))

/-- Core 0 with a command in its lookup queue that holds a number of snapshot slots. -/
def slotted (n : Nat) (s : State) : State := s.modCore 0 fun k => { k with lookup := [{ s.newCommand 0 0 [] [] [] (.tbuild 0 0) with slack := n }] }

/-- LookupIssue: a `tbuild` of the example, into the last table held: one snapshot slot is free, or none is. -/
theorem witness_LookupIssue_build : [31, 32].all (fun n => joint (slotted n (looking Table.reset)) (instrForm (.tbuild 7 4)) (fun x gr =>
    let v := gr.scalar 4
    decide (7 < x.tablesHeld ∧ (bf v 60 4).toNat = 10 + (0 : BitVec 2).toNat ∧ bf v 23 27 = 0 ∧ (bf v 0 23).toNat % 64 = 0) &&
      decide ((bf v 0 23).toNat + (gr.gsel.toNat + 2) * ((bf v 50 10).toNat + 1) * 2 ≤ x.spadq * 196608) &&
      ((slotted n (looking Table.reset)).core? x.core).any fun k =>
        decide (k.lookup.length < 16) && decide ((k.lookup.map Command.slack).sum + 1 ≤ 32) == decide (n = 31))) = true := by
  decide +kernel

/-- LookupIssue: a `tlook` and a `tspill` on an evicted table need a slot, on a valid one none. -/
theorem witness_LookupIssue_slots (x : Workgroup) : evictedOf { x with tables := Vector.replicate 8 { smallTable with state := .evicted } } [2] = 1 ∧
    evictedOf { x with tables := Vector.replicate 8 smallTable } [2] = 0 := by simp [evictedOf, Workgroup.table, smallTable]

/-- LookupIssue: the `tlook` of the example is accepted with a valid table and with an evicted one. -/
theorem witness_LookupIssue_look (x : Workgroup) (hx : x = { Workgroup.bare 0 1024 0x100000 with
      tables := (Vector.replicate 8 Table.reset).set 0 smallTable } ∨ x = { Workgroup.bare 0 1024 0x100000 with
      tables := (Vector.replicate 8 Table.reset).set 0 { smallTable with state := .evicted } }) :
    LookReady x 7 1 0x2C00000100801000 0x7000 := by
  have hl : ∀ n p : Nat, n < 192 → p ≤ 1 → 4096 + (p * 192 + n) * 64 * 1 + 1 ≤ 16 * 196608 := by omega
  have hp : ∀ n j : Nat, n < 192 → 16 * j ≤ 0 → 28672 + (j * 192 + n) * 8 + 8 ≤ 16 * 196608 := by omega
  rcases hx with rfl | rfl <;>
    exact ⟨by decide, by decide, by decide, by decide, by decide, by decide, by decide, by decide,
      fun n p hn hq _ => hl n p hn hq, fun n j hn hj _ => hp n j hn hj⟩

/-- LookupIssue: groups stand at `tlook`, at one whose table is stale or invalid, at `tspill` and at `tfill`. -/
theorem witness_LookupIssue_rest :
    joint (looking smallTable) (instrForm (.tlook 6 7 1)) (fun x gr => decide ((gr.scalar 6, gr.scalar 7) = (0x2C00000100801000, 0x7000)) &&
      decide ((x.table 0).state = .valid)) = true ∧
    [TableState.invalid, .stale].all (fun st => joint (looking { smallTable with state := st }) (instrForm (.tlook 6 7 1)) fun x gr =>
      ((lookDesc (gr.scalar 6) (gr.scalar 7)).illegal (gr.scalar 7) 6 1).isNone && decide (bf (gr.scalar 6) 32 6 ≠ 0) &&
        !(gr.scalar 6).getLsbD 60 && decide (named 1 = [0] ∧ (x.table 0).state = st)) = true ∧
    [TableState.valid, .evicted, .invalid].all (fun st => joint (looking { smallTable with state := st }) (instrForm (.tspill 0 0)) fun x gr =>
      decide (bf (gr.scalar 0) 23 41 = 0 ∧ (gr.scalar 0).toNat % 64 = 0 ∧ (x.table 0).state ≠ .stale) &&
        decide ((gr.scalar 0).toNat + (imageOf (afresh x.spad (x.table 0))).length ≤ x.spadq * 196608)) = true ∧
    joint (withWg (fun x => { x with spad := writeBytes [] 0 (imageOf smallTable) }) (bench 2)) (instrForm (.tfill 7 0x1)) (fun x gr =>
      decide (x.spadq ≤ 24 ∧ readBytes x.spad (gr.scalar 1).toNat (imageOf smallTable).length = imageOf smallTable)) = true ∧
    smallTable.srclen = (smallTable.gsel.toNat + 2) * smallTable.ngroups * 2 := by decide +kernel

/-- LookupIssue: in the machines of these witnesses no write races, and the queue of the core has room for a command without a slot. -/
theorem witness_LookupIssue_quiet :
    [slotted 31 (looking Table.reset), slotted 32 (looking Table.reset), looking smallTable, looking { smallTable with state := .evicted },
      withWg (fun x => { x with spad := writeBytes [] 0 (imageOf smallTable) }) (bench 2)].all (fun s => s.overwritten.isEmpty &&
        (s.core? 0).any fun k => decide (k.lookup.length < 16 ∧ (k.lookup.map Command.slack).sum ≤ 32)) = true := by decide +kernel

/-- LookupCompletion: a `tlook` with its codes in range (all are zero) stands at the head of the queue, and one whose code 9 in plane 1
lies beyond the entries of a group of two; and a `tspill`. -/
theorem witness_LookupCompletion :
    let s (spad : List Host.Cell) (op : Instr) (regs : List Reg) (ts : List Table) : State :=
      withCore (fun k => { k with lookup := [{ (bench 2).newCommand 0 0 [(0, 0)] regs [] op with tables := ts }] })
        (withWg (fun x => { x with spad := spad }) (withGroup (fun g => { g with lookupCount := 1 }) (bench 2)))
    [s [] (.tlook 6 7 1) [0x2C00000100801000, 0x7000, 0] [smallTable],
      s (writeBytes [] 0x4000 [9]) (.tlook 6 7 1) [0x2C00000100801000, 0x7000, 0] [smallTable],
      s [] (.tspill 0 0) [0] [smallTable]].all (fun z => z.input.unit == 0 && z.power && z.running && z.overwritten.isEmpty &&
        ((z.core? 0).any fun k => k.lookup.length == 1 && k.matrix.isEmpty && (k.lookup.all fun c => decide (c.counted = [(0, 0)]))) &&
        (z.wg? 0).any fun x => x.anyLive && Memory.wf x.spad && x.tiles.toList.all (Sparse.wfFrom none)) = true ∧
    codeAt (writeBytes [] 0x4000 [9]) 0x2C00000100801000 1 0 0 = 9 ∧ codeAt [] 0x2C00000100801000 1 0 0 = 0 ∧
    (bf (0x2C00000100801000 : Reg) 38 10).toNat + (bf (0x2C00000100801000 : Reg) 48 10).toNat + 1 ≤ smallTable.ngroups := by decide +kernel

/-! ### Records, ends of threads -/

/-- RecordsAndExit: ports that are declared, completion ports, undeclared or done with; depths at the bound and above it; queues with
room and full. -/
theorem witness_RecordsAndExit_records :
    let s (depth : Nat) (full : Bool) : State := withWg (fun x => { x with depth := depth }) (let g := inGraph 0 (one [0, 1])
      if full then { g with graphs := g.graphs.map fun y => { y with nodes := y.nodes.map fun n =>
        { n with queue := List.replicate 4 { bytes := [], depth := 0, entered := 0, chunk := 0 } } } } else g)
    crew (bench 2) (instrForm (.recInit 7 15)) [0, 1] = true ∧ lone (s 0 false) (instrForm (.eport 7)) (fun _ => true) = true ∧
    [Instr.emit 0, .emitq 0 11].all (fun i => [false, true].all fun full => lone (s 3 full) (instrForm i) fun v =>
      (((s 3 full).node? v.wg.graph v.wg.node).bind fun n => n.desc.ports[0]?).any (fun e => e.valid && !e.compl && !e.remote &&
        ((s 3 full).node? v.wg.graph e.node).any fun n => decide (depthOver v.wg e = 3 ∧ n.desc.depth = 3) && n.waiting.isEmpty && !n.killed &&
          !n.finalClosed && decide (n.desc.kind ≠ .join) && ((s 3 full).hasRoom v.wg.graph e.node == !full)) &&
      !v.t.ports.getLsbD 0) = true ∧
    [Instr.emit 2, .emitq 2 11].all (fun i => lone (s 3 false) (instrForm i) fun v =>
      (((s 3 false).node? v.wg.graph v.wg.node).bind fun n => n.desc.ports[2]?).any fun e => decide (3 < depthOver v.wg e)) = true ∧
    [1, 4].all (fun p => [Instr.emit p, .emitq p 0].all fun i => lone (s 0 false) (instrForm i) fun v =>
      (((s 0 false).node? v.wg.graph v.wg.node).bind fun n => n.desc.ports[p.toNat]?).all fun e => e.compl) = true ∧
    lone (withThreads (fun t => { t with ports := 1 }) (s 0 false)) (instrForm (.emit 0)) (fun v => v.t.ports.getLsbD 0) = true := by
  decide +kernel

/-- RecordsAndExit: a port to another package with a valid binding, whose edge has all its credits, the last one, or none; the depth
is at the port's bound. -/
theorem witness_RecordsAndExit_remote :
    let s (k : Option Nat) : State := let g := withWg (fun x => { x with depth := 2 }) (inGraph 0 (one [0, 1]))
      warmed { g with graphs := g.graphs.map fun y => { y with credits := (k.map fun n => ((0, 3), n)).toList },
                      ctxs := g.ctxs.map fun c => { c with bindBase := 0x242000 },
                      mem := writeBytes g.mem 0x242038 (leBytes 8 0x8000000000000000) }
    [none, some 1, some 0].all (fun k => [Instr.emit 3, .emitq 3 11].all fun i => lone (s k) (instrForm i) fun v =>
      (((s k).node? v.wg.graph v.wg.node).bind fun n => n.desc.ports[3]?).any (fun e => e.valid && !e.compl && e.remote &&
        decide (v.wg.depth + 1 ≤ e.rdepth) && ((s k).binding 1024 e.pkg).any bindingValid) && !v.t.ports.getLsbD 3 && v.wg.writes.isEmpty &&
      ((s k).graph? v.wg.graph).any fun z => decide (z.ctx = 1024 ∧ z.credits.lookup (v.wg.node, 3) = k)) = true := by decide +kernel

/-- RecordsAndExit: `exit` with a lookup command outstanding, with a fault pending, with another thread live, and as the last. -/
theorem witness_RecordsAndExit_exit :
    [(1, none), (0, some 5), (0, none)].all (fun e => lone (withGroup (fun g => { g with lookupCount := e.1, pendFault := e.2 })
        (machine [bthread 0, bthread 1] [0])) (instrForm .exit) fun v => v.t.isLive && decide (v.grp.lookupCount = e.1 ∧ v.grp.pendFault = e.2) &&
      (v.grp.threads.all fun u => u.wait.mask?.isNone) && (v.grp.threads[1]?).any fun u => u.isLive && decide (u.wait = .running)) = true ∧
    lone (one []) (instrForm .exit) (fun v => v.wg.ongoing && v.wg.peers.isEmpty && ((one []).commandsOf 0).isEmpty &&
      (v.wg.groups.all fun y => y.latch.isNone) && decide (v.grp.threads.length = 1)) = true := by decide +kernel

/-! ### Copy engine, tambour, collectives -/

/-- The `topk` of the example of chapter 09, whose areas lie in a window that ends with its masks. -/
theorem witness_EngineCommands_topk : TopkReady 544 0x8407000004000000 0x0000000080000200 := by
  unfold TopkReady
  decide +kernel

/-- A `texp` of one expert to memory, and one over a declared port. -/
theorem witness_EngineCommands_texp :
    TexpReady (inGraph 0 (bench 2)) (Workgroup.bare 0 1024 0x100000) 0x8000000000000000 0x200000 ∧
    TexpReady (inGraph 0 (bench 2)) (Workgroup.bare 0 1024 0x100000) 0 0 := by
  unfold TexpReady
  decide +kernel

/-- EngineCommands: groups stand at `topk`, `texp` and `cwait` with room in the queue; counts at the bound and above it. -/
theorem witness_EngineCommands_queue :
    [Instr.topk 3 0 0, .texp 3 0 1].all (fun i => joint (inGraph 0 (bench 2)) (instrForm i) fun x _ => (inGraph 0 (bench 2)).overwritten.isEmpty &&
      ((bench 2).core? x.core).any fun k => decide (k.copy.length < 64)) = true ∧
    [0xDE, 0xDF].all (fun n => joint (withGroup (fun g => { g with engineCount := n }) (bench 2)) (instrForm .cwait) fun _ gr =>
      decide (gr.engineCount = n ∧ ((bench 2).ir.setWidth 8 : BitVec 8).toNat = 0xDE)) = true := by decide +kernel

/-- A copy-engine queue that is full. -/
def fullCopy (s : State) : State := withCore (fun k => { k with copy := List.replicate 64 (s.newCommand 0 0 [] [] [] (.topk 3 0 0)) }) s

/-- EngineCommands: `topk`, `texp` and `cpy` of a workgroup's only group at a full queue, with descriptors that are legal. -/
theorem witness_EngineCommands_full :
    [(Instr.topk 3 0 0, [0x8407000004000000, 0x80000200]), (.texp 3 0 1, [0x8000000000000000, 0x200000]),
      (.cpy 1 0 8 0, [0x4000000400000000, 0x200000, 0x0001000100010010, 0, 0, 0, 0, 0, 0x00100000])].all (fun e =>
      let s := fullCopy (withScalars e.2 (inGraph 0 (bench 2)))
      joint s (instrForm e.1) fun x gr => decide (x.groups.length = 1) && ((s.core? x.core).any fun k => decide (64 ≤ k.copy.length)) &&
        decide ((gr.scalar 0).toNat = e.2.getD 0 0 ∧ (gr.scalar 1).toNat = e.2.getD 1 0)) = true := by decide +kernel

/-- EngineCommands: a `cpy` of 16 bytes of a workgroup's only group, and of the first group of two. -/
theorem witness_EngineCommands_copy :
    let ws : List Nat := [0x4000000400000000, 0x200000, 0x0001000100010010, 0, 0, 0, 0, 0, 0x00100000]
    let two (s : State) : State := withWg (fun x => { x with groups := x.groups ++ [Group.entry 1 64 2 0 0 [bthread 7]] }) s
    joint (withScalars ws (bench 2)) (instrForm (.cpy 1 0 8 0)) (fun x gr =>
      let r := (List.range 8).map fun i => gr.scalar (0 + BitVec.ofNat 5 i)
      decide ((copyDesc r).illegal r = none) && decide (bf (gr.scalar 8) 32 32 = 0 ∧ bf (copyDesc r).base 56 8 = 0) &&
        decide (badRank x (copyDesc r).mcast = none ∧ x.groups.length = 1) &&
        decide (lowestBeyond (x.spadq * 196608) (((copyDesc r).units [gr.scalar 8]).flatMap (copyDesc r).ranges) = none)) = true ∧
    joint (two (withScalars ws (bench 2))) (instrForm (.cpy 1 0 8 0)) (fun x _ => (x.groups[1]?).any fun y =>
      !y.liveGtids.isEmpty && y.formation.isNone) = true := by decide +kernel

/-- The layout of the reshape-transpose of chapter 20, within scratchpad. -/
def layout : List Nat := [0, 0x400, 0x2D0, 0x301, 0x0002000300040008, 0x0000000D00010001]

/-- EngineCommands: the layout passes its checks; the tambour's queue has room for one command, and is full. -/
theorem witness_EngineCommands_layout : [15, 16].all (fun n =>
    let s : State := withScalars layout (bench 2)
    let z : State := { s with tambours := List.replicate 12 (List.replicate n (s.newCommand 0 0 [] [] [] (.lay 0 0 4 1))) }
    [Instr.lay 2 0 4 0, .layq 0 4 9].all fun i => joint z (instrForm i) fun x gr =>
      decide ((layDesc (layWords gr 0 4)).check x.window (layRegs 0 4) = none) && (z.tambours[x.core / 4]?).any fun q => q.length == n) = true := by
  decide +kernel

/-- LayoutAndEngines: the layout's dimensions, an index in them, and a dimension that PERM places first. -/
theorem witness_LayoutAndEngines_places :
    let d := layDesc (layout.map (BitVec.ofNat 64))
    d.dims = 4 ∧ d.sizes = [8, 4, 3, 2] ∧ d.elements ≠ 0 ∧ (∀ q, q < 1 → d.perm q ≠ d.perm 1) ∧
    (layDesc [0, 0, 0, 0, 0, 0]).elements = 0 := by decide +kernel

/-- A machine whose copy engine runs a command. -/
def copying (op : Instr) (regs : List Nat) (s : State) : State :=
  withCore (fun k => { k with copy := [s.newCommand 0 0 [(0, 0)] (regs.map (BitVec.ofNat 64)) (leBytes 4 1) op], copyRunning := some s.nextId })
    (withGroup (fun g => { g with engineCount := 1 }) s)

/-- LayoutAndEngines: a running `topk` of one row whose areas do not meet; a running `cpy` that can go on, and one whose source has no
translation. -/
theorem witness_LayoutAndEngines_copy :
    let run (s : State) : Bool := s.input.unit == 0 && s.input.sub == 0 && s.power && s.running && s.overwritten.isEmpty &&
      ((s.core? 0).any fun k => (k.copyRunning).any fun o => (k.copy.find? fun e => e.order == o).any fun c =>
        !c.stopped && !c.dying && c.bar.isNone && c.progress == 0 && c.afloat.isEmpty && c.owed == 0 && decide (c.counted = [(0, 0)])) &&
      (s.wg? 0).any fun x => x.anyLive && Memory.wf x.spad
    let ws (base : Nat) : List Nat := [0x4000000400000000, base, 0x0001000100010010, 0, 0, 0, 0, 0, 0x00100000]
    run (copying (.topk 3 0 1) [0x8407000004000000, 0x80000200] (bench 2)) = true ∧ bf (0x8407000004000000 : Reg) 36 12 = 0 ∧
    [(0x200000, true), (2 ^ 40, false)].all (fun e =>
      let s := copying (.cpy 1 0 8 1) (ws e.1) (bench 2)
      run s && match (s.core? 0).bind (fun k => k.copy.head?), s.wg? 0 with
        | some c, some x =>
          let d := copyDesc (c.regs.take 8)
          (State.copyPieces d x (s.receivers x d) (s.copyLeft c x).2.2.flatten { s with acting := some c.order }).2.2.2.isNone == e.2 &&
            (s.advanceCopy 0 c x).2.2.isNone == e.2
        | _, _ => false) = true := by decide +kernel

/-- LayoutAndEngines: a running `cpy` of one row in each direction whose bytes translate to places one after another. -/
theorem witness_LayoutAndEngines_row : [0x4000000000000000, 0x4080000000000000].all (fun w =>
    let s := warmed (copying (.cpy 1 0 8 1) [w, 0x200000, 0x0001000100010010, 0, 0, 0, 0, 0, 0x00100000] (bench 2))
    (s.core? 0).any fun k => (k.copy.head?).any fun c =>
      let d := copyDesc (c.regs.take 8)
      decide (d.arr = 0 ∧ d.gfmt = 0 ∧ d.mcast = 0 ∧ d.splitg = 0 ∧ d.sdim = 0 ∧ d.e 1 = 1 ∧ d.e 2 = 1 ∧ d.e 3 = 1) &&
        decide (c.regs.drop 8 = [0x00100000]) && decide (d.dir = decide (w ≠ 0x4000000000000000)) &&
        quietMemory s && decide (s.handovers = []) && Memory.wf s.mem && (List.range (16 * elementBytes d.stype)).all fun j =>
          decide ((s.translate 1024 (0x200000 + j) (if d.dir then .write else .read)).2 = .ok (0x200000 + j)) &&
            decide (s.place (0x200000 + j) = .memory)) = true := by decide +kernel

/-- LayoutAndEngines: bytes that plain elements and Denusk blocks of a copy move; columns that rank. -/
theorem witness_LayoutAndEngines_bytes :
    let d (w : Nat) := copyDesc ([w, 0x200000, 0x0001000100010010, 0, 0, 0, 0, 0].map (BitVec.ofNat 64))
    ((d 0x4000000400000000).gfmt = 0 ∧ (d 0x4000000400000000).stype ≤ 12 ∧ (d 0x4000000400000000).arr = 0) ∧
    rankColumns [5, 7, 7] 2 [] = [1, 2] ∧ ranksBefore [5, 7, 7] 1 2 := by
  refine ⟨by decide +kernel, by decide +kernel, ?_⟩
  unfold ranksBefore
  decide

/-- LayoutAndEngines: a running `texp` of one expert with one row, to memory and over a declared port to a node with room. -/
theorem witness_LayoutAndEngines_texp : [[0x8000000000000000, 0x200000], [0, 0]].all (fun ws =>
    let s := warmed (copying (.texp 1 0 1) ws (inGraph 0 (bench 2)))
    ((s.core? 0).any fun k => (k.copy.head?).any fun c => decide ((produced c).length = 1) && c.bar.isNone && c.progress == 0 &&
      decide ((c.regs.getD 0 0).getLsbD 63 = decide (ws.getD 0 0 ≠ 0)) && !s.texpWaits s.input.unit c.order) &&
    decide (s.handovers = []) && Memory.wf s.mem && ((List.range 28).all fun j =>
      decide ((s.translate 1024 (0x200004 + j) .write).2 = .ok (0x200004 + j)) && decide (s.place (0x200004 + j) = .memory)) &&
    (s.wg? 0).any fun x => ((s.node? x.graph x.node).bind fun n => n.desc.ports[0]?).any fun e => e.valid && !e.compl && !e.remote &&
      s.hasRoom x.graph e.node && ((s.node? x.graph e.node).any fun n => decide (depthOver x e ≤ n.desc.depth) && n.waiting.isEmpty &&
        !n.killed && !n.finalClosed && decide (n.desc.kind ≠ .join))) = true := by decide +kernel

/-- LayoutAndEngines: the layout stands at the head of a tambour; and one whose source has no translation. -/
theorem witness_LayoutAndEngines_lay :
    let s (ws : List Nat) (sub : Nat) : State := { withGroup (fun g => { g with engineCount := 1 }) (bench 2) with
      tambours := [(bench 2).newCommand 0 0 [(0, 0)] (ws.map (BitVec.ofNat 64)) [] (.lay 0 0 4 1)] :: List.replicate 11 []
      input := { Input.none with sub := sub } }
    let d := layDesc (layout.map (BitVec.ofNat 64))
    let far := [2 ^ 40, 0x400, 0x2D0, 0x301, 0x0002000300040008, 0x0000000900010001]
    (d.ssp && d.dsp && !d.overlaps && d.splitg == 0) = true ∧ (s layout 0).graphs = [] ∧ (s layout 0).overwritten = [] ∧
    [s layout 0, s far 1].all (fun z => z.power && z.running && ((z.tambours[0]?).any fun q => q.all fun c =>
      !c.stopped && !c.dying && c.bar.isNone && c.progress == 0 && c.afloat.isEmpty && decide (c.counted = [(0, 0)])) &&
      (z.wg? 0).any fun x => x.anyLive && Memory.wf x.spad && decide (d.check (x.spadq * 196608) [] = none)) = true ∧
    ((s far 1).layRest (layDesc (far.map (BitVec.ofNat 64))) ⟨1024, some 0⟩ 0).2.2.isSome = true := by decide +kernel

/-- A context whose communicator 0 at 0x240000 is this package alone (R357), with a binding for it at 0x242000. -/
def communicating (s : State) : State :=
  { s with ctxs := s.ctxs.map (fun c => { c with commBase := 0x240000, bindBase := BitVec.ofNat 64 (0x242000 - 8 * s.pkg) })
           mem := writeBytes (writeBytes (writeBytes (writeBytes s.mem 0x240000 (leBytes 8 0x8000000000000000 ++ leBytes 8 0x241000))
             0x241000 (leBytes 2 s.pkg)) 0x242000 (leBytes 8 0x8000000000000000)) 0x200000
             (leBytes 8 0x0600000000000000 ++ leBytes 8 0x210000 ++ leBytes 8 0x220000 ++ leBytes 8 4 ++ leBytes 8 0 ++ leBytes 8 0x230000) }

/-- Collectives: a legal `coll` of one participant. -/
theorem witness_Collectives_issue :
    let s := communicating (withScalars [0x200000] (bench 2))
    joint s (instrForm (.coll 4 0 0)) (fun x gr => match (s.gathered 0 0 gr).collWords x 0 (gr.scalar 0) with
      | (s1, .ok b) =>
        let ws := (List.range 8).map fun i => leReg ((b.drop (8 * i)).take 8)
        let d := collDesc ws
        decide (gr.scalar 0 = 0x200000) && !d.illegal ws && d.nonCanonical.isNone &&
          decide (({ s1 with acting := none } : State).communicator x.ctx d.comm = some (0, [0])) &&
          (match s1.collInWindow x.ctx d 1 with
           | (s3, false) => s3.gangMembers.isEmpty && (({ s3 with acting := none } : State).engineWrite x.ctx d.stat (leBytes 8 0)).2.toOption.isSome
           | _ => false)
      | _ => false) = true := by decide +kernel

/-- Collectives: a `coll` ends with its status word at a mapped address, with and without a barrier. -/
theorem witness_Collectives_ends :
    let t := after (.coll 4 0 0) (communicating (withScalars [0x200000] (bench 2)))
    (t.colls.all fun c => (t.engineWrite c.ctx (collDesc c.cmd.regs).stat (bytesLe 8 5)).2.isOk && ((t.wg? c.cmd.wg).any Workgroup.anyLive)) = true ∧
    ((after (.coll 4 0 1) (communicating (withScalars [0x200000] (bench 2)))).colls.map fun c => c.cmd.bar) = [none] ∧
    (t.colls.map fun c => c.cmd.bar) = [some 4] := by decide +kernel

/-- Collectives: an accepted `coll` is ready to complete; another participant of two halts, resumes, is lost. -/
theorem witness_Collectives_events :
    let s := communicating (withScalars [0x200000] (bench 2))
    let t := after (.coll 4 0 0) s
    let pair (halted : List Nat) : State := { t with colls := t.colls.map fun c => { c with members := [0, 1], halted := halted }
                                                     input := { Input.none with unit := t.nextId - 1, sub := 1 } }
    let u : State := { t with input := { Input.none with unit := t.nextId - 1 } }
    (u.power && u.running && u.colls.length == 1) = true ∧ ((u.collReady u.input.unit).any fun c =>
      match State.collWork { u with acting := some c.cmd.order } c [] with
      | (s1, .ok k) => (State.collStore c (collDesc c.cmd.regs) k.granules.flatten (s1.sendColl c k)).2.isNone
      | _ => false) = true ∧
    [[], [1]].all (fun h => ((pair h).colls.find? fun y => y.id == (pair h).input.unit).any fun c =>
      decide ((pair h).input.sub < c.members.length ∧ (pair h).input.sub ≠ c.rank) && (c.halted.contains 1 == !h.isEmpty) && (pair h).input.ok && !c.cmd.dying) = true := by
  decide +kernel

/-- Collectives: a `coll` of two, and one whose own workgroup is halted, or that another of its communicator comes before. -/
theorem witness_Collectives_held :
    let t := after (.coll 4 0 0) (communicating (withScalars [0x200000] (bench 2)))
    let s : State := { t with input := { Input.none with unit := t.nextId - 1 } }
    (withGroup (fun g => { g with holds := [.halted 3] }) s).collReady s.input.unit = none ∧
    ({ s with colls := s.colls ++ s.colls.map fun c => { c with id := c.id + 1, number := c.number + 1 },
              input := { s.input with unit := s.input.unit + 1 } } : State).collReady (s.input.unit + 1) = none ∧
    (s.colls.all fun c => !c.cmd.dying && decide (c.rank = 0 ∧ c.members.length = 1)) = true := by decide +kernel

/-- Collectives: what two participants send for each operation, and what reductions are taken over. -/
theorem witness_Collectives_values :
    ([3, 2 ^ 32 - 1] : List Nat).all (fun v => decide (v < 2 ^ 32)) = true ∧ (fp32.decode 0x7F800001).isNan = true ∧
    [0x0600000000000000, 0x4600000000000000, 0x8600000000000000, 0xC600000000000000].map (fun w => (collDesc [w, 0, 0, 1]).op) = [0, 1, 2, 3] ∧
    reduceAll 0 6 [3, 2 ^ 32 - 1] = 2 := by decide +kernel


/-- The first GiB of a context's addresses is in the translation cache. -/
def Reaches (s : State) : Prop :=
  s.tlb = [{ ctx := 1024, va := 0, size := 30, pa := 0, x := true, w := true, r := true }] ∧ s.hbmSize = 512000000000

/-- A write at a home leaves translations as they are. -/
theorem reaches_writeHome {s : State} {w : Option Nat} {a : Nat} {bs : List Byte} (h : Reaches s) : Reaches (s.writeHome w a bs) := by
  have one (s : State) (k : Nat) (h : Reaches s) : Reaches (s.revokeWord w k) := by
    unfold State.revokeWord
    split
    · exact h
    · split <;> exact h
  have all (l : List Nat) : ∀ s, Reaches s → Reaches (l.foldl (fun s k => s.revokeWord w k) s) := by
    induction l with
    | nil => exact fun _ h => h
    | cons k l ih => exact fun s h => ih _ (one s k h)
  have note (s : State) (g : Option (Nat × Nat)) (m : Nat) (v : Option Nat) (k : Nat) (old : List Byte) (h : Reaches s) :
      Reaches (s.noteFor g m v k old) := by
    unfold State.noteFor
    split <;> exact h
  exact note _ _ _ _ _ _ (all _ _ h)

/-- A run of bytes within the first GiB is written whatever the bytes are. -/
theorem writeRun_of_reaches : ∀ (bs : List Byte) (s : State) (a : Nat), Reaches s → a + bs.length ≤ 2 ^ 30 →
    ∃ t, s.writeRun 1024 a bs = (t, .ok ())
  | [], s, _, _, _ => ⟨s, rfl⟩
  | b :: bs, s, a, h, ha => by
    obtain ⟨h1, h2⟩ := h
    simp only [List.length_cons] at ha
    have hv : (BitVec.ofNat 64 a).toNat = a := by simp only [BitVec.toNat_ofNat]; omega
    have hm : a % 2 ^ 30 = a := Nat.mod_eq_of_lt (by omega)
    have ht : s.translate 1024 a .write = (s, .ok a) := by
      unfold State.translate
      rw [h1]
      have hk : a < 1073741824 := by omega
      simp [hk, Translation.permits]
    have hp : s.place a = .memory := by
      unfold State.place
      rw [if_pos (by omega)]
    have hs : s.storeGlobal ⟨1024, none⟩ {} (BitVec.ofNat 64 a) [b] 0 = ((s.engineRequest 1024 a).writeHome none a [b], .ok ()) := by
      unfold State.storeGlobal
      simp only [hv, ht, hp]
    obtain ⟨t, ht⟩ := writeRun_of_reaches bs ((s.engineRequest 1024 a).writeHome none a [b]) (a + 1)
      (reaches_writeHome ⟨h1, h2⟩) (by omega)
    exact ⟨t, by rw [State.writeRun, hs]; exact ht⟩


/-! ### Boot, power, clocks -/

/-- An image of three code sections of one byte each (R388), with a PORTEN mask; its digest is of its body, or is spoilt. -/
def smallImage (good : Bool) : List Byte :=
  let body : List Byte := [1, 2, 3]
  let section_ (k : Nat) : List Byte := leBytes 4 k ++ leBytes 4 0 ++ leBytes 4 k ++ leBytes 4 1
  let header : List Byte := leBytes 4 0x4B46494D ++ leBytes 4 1 ++ leBytes 8 3 ++
    (if good then digestBytes (sha384 body) else List.replicate 48 0) ++ leBytes 12 1 ++ leBytes 4 3 ++ section_ 0 ++ section_ 1 ++ section_ 2
  header ++ List.replicate (4096 - header.length) 0 ++ body

/-- A module at a stage of its boot, with an image and its ports in a state. -/
def booting (stage : BitVec 4) (img : List Byte) (ok : Bool) (l : LinkState) : State :=
  { State.reset with bootState := stage, image := img, portEn := 1, input := { Input.none with ok := ok },
                     links := State.reset.links.map fun x => { x with state := l } }

/-- BootAndReset: each stage, with an image that passes and one that does not, and with training that succeeds and fails. -/
theorem witness_BootAndReset_image : imageOk (smallImage true) = true ∧ imageOk (smallImage false) = false := by decide +kernel

theorem witness_BootAndReset_stages :
    [0, 1, 2, 3, 4, 5].all (fun k => [true, false].all fun ok => [LinkState.down, .up, .train].all fun l =>
      (booting k (smallImage ok) ok l).power && !(booting k (smallImage ok) ok l).stopped && !(booting k [] ok l).bootRecovery) = true ∧
    ((booting 5 [] true .up).portEn &&& (booting 5 [] true .up).portsFitted = 1 ∧ (booting 5 [] true .train).links.length = 96) := by
  decide +kernel

/-- BootAndReset: a scale-up port whose island is masked, and one whose island is not; CXL ports that train and do not. -/
theorem witness_BootAndReset_masks :
    let s : State := { booting 4 [] true .down with portEn := 3, islandMask := BitVec.ofNat 1024 (2 ^ 896), cxlUp := 3, input := { Input.none with ok := true, val := 1 } }
    ([0, 1].map fun p => (s.portEn.getLsbD p && s.portsFitted.getLsbD p, s.islandMask.getLsbD (896 + p))) = [(true, true), (true, false)] ∧
    ([0, 1].map fun i => s.cxlUp.getLsbD i && !s.input.val.getLsbD i) = [false, true] := by decide +kernel

/-- BootAndReset: a RESET runs; power is on, with an image being written and with another command running or none, and is off. -/
theorem witness_BootAndReset_power :
    (let s : State := { State.reset with bootState := 6, mbBlock := State.reset.mbBlock.set 0 15, mbDone := false }
     s.power && !s.stopped && decide (s.mbOp = 15) && !s.mbDone) = true ∧
    [(14, false), (15, false), (14, true)].all (fun e =>
      let s : State := { State.reset with bootState := 6, mbBlock := State.reset.mbBlock.set 0 (BitVec.ofNat 64 e.1), mbDone := e.2 }
      s.power && (decide (s.mbDone = true ∨ s.mbOp ≠ 14) == decide (e ≠ (14, false)))) = true ∧
    ({ State.reset with power := false } : State).power = false := by decide +kernel

/-- ClocksAndStops: an island set to the last point, without and, to point 0, with a critical temperature; a lock that is lost. -/
theorem witness_ClocksAndStops_throttle :
    [(20, none), (0, some 5)].all (fun (e : Nat × Option Nat) =>
      let s : State := { State.reset with clkMode := false, critical := e.2, lockLost := true, input := { Input.none with unit := 1023, val := BitVec.ofNat 64 e.1 } }
      s.power && !s.clkMode && s.lockLost && decide (s.input.unit < 1024 ∧ s.input.val.toNat ≤ 20 ∧ (s.input.val = 0 ∨ s.critical = none))) = true := by
  decide +kernel

/-- ClocksAndStops: an island at the module's point; a critical temperature in each mode, half a second and a second ago; a clock mode
that waits, at a multiple of 65,536 and past it. -/
theorem witness_ClocksAndStops_clocks :
    let s (mode : Bool) (tick : Nat) : State := { State.reset with clkMode := mode, tick := tick, critical := some 0,
                                                                   clkPending := some (true, 7, 0), input := { Input.none with unit := 1023, val := 19 } }
    [true, false].all (fun m => (s m 0).power && decide (0 < (s m 0).clkPoint ∧ (s m 0).input.unit < 1024 ∧
        (s m 0).input.val.toNat < (s m 0).pointOf 1023 ∧ (s m 0).input.val.toNat < (s m 0).clkPoint)) = true ∧
    [(999999999, false, false), (1000000000, true, false), (65536, false, true), (65537, false, false)].all (fun e =>
      decide (0 + 1000000000 ≤ (s true e.1).tick) == e.2.1 && decide ((s true e.1).tick % 65536 = 0 ∧ 0 < (s true e.1).tick) == e.2.2) = true := by
  decide +kernel

/-- ClocksAndStops: a stop armed at the tick and above it; a module that stands; a correction due and one too soon. -/
theorem witness_ClocksAndStops_stops :
    let s (tick : Nat) : State := { booting 6 [] true .up with tick := tick, stopTick := 2048, stopArmed := true, corrected := some 1024,
                                                               input := { Input.none with val := 1 <<< 63 ||| 4 } }
    [(2047, false), (2048, true)].all (fun e => (s e.1).power && (s e.1).stopArmed && !(s e.1).stopped &&
      decide ((s e.1).stopTick.toNat ≤ (s e.1).tick) == e.2 && decide (1024 + 1024 ≤ (s e.1).tick) == e.2 && (s e.1).links.any fun l => l.state == .up) = true ∧
    ((s 0).input.val.getLsbD 2 && (s 0).input.val.getLsbD 63 && ({ s 0 with stopped := true } : State).stopped) = true := by decide +kernel

/-- A machine whose event has an input. -/
def given (f : Input → Input) (s : State) : State := { s with input := f Input.none }

/-- SamplerAndEvents: configurations at and beyond each bound, for the device's sampler and a context's. -/
theorem witness_SamplerAndEvents_config :
    [(0x04000051, true), (0x140000C1, true), (0x04000049, false), (0x140000C9, false), (0x03000051, false), (0x15000051, false), (0, true)].all (fun e =>
      [1024, 5].all fun c => let s : State := given (fun x => { x with unit := c, val := BitVec.ofNat 64 e.1 }) { bench 1 with ctxs := [Context.bare 5 0x1000] }
        let v := s.input.val
        s.power && s.running && (c == 1024 || (s.ctx? c).isSome) &&
          (!v.getLsbD 0 || decide (10 ≤ (bf v 3 5).toNat ∧ (bf v 3 5).toNat ≤ 24 ∧ 4 ≤ (bf v 24 8).toNat ∧ (bf v 24 8).toNat ≤ 20)) == e.2) = true := by
  decide +kernel

/-- SamplerAndEvents: samplers that latch, with one place left in the ring and with none. -/
theorem witness_SamplerAndEvents_latch : [(15, true), (16, false)].all (fun e =>
    let s : State := given (fun x => { x with unit := 1024 })
      { bench 1 with tick := 2048, sampler0 := #v[0x5000, 0x04000051, BitVec.ofNat 64 e.1] }
    let cfg : Reg := s.sampler0[1]
    let prod : Reg := s.sampler0[2]
    s.power && s.running && cfg.getLsbD 0 && decide (s.tick % 2 ^ (bf cfg 3 5).toNat = 0 ∧ s.sampled0 ≠ some s.tick) && Memory.wf s.hostMem &&
      decide ((bf prod 0 48).toNat < 2 ^ (bf cfg 24 8).toNat) == e.2) = true := by decide +kernel

/-- SamplerAndEvents: a context's sampler writes its sample. -/
theorem witness_SamplerAndEvents_context :
    let x : Context := { Context.bare 1024 0x1000 with sctl := 0x04000051, sbase := 0x400000 }
    let s : State := given (fun y => { y with unit := 1024 }) { warmed (bench 1) with tick := 2048, ctxs := [x] }
    (s.power && s.running && x.sctl.getLsbD 0 && decide (s.tick % 2 ^ (bf x.sctl 3 5).toNat = 0) && !samplerFull x.sctl x.sprod &&
      decide (x.sampled ≠ some s.tick)) = true ∧
    ∃ t, (s.counterWords x.counters false).1.writeRun 1024 (samplePlace x.sbase x.sprod)
      (s.sampleBytes (s.counterWords x.counters false).2) = (t, .ok ()) := by
  refine ⟨by decide +kernel, writeRun_of_reaches _ _ _ ⟨rfl, rfl⟩ ?_⟩
  have : ∀ (z : State) (l : List Reg), (z.sampleBytes l).length = 64 + 8 * l.length := fun z l => by
    simp [State.sampleBytes, wordBytes, leBytes, List.length_flatMap]; omega
  rw [this]
  simp [State.counterWords, counterCount]
  decide

/-- SamplerAndEvents: an event ring with one place left, and full. -/
theorem witness_SamplerAndEvents_ring : [(15, true), (16, false)].all (fun e =>
    let s : State := { bench 1 with evCfg := 4, evProd := BitVec.ofNat 64 e.1, evBase := 0x1000 }
    decide (4 ≤ (bf s.evCfg 0 5).toNat ∧ (bf s.evCfg 0 5).toNat ≤ 16) && Memory.wf s.hostMem &&
      decide ((bf s.evProd 0 48 - bf s.evCons 0 48).toNat < 2 ^ (bf s.evCfg 0 5).toNat) == e.2) = true := by decide +kernel

/-! ### The mailbox -/

/-- A Ready module whose mailbox runs a command of given words, with a context 3 and host memory as given. -/
def mailed (words : List Nat) (host : List Host.Cell) : State :=
  { State.reset with
    bootState := 6, mbBlock := Vector.ofFn fun i => BitVec.ofNat 64 (words.getD i.val 0), mbDone := false, ctxs := [Context.bare 3 0x1000],
    hostMem := host }

/-- A module at a stage of its boot, in whose mailbox a block of an opcode stands that no command runs. -/
def waiting (stage : BitVec 4) (op : Nat) : State :=
  { mailed [] [] with bootState := stage, mbDone := true, mailbox := (mailed [] []).mailbox.set 0 (BitVec.ofNat 64 op) }

/-- Whether a command runs. -/
def posted (s : State) (op : Nat) : Bool := decide (s.power = true ∧ s.stopped = false ∧ s.mbDone = false ∧ s.mbOp = op)

/-- What `posted` decides. -/
theorem mailed_of_posted {s : State} {op : Nat} (h : posted s op = true) : Mailed s op := by
  simp only [posted, decide_eq_true_eq] at h
  exact ⟨h.1, h.2.1, h.2.2.1, h.2.2.2⟩

/-- A block of a context whose fault log is as small, or as large, as it may be (R394). -/
def contextBlock (n t : Nat) : List Byte :=
  leBytes 8 7 ++ leBytes 8 0x1000 ++ leBytes 8 0 ++ leBytes 8 0x8000 ++ leBytes 8 n ++ List.replicate 32 0 ++ leBytes 8 t ++ List.replicate 48 0

/-- ContextCommands: `CTX_CREATE` of a number that is free, of one in use and of none; blocks at and beyond their limits. -/
theorem witness_ContextCommands_create :
    [(0, true), (3, false), (1023, true), (1024, false)].all (fun e => let s := mailed [1 + e.1 * 65536, 0x1000] []
      posted s 1 && decide (s.mbIndex = e.1) && decide (e.1 < 1024 ∧ s.ctx? e.1 = none) == e.2) = true ∧
    [(6, 16, true), (16, 32, true), (5, 16, false), (17, 16, false), (6, 15, false), (6, 33, false)].all (fun e =>
      contextBlockOk (contextBlock e.1 e.2.1) == e.2.2) = true ∧
    contextBlockOk (blockAt (mailed [1, 0x1000] (writeBytes [] 0x1000 (contextBlock 6 16))) 0x1000) = true := by decide +kernel

/-- ContextCommands: `CTX_DESTROY` and `INVAL` of a context and of none; `QUEUE_SET` at and beyond its bounds; one that disables. -/
theorem witness_ContextCommands_others :
    [(2, 3), (2, 4), (4, 3), (4, 4)].all (fun e => posted (mailed [e.1 + e.2 * 65536, 0x1000, 0x1FFF] []) e.1 &&
      decide ((mailed [e.1 + e.2 * 65536] []).mbIndex = e.2) && (((mailed [e.1 + e.2 * 65536] []).ctx? e.2).isSome == (e.2 == 3))) = true ∧
    [(4, 1, 0x40, true), (16, 1024, 0, true), (3, 1, 0, false), (17, 1, 0, false), (4, 0, 0, false), (4, 1025, 0, false), (4, 1, 32, false)].all (fun e =>
      let s := mailed [3 + 4095 * 65536, 2 ^ 63 + 3, e.2.2.1, e.1, e.2.1] []
      posted s 3 && decide (s.mbIndex < 4096 ∧ bf (s.mbWord 1) 10 53 = 0) && (s.ctx? (bf (s.mbWord 1) 0 10).toNat).isSome &&
        (s.mbWord 1).getLsbD 63 && decide (4 ≤ (s.mbWord 3).toNat ∧ (s.mbWord 3).toNat ≤ 16 ∧ 1 ≤ (s.mbWord 4).toNat ∧ (s.mbWord 4).toNat ≤ 1024 ∧
          bf (s.mbWord 2) 0 6 = 0) == e.2.2.2) = true ∧
    (let s := mailed [3, 3] []
     posted s 3 && !(s.mbWord 1).getLsbD 63 && (s.ctx? 3).isSome) = true := by decide +kernel

/-- ContextCommands: `QUEUE_SET` for a context that has failed. -/
theorem witness_ContextCommands_failed :
    let s : State := { mailed [3 + 4095 * 65536, 2 ^ 63 + 3, 0x40, 4, 1] [] with ctxs := [{ Context.bare 3 0x1000 with failed := true }] }
    (posted s 3 && s.ctxFailed (bf (s.mbWord 1) 0 10).toNat && (s.mbWord 1).getLsbD 63) = true := by decide +kernel

/-- ContextCommands: an invalidation of a context one of whose workgroups has two write-throughs of one bucket pending, and
translations within its range, beyond it and of another context. -/
theorem witness_ContextCommands_inval :
    let w (n : Nat) (b : Byte) : WriteThrough := { addr := 0x200000, bytes := [b], owns := false, gen := 0, seq := n, sent := 0 }
    let tr (c va : Nat) : Translation := { ctx := c, va := va, size := 12, pa := 0, x := false, w := false, r := true }
    let s : State := { mailed [4 + 3 * 65536, 0x1000, 0x1FFF] [] with
      wgs := [{ Workgroup.bare 0 3 0x100000 with writes := [w 1 7, w 2 8] }], tlb := [tr 3 0x1000, tr 3 0x2000, tr 4 0x1000] }
    (posted s 4 && (s.ctx? s.mbIndex).isSome && (s.cores.all fun k => k.copy.isEmpty) && s.tambours.all List.isEmpty) = true ∧ (s.wgs.map Workgroup.id).Nodup ∧ (s.wgs.filter fun x => x.ctx == 3) = s.wgs ∧
    (s.wgs.all fun x => x.writes.all fun z => decide (s.lastPerformed x.id (s.bucketKey 3 z.addr) < z.seq)) = true ∧
    (s.tlb.map fun e => decide (e.ctx ≠ 3 ∨ e.va + 2 ^ e.size ≤ (s.mbWord 1).toNat ∨ (s.mbWord 2).toNat < e.va)) = [false, true, true] := by
  decide +kernel

/-- MailboxSettings: a doorbell while a command runs; of each kind of block before, in and after Ready. -/
theorem witness_MailboxSettings_doorbell :
    [(6, 0), (6, 16), (6, 1), (6, 15), (5, 13), (7, 13), (15, 15), (5, 1), (15, 14)].all (fun (e : BitVec 4 × Nat) =>
      let s : State := { waiting e.1 e.2 with input := { Input.none with addr := 0x100048 } }
      s.power && !s.stopped && s.mbDone && decide (s.input.addr = 0x100048 ∧ s.bootState = e.1 ∧ blockOp s.mailbox = e.2)) = true ∧
    (let s : State := { mailed [1] [] with input := { Input.none with addr := 0x100048 } }
     s.power && !s.stopped && !s.mbDone) = true := by decide +kernel

/-- MailboxSettings: each command's event while another command runs, with its own block and none running in Ready, and before Ready. -/
theorem witness_MailboxSettings_commands : commandEvents.all (fun e =>
    decide ((mailed [6] []).mbDone = false ∧ (mailed [6] []).mbOp ≠ e.2) &&
    decide ((waiting 6 e.2).mbDone = true ∧ blockOp (waiting 6 e.2).mailbox = e.2 ∧ (waiting 6 e.2).ring.mbDone = false) &&
    (e.2 == 13 || decide ((waiting 5 e.2).mbDone = true ∧ blockOp (waiting 5 e.2).mailbox = e.2 ∧ (waiting 5 e.2).bootState ≠ 6 ∧
      (waiting 5 e.2).bootState ≠ 15))) = true := by decide +kernel

/-- MailboxSettings, Attestation: host memory at 0x1000 holds an image that passes, or one that does not. -/
theorem witness_MailboxSettings_image (g : Bool) :
    readBytes (writeBytes [] 0x1000 (smallImage g)) 0x1000 4099 = smallImage g ∧ imageOk (smallImage g) = g := by
  have h : (smallImage g).length = 4099 := by cases g <;> decide +kernel
  have r := readBytes_writeBytes (m := []) rfl 0x1000 (smallImage g)
  rw [h] at r
  exact ⟨r, by cases g; exacts [witness_BootAndReset_image.2, witness_BootAndReset_image.1]⟩

/-- MailboxSettings, Attestation: a command that names that image runs, whatever the host's memory holds, for Recovery and for the
slot. -/
theorem witness_MailboxSettings_load (host : List Host.Cell) :
    let s (op : Nat) : State := mailed [op, 0x1000, 4099] host
    Mailed { s 13 with bootState := 7 } 13 ∧ Mailed (s 14) 14 ∧ ∀ op, (s op).hostMem = host ∧ (s op).mbWord 1 = 0x1000 ∧ (s op).mbWord 2 = 4099 :=
  ⟨⟨rfl, rfl, rfl, rfl⟩, ⟨rfl, rfl, rfl, rfl⟩, fun _ => ⟨rfl, rfl, rfl⟩⟩

/-- MailboxSettings: images for Recovery of a length at the bound and beyond it, and out of Recovery. -/
theorem witness_MailboxSettings_length :
    [(67108864, 7, true), (67108865, 7, false), (67108864, 6, false)].all (fun (e : Nat × BitVec 4 × Bool) =>
      let s : State := { mailed [13, 0x1000, e.1] [] with bootState := e.2.1 }
      posted s 13 && decide (s.bootState = 7 ∧ (s.mbWord 2).toNat ≤ 64 * 1024 * 1024) == e.2.2) = true := by decide +kernel

/-- MailboxSettings: a port that is down whose island is masked. -/
theorem witness_MailboxSettings_masked :
    let s : State := { mailed [6 + 95 * 65536, 1] [] with islandMask := BitVec.ofNat 1024 (2 ^ 991) }
    (posted s 6 && s.islandMask.getLsbD (896 + 95) && s.portsFitted.getLsbD 95 && (s.links[95]?).any fun x => x.state == .down) = true := by
  decide +kernel

/-- MailboxSettings: each command at the bounds of its fields and beyond. -/
theorem witness_MailboxSettings_settings :
    [(0, true), (1, false)].all (fun e => let s := mailed [5 + 4095 * 65536, 7, e.1 * 2 ^ 32 + 9] []
      posted s 5 && decide (s.mbIndex < 4096) && decide (bf (s.mbWord 2) 32 32 = 0) == e.2) = true ∧
    [0, 1, 2].all (fun w => [LinkState.down, .up, .failed].all fun l =>
      let s : State := { mailed [6 + 95 * 65536, w] [] with links := (mailed [] []).links.map fun x => { x with state := l } }
      posted s 6 && decide (s.mbIndex = 95) && s.portsFitted.getLsbD 95 && decide (s.mbWord 1 = BitVec.ofNat 64 w) &&
        (s.links[95]?).any fun x => x.state == l) = true ∧
    [(7, 4095, true), (7, 4096, false), (8, 1, true), (8, 2, false)].all (fun e =>
      let s : State := { mailed [e.1 + 7 * 65536, e.2.1] [] with ctxs := [] }
      posted s e.1 && decide (s.ctxs = [] ∧ s.mbIndex < 8) &&
        decide ((s.mbWord 1).toNat ≤ if e.1 = 7 then 4095 else 1) == e.2.2) = true ∧
    [(1199, false), (1200, true), (3600, true), (3601, false)].all (fun e => let s := mailed [9, e.1, 0x1000] []
      posted s 9 && s.input.ok && decide (1200 ≤ (s.mbWord 1).toNat ∧ (s.mbWord 1).toNat ≤ 3600) == e.2) = true := by decide +kernel

/-- Attestation: `MR_EXTEND` of each register; a report, a chain and an image asked for; a context's request, open and closed. -/
theorem witness_Attestation :
    [(3, false), (4, true), (7, true), (8, false)].all (fun e => let s := mailed [10 + e.1 * 65536] []
      posted s 10 && decide (4 ≤ s.mbIndex ∧ s.mbIndex ≤ 7) == e.2) = true ∧
    [11, 12, 14].all (fun op => let s := mailed [op, 0x1000, 4099] []
      posted s op && s.input.ok && Memory.wf s.hostMem && decide ((s.mbWord 2).toNat ≤ 64 * 1024 * 1024)) = true ∧
    [(0, 0x200000, true), (0, 0x200008, false), (0x200000, 0, false)].all (fun e =>
      let s : State := given (fun x => { x with unit := 1024, val := BitVec.ofNat 64 e.2.1 })
        { bench 1 with ctxs := [{ Context.bare 1024 0x1000 with attreq := BitVec.ofNat 64 e.1 }] }
      s.power && s.running && (s.ctx? 1024).any fun x => decide (x.attreq = 0 ∧ bf s.input.val 0 6 = 0) == e.2.2) = true := by decide +kernel

/-- Attestation: a context's report is made: its nonce is read, and it is written. -/
theorem witness_Attestation_report :
    let s : State := given (fun x => { x with unit := 1024 }) { warmed (bench 1) with ctxs := [{ Context.bare 1024 0x1000 with attreq := 0x200000 }] }
    ((s.modCtx 1024 fun y => { y with attreq := 0 }).readRun 1024 0x200000 48).2.toOption.isSome = true ∧
    ∃ t, (s.report 1024 (List.replicate 48 0)).1.writeRun 1024 (0x200000 + 64) (s.report 1024 (List.replicate 48 0)).2 = (t, .ok ()) := by
  refine ⟨by decide +kernel, writeRun_of_reaches _ _ _ ⟨rfl, rfl⟩ ?_⟩
  simp [State.report]
  decide +kernel

/-! ### The host -/

/-- HostAccess: each register that the host writes; clock points at and beyond the last; registers of a context's page. -/
theorem witness_HostAccess_registers :
    [(20, true), (21, false)].all (fun e => let s : State := given (fun x => { x with addr := 0x1010, val := BitVec.ofNat 64 (e.1 * 256 + 1) }) (bench 1)
      s.power && decide ((bf s.input.val 8 5).toNat ≤ 20) == e.2) = true ∧
    (let s (o : Nat) : State := given (fun x => { x with addr := BitVec.ofNat 64 (0x400000 + 4096 * 1023 + o) }) { bench 1 with ctxs := [Context.bare 1023 0x1000] }
     [0x800, 0x828, 0x840, 0x850, 0x860, 0x938, 0xFF8].all fun o => !(s o).stopped && ((s o).ctx? 1023).isSome &&
       decide (o < 4096 ∧ o % 8 = 0 ∧ (s o).input.addr.toNat = 0x400000 + 4096 * 1023 + o)) = true := by decide +kernel

/-- HostAccess: an aperture on the device registers, and a write of STOPTICK through it. -/
theorem witness_HostAccess_stoptick :
    (let s : State := given (fun x => { x with addr := 0x1000, data := [5, 0, 0, 0, 0, 0, 0, 0] }) { bench 1 with apBase := 0x2000000000000 }
     s.power && s.running && decide (registerOffset (s.apBase.toNat + s.input.addr.toNat % 2 ^ 32) = some 0x1000 ∧ s.input.data.length = 8)) = true := by
  decide +kernel

/-- HostAccess: an aperture on the page of a context, whose CEVT is written through it; and on the memory of a CXL port that is a peer. -/
theorem witness_HostAccess_devices :
    (let s : State := given (fun x => { x with addr := BitVec.ofNat 64 (0x400000 + 4096 * 1023 + 0x910), data := [5, 0, 0, 0, 0, 0, 0, 0] })
       { bench 1 with apBase := 0x2000000000000, ctxs := [{ Context.bare 1023 0x1000 with cevt := 7 }] }
     s.power && s.running && (s.ctx? 1023).isSome && decide (s.input.data.length = 8) &&
       decide (registerOffset (s.apBase.toNat + s.input.addr.toNat % 2 ^ 32) = some (0x400000 + 4096 * 1023 + 0x910))) = true ∧
    (let s : State := given (fun x => { x with addr := 0x200000, data := [1] }) { bench 1 with apBase := 0x100000000000, cxlPeer := 1, cxlUp := 1, cxlCap := 0 }
     s.power && s.running && decide (registerOffset (s.apBase.toNat + 0x200000) = none ∧ s.place (s.apBase.toNat + 0x200000) = .peer 0)) = true := by
  decide +kernel

/-- HostAccess: an aperture on memory, read and written, and on an address that leads nowhere. -/
theorem witness_HostAccess_aperture :
    [(0, [], true), (0, [1, 2], true), (0x8000000000000, [], false)].all (fun e =>
      let s : State := given (fun x => { x with addr := 0x200000, sub := 8, data := e.2.1 }) { bench 1 with apBase := BitVec.ofNat 64 e.1 }
      let pa := s.apBase.toNat + s.input.addr.toNat % 2 ^ 32
      s.power && s.running && decide (registerOffset pa = none) && decide (s.place pa = if e.2.2 then .memory else .package 0 0x200000) &&
        s.ctxs.all fun x => !x.lazy) = true ∧
    (let s : State := given (fun x => { x with addr := 0x200000 }) { bench 1 with apBase := 0x4000000000000000 }
     decide (s.place (s.apBase.toNat + 0x200000) = .unbacked ∧ registerOffset (s.apBase.toNat + 0x200000) = none)) = true := by decide +kernel

/-! ### Host queues and launches -/

/-- A queue of a context with packets copied. -/
def queue (buffer : List (List Byte)) : HostQueue :=
  { ctx := 1024, enabled := true, base := 0x300000, size := 16, tickets := 1, tail := 0xFFFFFFFF, head := 7, buffer := buffer, pass := 0,
    eligible := true, blocked := false, stopped := false }

/-- A machine with queue 9 and a later one. -/
def queued (q : HostQueue) (f : Input → Input) : State :=
  given (fun x => f { x with unit := 9 }) { bench 1 with queues := [(9, q), (12, { queue [List.replicate 64 0] with pass := 3 })] }

/-- A packet of eight words. -/
def packet (l : List Nat) : List Byte := (List.range 8).flatMap fun i => leBytes 8 (l.getD i 0)

/-- HostQueues: a doorbell whose count wraps, with as many packets as there is room for and one more; a queue that is disabled, and
none. -/
theorem witness_HostQueues_doorbells :
    (let s := queued (queue []) fun x => { x with val := 15 }
     s.power && s.running && decide (s.bootState = 6 ∧ (s.queues.map Prod.fst).Nodup ∧ (15 + 2 ^ 32 - 0xFFFFFFFF) % 2 ^ 32 = 16) &&
       ((State.copyPackets 1024 (queue []) ((List.range 16).map fun i => (0xFFFFFFFF + i) % 2 ^ 32) s).2.any fun l => l.length == 16)) = true ∧
    (let s := queued (queue []) fun x => { x with val := 16 }
     decide ((queue []).size < (s.input.val.toNat % 2 ^ 32 + 2 ^ 32 - 0xFFFFFFFF) % 2 ^ 32) && (s.queues.lookup s.input.unit).any fun q => q.enabled) = true ∧
    (let s := queued { queue [] with enabled := false } fun x => x
     ((s.queues.lookup 9).any fun q => !q.enabled) && (s.queues.lookup 10).isNone) = true := by decide +kernel

/-- Whether a packet is processed next, of a type. -/
def serves (s : State) (q : HostQueue) (b : List Byte) (type : Nat) : Bool :=
  decide (s.power = true ∧ s.running = true ∧ (s.queues.map Prod.fst).Nodup ∧ s.noteEligible.nextQueue = some (s.input.unit, q) ∧
    q.buffer.head? = some b ∧ packetType (blockWord b 0) = type)

/-- What `serves` decides. -/
theorem serves_iff {s : State} {q : HostQueue} {b : List Byte} {type : Nat} (h : serves s q b type = true) : Serves s q b type := by
  simp only [serves, decide_eq_true_eq] at h
  exact ⟨h.1, h.2.1, h.2.2.1, h.2.2.2.1, h.2.2.2.2.1, h.2.2.2.2.2⟩

/-- HostQueues: a nop packet, with a word that must be zero and one that is not; a packet of each reserved type. -/
theorem witness_HostQueues_nops :
    [0, 1].all (fun v => let b := packet [0x0800000000000000, 0, 0, 0, 0, 0, 0, v]
      serves (queued (queue [b]) fun x => x) (queue [b]) b 0 && (decide (blockWord b 0 &&& ~~~(0xF800000000000000 : Reg) = 0) &&
        ([1, 2, 3, 4, 5, 6, 7].all fun i => decide (blockWord b i = 0))) == (v == 0)) = true ∧
    [4, 15].all (fun k => let b := packet [k * 2 ^ 60]
      serves (queued (queue [b]) fun x => x) (queue [b]) b k) = true := by decide +kernel

/-- HostQueues: a signal packet of each scope; a wait packet whose word has reached its value, and one short of it. -/
theorem witness_HostQueues_waits :
    [3, 5].all (fun f => let b := packet [0x3000000000000000 + f * 2 ^ 56, 0, 0, 0x200000, 5]
      serves (queued (queue [b]) fun x => x) (queue [b]) b 3 &&
        decide (blockWord b 0 &&& ~~~(0xFF00000000000000 : Reg) = 0 ∧ 3 ≤ (bf (blockWord b 0) 56 3).toNat ∧
          (bf (blockWord b 0) 56 3).toNat ≤ 5 ∧ bf (blockWord b 3) 0 3 = 0) && [1, 2, 5, 6, 7].all fun i => decide (blockWord b i = 0)) = true ∧
    [(0, true), (1, false)].all (fun e => let b := packet [0x2000000000000000, 0, 0, 0x200000, e.1]
      let s := queued (queue [b]) fun x => x
      let p := s.noteEligible.modQueue s.input.unit fun x => { x with pass := x.pass + 1048576 / s.noteEligible.effectiveTickets s.input.unit (queue [b]) }
      serves s (queue [b]) b 2 && decide (blockWord b 0 &&& ~~~(0xF8FFF80000000000 : Reg) = 0 ∧ bf (blockWord b 0) 43 13 = 0) &&
        match (p.fetchBytes 1024 0x200000 8).2 with
        | .ok v => decide ((blockWord b 4).toNat ≤ leNat v) == e.2
        | _ => false) = true ∧
    (let b := packet [0x2000000000000000, 0, 0, 0x200000, 1]
     let s := queued { queue [b] with blocked := true } fun x => x
     s.power && s.running && (s.fetchBytes 1024 0x200000 8).2.toOption.isSome && (s.queues.lookup 9).any fun q => q.blocked && decide (q.buffer.head? = some b)) =
      true := by decide +kernel

/-- The memory of a graph 77 of one program node, its region's block and its host record. -/
def graphMemory (s : State) : State :=
  let node := [3 * 2 ^ 40 + 2 ^ 27 + 2 ^ 22 + 2 ^ 18, 5 * 2 ^ 48, 4 * 2 ^ 32 + 1, 0, 2 ^ 63 + 2 ^ 61, 0, 0, 0, 0, 0, 0, 0, 0x100000, 16 * 2 ^ 12 + 1]
  let m := writeBytes s.mem 0x200000 (leBytes 8 77)
  let m := writeBytes m 0x200040 ((List.range 14).flatMap fun i => leBytes 8 (node.getD i 0))
  let m := writeBytes m 0x280140 (leBytes 8 0xFFFF090000000310)
  { s with mem := writeBytes m 0x290000 [1, 2, 3, 4, 5, 6, 7, 8, 9], ctxs := s.ctxs.map fun c => { c with rcbBase := 0x280000, saveSize := 10000000 } }

/-- A packet that launches that graph, from an entry node. -/
def launchOf (scope entry : Nat) : List Byte := packet [0x1000000000000000 + scope * 2 ^ 56 + entry * 2 ^ 44, 0x200000, 0x290000, 0x2A0000, 5, 0x2A0008]

/-- Launches: a packet that passes every check, one whose scope is not legal, one whose entry node the graph does not have; a context
whose descriptors cannot be read. -/
theorem witness_Launches :
    [(3, 0, none), (0, 0, some 1), (5, 1, some 3)].all (fun e => let b := launchOf e.1 e.2.1
      let s := graphMemory (queued (queue [b]) fun x => x)
      let p := s.noteEligible.modQueue s.input.unit fun x => { x with pass := x.pass + 1048576 / s.noteEligible.effectiveTickets s.input.unit (queue [b]) }
      serves s (queue [b]) b 1 && s.input.ok && (launchFieldsOk b == (e.2.2 != some 1)) && match (p.checkGraph 1024 (launchOfPacket b)).2 with
        | .ok k => decide (k.graphid = 77 ∧ k.nodes.length = 1 ∧ k.records.length = 1) && e.2.2 != some 3
        | .error c => e.2.2 == some c) = true ∧
    (match ((graphMemory (bench 1)).checkGraph 1024 { launchOfPacket (launchOf 3 0) with graph := 0x10000000000 }).2 with
      | .error c => decide (c = 2)
      | .ok _ => false) = true := by decide +kernel

/-- Launches: the reads of a launch whose entry node the graph does not have all succeed. -/
theorem witness_Launches_reads :
    let s := graphMemory (bench 1)
    (match s.fetchRun 1024 0x200000 64 with
     | (s1, .ok hdr) => decide ((bf (blockWord hdr 0) 52 12).toNat + 1 = 1) && match s1.fetchRun 1024 0x200040 256 with
       | (s2, .ok body) => (State.readChains 1024 (((s2.ctx? 1024).map fun x => x.rcbBase.toNat).getD 0)
           (((List.range 1).map fun i => (bf (blockWord ((body.drop (256 * i)).take 256) 1) 48 16).toNat).eraseDups) [] s2).2.isSome
       | _ => false
     | _ => false) = true ∧
    (match (s.fetchRun 1024 0x10000000000 64).2 with
     | .error _ => true
     | .ok _ => false) = true := by decide +kernel

/-- Launches: the words that a rejected launch stores can be stored, at its status address and then at its signal address. -/
theorem witness_Launches_stores :
    let s := warmed (bench 1)
    (match s.storeGlobal ⟨1024, none⟩ {} 0x200000 (bytesLe 8 (4 * 2 ^ 56)) 0 with
    | (s1, .ok ()) => ([(s, (0x200000 : Reg)), (s1, 0x200008)].all fun e => decide (e.2 ≠ 0 ∧ bf e.2 0 3 = 0 ∧ e.2.toNat < 2 ^ 56) &&
        (e.1.registerAt 1024 e.2.toNat .write).isNone && e.1.canStore 1024 e.2) &&
        (s1.storeGlobal ⟨1024, none⟩ {} 0x200008 (bytesLe 8 5) 0).2.isOk &&
        decide ((s.translate 1024 0x200000 .write).2 = .ok 0x200000 ∧ s.place 0x200000 = .memory)
    | _ => false) = true := by decide +kernel

/-! ### Links, requests and records of other packages -/

/-- A module whose port 95 stands in a state. -/
def linked (l : LinkState) (attempts tick : Nat) (ok : Bool) : State :=
  given (fun x => { x with unit := 95, sub := 7, ok := ok })
    { bench 1 with tick := tick, routes := [(7, 1 <<< 95)], links := (bench 1).links.set 95 { state := l, attempts := attempts, since := 0 } }

/-- Links: a port in each state, at the bounds of its times and attempts. -/
theorem witness_Links :
    [LinkState.down, .detect, .train, .verify, .up, .failed].all (fun l => [0, 1, 2].all fun k => [2 ^ 24 - 1, 2 ^ 24].all fun t => [true, false].all fun ok =>
      let s := linked l k t ok
      s.power && s.running && ((s.links[s.input.unit]?).any fun x => x.state == l && x.attempts == k) && (s.input.ok == ok) &&
        ((s.routes.lookup s.input.sub).any fun v => v.getLsbD s.input.unit) && decide (0 + 2 ^ 24 ≤ s.tick) == (t == 2 ^ 24)) = true ∧
    ((linked .verify 0 0 true).routes.lookup 8).isNone = true := by decide +kernel

/-- A context whose binding table at 0x242000 names, for package 7, context 33 of it, with window 0, which it may write or not (R353). -/
def bound (write : Bool) (s : State) : State :=
  { s with ctxs := s.ctxs.map fun c => { c with bindBase := 0x242000 - 56 }
           mem := writeBytes s.mem 0x242000 (leBytes 8 (2 ^ 63 + (if write then 2 ^ 62 else 0) + 33 * 2 ^ 52)) }

/-- RemoteArrivals: a binding that admits, one that may not be written through, and none. -/
theorem witness_RemoteArrivals_bindings :
    [true, false].all (fun w => let s := bound w (bench 1)
      (s.binding 1024 7).any fun e => e.getLsbD 63 && decide ((bf e 52 10).toNat = 33 ∧ bf e 17 35 = 0) && (e.getLsbD 62 == w)) = true ∧
    ((bound true (bench 1)).binding 1023 7).isNone = true ∧ ((bound true (bench 1)).bindingNames 1024 7 33 && !(bound true (bench 1)).bindingNames 1024 7 34) = true := by
  decide +kernel

/-- RemoteArrivals: an entry with a reserved bit; an access of this package's own to a package that is reached, to one that is not, and
by the loop-back, which admits it. -/
theorem witness_RemoteArrivals_outgoing :
    let s := bound true (linked .up 0 0 true)
    let own : State := { s with ctxs := s.ctxs.map fun c => { c with id := 33, bindBase := BitVec.ofNat 64 (0x242000 - 8 * s.pkg) },
                                tlb := [{ ctx := 33, va := 0, size := 30, pa := 0, x := true, w := true, r := true }] }
    let reserved : State := { s with mem := writeBytes s.mem 0x242000 (leBytes 8 (2 ^ 63 + 33 * 2 ^ 52 + 2 ^ 51)) }
    ((s.binding 1024 7).any bindingValid && s.reachable 7 && decide (7 ≠ s.pkg)) = true ∧
    (({ s with routes := [] } : State).reachable 7) = false ∧
    ((reserved.binding 1024 7).any fun e => e.getLsbD 63 && decide (bf e 17 35 ≠ 0)) = true ∧
    ((own.binding 33 own.pkg).any bindingValid && (own.admitAccess 33 own.pkg 33 0x200000 .read).2.toOption.isSome) = true := by decide +kernel
/-- RemoteArrivals: a read, a write and an atomic operation that are admitted, one that may not write, and a reserved kind. -/
theorem witness_RemoteArrivals_accesses :
    let s (w : Bool) (kind : Nat) : State :=
      given (fun x => { x with unit := 1024, sub := 7, addr := 0x200000, val := 3, data := [1, 2, 3, 4], tid := ⟨kind, 8, 33⟩ }) (bound w (bench 1))
    [0, 1, 2, 28, 29].all (fun k => (s true k).power && (s true k).running && decide ((s true k).input.tid.wg = k ∧ (s true k).input.data ≠ [])) = true ∧
    ((State.remoteRead 1024 7 33 0x200000 (min 8 256) (s true 0)).2.toOption.any fun b => b.length == 8) = true ∧
    ((State.remoteWrite 1024 7 33 0x200000 [1, 2, 3, 4] (s true 1)).2.toOption.any fun b => b.isEmpty) = true ∧
    (match (s true 28).admitAccess 1024 7 33 0x200000 .modify with
      | (s1, .ok pa) => decide (pa = 0x200000) && s1.ctxs.all fun y => !y.lazy
      | _ => false) = true ∧
    [Access.write, .modify].all (fun k => match ((s false 1).admitAccess 1024 7 33 0x200000 k).2 with
      | .error e => decide (e = .writeDenied)
      | .ok _ => false) = true := by decide +kernel

/-- Two records of a queue. -/
def records : List Rec := [{ bytes := [1, 2], depth := 0, entered := 5, chunk := 0 }, { bytes := [3], depth := 0, entered := 6, chunk := 0 }]

/-- A machine whose graph is changed. -/
def withGraph (f : Graph → Graph) (s : State) : State := { s with graphs := s.graphs.map f }

/-- A machine whose graph's node 0 is changed. -/
def withNode (f : Node → Node) (s : State) : State := withGraph (fun g => { g with nodes := g.nodes.modify 0 f }) s

/-- RemoteArrivals: a record for a graph that runs, whose queue has room and is full; for one that does not; from a context that the
binding does not name. -/
theorem witness_RemoteArrivals_records :
    let s (gid ctx : Nat) (q : List Rec) : State :=
      given (fun x => { x with unit := 1024, sub := 7, val := BitVec.ofNat 64 gid, data := [1, 2, 3, 4], tid := ⟨0, 0, ctx⟩ })
        (withNode (fun n => { n with queue := q }) (bound true (inGraph 0 (bench 1))))
    [([], true), (records ++ records, false)].all (fun e => (s 77 33 e.1).power && (s 77 33 e.1).running && (s 77 33 e.1).bindingNames 1024 7 33 &&
      ((s 77 33 e.1).instanceOf 1024 77).any fun g => ((s 77 33 e.1).node? g.id 0).any fun nd => !nd.killed && !nd.finalClosed && nd.waiting.isEmpty &&
        decide (nd.desc.kind ≠ .join) && ((s 77 33 e.1).hasRoom g.id 0 == e.2)) = true ∧
    ((s 78 33 []).bindingNames 1024 7 33 && ((s 78 33 []).instanceOf 1024 78).isNone && !(s 77 34 []).bindingNames 1024 7 34) = true ∧
    ((s (77 + 2 * 2 ^ 32) 33 []).node? 0 2).isNone = true := by decide +kernel

/-- RemoteArrivals: a record that waits for an instance, at its timeout and before; a record in flight over a port, to a package that
cannot be reached. -/
theorem witness_RemoteArrivals_flights :
    [(65535, false), (65536, true)].all (fun e =>
      let r : RemoteRecord := { pkg := 7, ctx := 1024, node := 0, graphid := 77, bytes := [1], depth := 0, since := 0 }
      let s : State := given (fun x => { x with val := 3 }) (withGraph (fun g => { g with remoteOut := [(0, 3, 0), (1, 3, 0)] })
        { inGraph 0 (bench 1) with remoteRecords := [r], tick := e.1 })
      s.power && s.running && decide (s.remoteRecords[s.input.unit]? = some r) && (decide (0 + s.fabricTimeout 1024 ≤ s.tick) == e.2) &&
        (s.graph? s.input.unit).any fun g => g.remoteOut.contains (s.input.sub, s.input.val.toNat, 0) &&
          decide ((g.remoteOut.find? fun x => x.1 = 0 && x.2.1 = 3) = some (0, 3, 0)) && (g.nodes.all fun y => y.copyLaunches.isEmpty) &&
          ((g.nodes[0]?).bind fun n => n.desc.ports[3]?).any fun p => !s.reachable p.pkg) = true ∧
    ((bench 1).reachable (bench 1).pkg) = true := by decide +kernel

/-! ### Gang launches -/

/-- A gang launch of this package alone at 0x2C0000: its descriptor, its packet and its list (R362). -/
def gangMemory (s : State) : State :=
  let s := bound true (graphMemory s)
  { s with mem := writeBytes (writeBytes (writeBytes s.mem 0x2C0000 (packet [2 ^ 63, 0x2C1000, 0x2C2000])) 0x2C0040 (launchOf 3 0)) 0x2C1000 (leBytes 2 7) }

/-- GangLaunches: a legal descriptor, whose member's binding is valid. -/
theorem witness_GangLaunches_descriptor :
    let s : State := given (fun x => { x with unit := 1024, val := 0x2C0000 }) (gangMemory (bench 1))
    (s.power && s.running && decide (s.bootState = 6) && (s.ctx? 1024).isSome && !s.ctxFailed 1024 &&
      match (s.modCtx 1024 fun x => { x with gangLaunch := 0x2C0000 }).fetchRun 1024 0x2C0000 64 with
      | (s1, .ok hdr) => decide ((bf (blockWord hdr 0) 51 12).toNat + 1 = 1 ∧ bf (0x2C0000 : Reg) 0 6 = 0 ∧ bf (blockWord hdr 0) 0 39 = 0 ∧
          bf (blockWord hdr 2) 0 3 = 0) && ([3, 4, 5, 6, 7].all fun i => decide (blockWord hdr i = 0)) &&
        match s1.fetchRun 1024 0x2C0040 64 with
        | (s2, .ok _) => (match s2.fetchRun 1024 (blockWord hdr 1) 2 with
          | (s3, .ok l) => decide (leNat l = 7) && (s3.binding 1024 7).any bindingValid
          | _ => false)
        | _ => false
      | _ => false) = true := by decide +kernel

/-- A machine that leads a gang launch of two members. -/
def leading (answers : List GangAnswer) (decision : Option Bool) (confirmed : List Nat) (tick : Nat) (confirms : Bool) : State :=
  given (fun x => { x with unit := 40, sub := 1, addr := if confirms then 1 else 0 }) { warmed (bench 1) with
    tick := tick
    gangLeads := [{ id := 40, ctx := 1024, gstat := 0x2C2000, members := [7, 8], answers := answers, decision := decision, confirmed := confirmed,
                    since := 0, repeated := 0 }] }

/-- GangLaunches: a leader in each state, at the bounds of its timeouts. -/
theorem witness_GangLaunches_leader :
    [([GangAnswer.ack, .none], (none : Option Bool), ([] : List Nat), 65536, false, (none : Option Bool)),
      ([.ack, .none], none, [], 65537, false, some false), ([.ack, .ack], none, [], 0, false, some true),
      ([.refused 4, .none], none, [], 0, false, some false), ([.ack, .ack], some true, [], 65535, true, some true),
      ([.ack, .ack], some true, [0], 65536, true, some true)].all (fun e =>
      let s := leading e.1 e.2.1 e.2.2.1 e.2.2.2.1 e.2.2.2.2.1
      s.power && s.running && (s.gangLeads.find? fun x => x.id == s.input.unit).any fun g => decide (s.input.sub < g.members.length) &&
        (g.outcome (decide (g.since + s.fabricTimeout g.ctx < s.tick)) == e.2.2.2.2.2) && decide (s.input.sub ∉ g.confirmed) &&
        (decide (g.answers[s.input.sub]? = some .none) == decide (e.1.getLast? = some .none))) = true ∧
    (((leading [.ack, .ack] none [] 0 false).modLead 40 fun x => { x with decision := some true, repeated := 0 }).controlWords 1024 0x2C2000
      [0x800000000000FFFF]).2.isOk = true := by decide +kernel

/-- GangLaunches: prepares that are named and not, with a packet that passes and one that does not; a strict member with its graph. -/
theorem witness_GangLaunches_members :
    let s (ctx scope : Nat) : State :=
      given (fun x => { x with unit := 1024, sub := 7, val := 40, data := launchOf scope 0, tid := ⟨0, 0, ctx⟩ }) (gangMemory (bench 1))
    ((s 33 3).power && (s 33 3).running && (s 33 3).gangMembers.isEmpty && (s 33 3).bindingNames 1024 7 33 && !(s 34 3).bindingNames 1024 7 34 &&
      !(s 33 3).ctxFailed 1024 && ({ s 33 3 with ctxs := (s 33 3).ctxs.map fun c => { c with failed := true } } : State).ctxFailed 1024 &&
      decide (packetType (blockWord (s 33 3).input.data 0) = 1) && launchFieldsOk (s 33 3).input.data && !launchFieldsOk (s 33 0).input.data &&
      !(s 33 3).input.addr.getLsbD 63 && ((s 33 3).checkGraph 1024 (launchOfPacket (launchOf 3 0))).2.toOption.isSome) = true ∧
    (let m : GangMember := { leader := 7, id := 40, ctx := 1024, eager := false, comm := 0, packet := [], graph := some 0, decision := none }
     let z : State := given (fun x => { x with unit := 40, sub := 7 }) { inGraph 0 (bench 1) with gangMembers := [m] }
     ((z.gangMembers.find? fun x => x.leader == z.input.sub && x.id == z.input.unit) == some m) && z.remoteRecords.isEmpty &&
       (z.graph? 0).any fun gr => gr.hostLeft.isEmpty && !gr.hostWaits) = true := by decide +kernel

/-! ### The scheduler -/

/-- A machine whose launch packet has been processed: a record stands in the queue of node 0 of a graph that runs. -/
def launched : State := given id (after .launchPacket (graphMemory (queued (queue [launchOf 3 0]) fun x => x)))

/-- Placement: the first candidate of die 0 can be placed; no candidate of die 1. -/
theorem witness_Placement_candidates :
    (launched.power && launched.running && match (launched.dropStale.candidates 0).find? launched.dropStale.placeable with
      | none => false
      | some c => (launched.dropStale.place1 c).isSome) = true ∧
    launched.dropStale.candidates 1 = [] := by decide +kernel

/-- Placement: a timer gather whose oldest record has waited its time, and one short of it; spots of one and of two workgroups; a node. -/
theorem witness_Placement :
    [(104, false), (105, true)].all (fun e =>
      let s : State := given id { withNode (fun n => { n with queue := records, desc := { n.desc with gather := 2 } }) (inGraph 0 (bench 1)) with tick := e.1 }
      s.power && s.running && (s.node? s.input.unit s.input.sub).any fun nd => decide (nd.queue = records ∧ nd.desc.gather = 2 ∧ nd.desc.kind ≠ .join) &&
        !nd.killed && (decide (5 + nd.desc.timer ≤ s.tick) == e.2)) = true ∧
    (let l : List Spot := [⟨0, 5, []⟩, ⟨1, 9, []⟩, ⟨5, 20, []⟩]
     decide (chooseSpots 1 l = some [⟨5, 20, []⟩] ∧ chooseSpots 2 l = some [⟨0, 5, []⟩, ⟨1, 9, []⟩] ∧ (l.map Spot.core).Nodup)) = true ∧
    ((inGraph 0 (bench 1)).node? (plainGraph 0).id 0).isSome = true := by decide +kernel

/-- SchedulerEvents: a result on its way to each kind of place; a bounded wait that is over and one that is not; a thread that may age. -/
theorem witness_SchedulerEvents_threads :
    [Target.named 63, .slot 1, .pred 11].all (fun t =>
      let s : State := given id (withThreads (fun v => { v with arriving := [{ target := t, value := 7 }], qseq := 1, queue := [{ val := 0, pending := true }] }) (bench 1))
      s.power && s.running && (s.thread? s.input.tid).any fun v => ((v.arriving[s.input.sub]?).any fun a => a.target == t) &&
        decide (v.arriving.map Arrival.target).Nodup && v.isLive && decide (v.wait = .running)) = true ∧
    [(9, false), (10, true)].all (fun e => let s : State := given id { withThreads (fun v => { v with wait := .fuse 10 }) (bench 1) with tick := e.1 }
      (s.thread? s.input.tid).any fun v => v.isLive && decide (v.wait = .fuse 10) && (decide (10 ≤ s.tick) == e.2)) = true := by decide +kernel

/-- SchedulerEvents: two threads of a weave that have been ready for 16,384 core clocks, and a tick less; two that stand at a fusion
point, the second with a later deadline. -/
theorem witness_SchedulerEvents_weave :
    [true, false].all (fun due => let s : State := given id (bench 2)
      let z : State := { s with tick := s.clocksToTicks 16384 - (if due then 0 else 1) }
      z.power && z.running && (z.thread? z.input.tid).any fun v => v.isLive && decide (v.wait = .running) &&
        decide (v.readyAt + z.clocksToTicks 16384 ≤ z.tick) == due) = true ∧
    (let s : State := given id { machine [{ bthread 0 with wait := .fuse 10 }, { bthread 1 with wait := .fuse 20 }] [] with tick := 10 }
     (s.thread? ⟨0, 0, 0⟩).any fun v => (s.thread? ⟨0, 0, 1⟩).any fun u => v.isLive && u.isLive && decide (v.wait = .fuse 10 ∧ 10 ≤ s.tick) &&
       decide (u.wait = .fuse 20 ∧ u.pc = v.pc)) = true := by decide +kernel

/-- SchedulerEvents: a thread's record waits, with room for it and without. -/
theorem witness_SchedulerEvents_admission : [([], true), (records ++ records, false)].all (fun e =>
    let s : State := given id (withNode (fun n => { n with queue := e.1, waiting := [{ who := .thread ⟨0, 0, 0⟩, bytes := [5], depth := 0 }] })
      (inGraph 0 (withThreads (fun v => { v with wait := .emitting 0 }) (bench 1))))
    s.power && s.running && (s.graphs.all fun x => x.nodes.all fun y => y.copyLaunches.isEmpty) && ((s.graph? s.input.unit).any fun g => !g.feeding) &&
      ((s.node? s.input.unit s.input.sub).any fun nd => decide ((nd.waiting.map Waiting.who) = [.thread ⟨0, 0, 0⟩]) && !nd.finalClosed) && (s.hasRoom s.input.unit s.input.sub == e.2) &&
      (s.thread? ⟨0, 0, 0⟩).any fun v => decide (v.wait = .emitting 0)) = true := by decide +kernel

/-- SchedulerEvents: a graph that the host still feeds, one that it does not, and no graph. -/
theorem witness_SchedulerEvents_feeding :
    [true, false].all (fun f => let s : State := given id (withGraph (fun g => { g with feeding := f }) (inGraph 0 (bench 1)))
      s.power && s.running && ((s.strandLeft 0).graph? 0).any fun g => g.feeding == f) = true ∧
    (((given id (bench 1)).strandLeft 0).graph? 0).isNone = true := by decide +kernel

/-- SchedulerEvents: a graph whose work is done, and one whose work is not; addresses of reports that are stored to and that are not
aligned. -/
theorem witness_SchedulerEvents_ends :
    (let s : State := given id { inGraph 0 (bench 1) with wgs := [] }
     s.power && s.running && decide ((s.strandLeft 0).outstanding 0 = 0) && ((s.strandLeft 0).graph? 0).any fun g => !g.feeding) = true ∧
    (let s : State := given id (inGraph 0 (bench 1))
     decide ((s.strandLeft s.input.unit).outstanding s.input.unit ≠ 0)) = true ∧
    (decide (bf (0x200001 : Reg) 0 3 ≠ 0 ∧ bf (0x200000 : Reg) 0 3 = 0) && (bench 1).canStore 1024 0x200000 &&
      ((bench 1).storeGlobal ⟨1024, none⟩ {} 0x200000 (leBytes 8 5) 0).2.toOption.isSome &&
      ((bench 1).registerAt 1024 0x200000 .write).isNone) = true ∧
    (({ bench 1 with tlb := [{ ctx := 1024, va := 0, size := 30, pa := 0x2000000000000, x := false, w := true, r := true }] } : State).registerAt
      1024 0x1000 .write) = some 0x1000 := by decide +kernel

/-- A machine whose core 0 a candidate that needs a tile has reserved since tick 0, with the workgroup of a lower region resident there. -/
def reserving (tick save : Nat) (preempt : Nat) : State :=
  let s := inGraph 0 (bench 2)
  let nd : Node := { emptyNode { programNode with tiles := 1, rcb := 6 } with queue := records }
  given id (withCore (fun k => { k with reserved := some { graph := 1, node := 0, launch := none, quires := 5, tiles := 1, tables := 0, since := 0 } })
    { s with tick := tick, ctxs := s.ctxs.map (fun c => { c with saveSize := save })
             graphs := (s.graphs.map fun g => { g with regions := [{ region 5 0 with preempt := preempt }] }) ++
               [{ plainGraph 0 with id := 1, graphid := 78, nodes := [nd], regions := [{ region 6 0 with prio := 9 }] }] })

/-- Preemption: a reservation that has stood long enough and one that has not; a save pool with just enough room and one byte less; a
workgroup whose region does not allow it. -/
theorem witness_Preemption_victim :
    [(65536, 5510720, 2), (65536, 5510719, 2), (65535, 0, 2), (65536, 0, 0)].all (fun e => let s := reserving e.1 e.2.1 e.2.2
      s.power && s.running && (match (s.core? s.input.unit).bind Core.reserved, s.graph? 1 with
        | some r, some g => (g.nodes[r.node]?).any fun nd =>
          let cores := (List.range 48).filter fun k => (s.core? k).bind Core.reserved == some r
          let c : Candidate := { graph := r.graph, node := r.node, launch := r.launch, prio := g.prioOf nd.desc, cap := false, since := 0 }
          decide (cores = [0]) && (s.chosenSpots c { s.placing c nd with cores := cores }).isNone &&
            decide ((s.victims cores c.prio).map (fun v => (v.1, v.2.id)) = if e.2.2 = 0 then [] else [(1, 0)])
        | _, _ => false) &&
      (s.graphs.all fun y => y.nodes.all fun n => n.copyLaunches.isEmpty && n.waiting.isEmpty) &&
      (s.wg? 0).any fun w => decide (s.launchWgs w.graph w.node w.launch = [w]) && w.writes.isEmpty && (s.commandsOf w.id).isEmpty &&
        (w.saveBytes true == 5510720) && (s.ctx? w.ctx).any fun x => decide (x.saveUsed = 0 ∧ x.saveSize = e.2.1)) = true := by decide +kernel

/-- Preemption: a region out of workgroups, whose threads wait, past its timeout and at it. -/
theorem witness_Preemption_stall : [(1001, true), (1000, false)].all (fun e =>
    let s : State := given (fun x => { x with sub := 5 }) (withGraph (fun g => { g with
        regions := [{ region 5 0 with wgs := some 1 }], stalls := [{ region := 5, since := 0, mark := 0, delivered := false }]
        nodes := g.nodes.map fun n => { n with queue := records } })
      { inGraph 0 (withThreads (fun t => { t with wait := .formation }) (bench 1)) with tick := e.1 })
    s.power && s.running && (s.noteStalls.graph? s.input.unit).any fun g => (g.region? s.input.sub).any fun r =>
      s.noteStalls.stallDue g r == e.2) = true := by decide +kernel

/-- Preemption: such a region that is to halt under a debugger, whose fault log takes the entry, and does not; and one without a debugger. -/
theorem witness_Preemption_halt : [(true, 0x300000, true), (true, 0, false), (false, 0x300000, true)].all (fun (e : Bool × Reg × Bool) =>
    let s : State := given (fun x => { x with sub := 5 }) (withGraph (fun g => { g with
        regions := [{ region 5 5 with wgs := some 1 }], stalls := [{ region := 5, since := 0, mark := 0, delivered := false }]
        nodes := g.nodes.map fun n => { n with queue := records } })
      { inGraph 0 (withThreads (fun t => { t with wait := .formation }) (bench 1)) with tick := 1001 })
    let s : State := { s with ctxs := s.ctxs.map fun c => { c with brkEn := e.1, logBase := e.2.1 } }
    let f : LogFields := { ctx := 1024, cause := 0x38, policy := 5, unit := 0, acc := 0, rcb := 5, node := 0, group := 0, faddr := 5, pc := 0,
                           graphid := 77, launch := 0, nthr := 0 }
    s.power && s.running && decide (s.wgs.map Workgroup.id).Nodup && ((s.ctx? 1024).any fun x => x.brkEn == e.1) &&
      (s.noteStalls.graph? s.input.unit).any fun g => (g.nodes[0]?).any (fun n => n.desc.rcb == 5) && (g.region? s.input.sub).any fun r =>
        s.noteStalls.stallDue g r && decide (r.policy = 5) && (((s.noteStalls.modGraph g.id fun x => { x with
          faults := x.faults + 1, stalls := x.stalls.map fun k => if k.region = 5 then { k with delivered := true } else k }).writeLog f).2.isSome == e.2.2)) =
  true := by decide +kernel

/-! ### Caches, service of faults, the debugger -/

/-- A machine with two write-throughs of one bucket pending, of generation 0, the first of which its home has performed or not. -/
def writing (lazy moved hand done : Bool) : State :=
  let w (seq : Nat) : WriteThrough := { addr := 0x200000, bytes := [1], owns := false, gen := 0, seq := seq, sent := 100 * (seq - 1) }
  let s := bench 1
  let b := s.bucketKey 1024 0x200000
  given (fun x => { x with sub := 1 }) (withWg (fun x => { x with writes := [w 1, w 2] }) { s with
    tick := 32768, ctxs := s.ctxs.map (fun c => { c with lazy := lazy }), mapGens := if moved then [(b, (1, 3))] else [],
    handovers := if hand then [(b, 3)] else [], performed := if done then [((0, b), (1, []))] else [] })

/-- Caches: write-throughs that their home performs, and that a retired home refuses; deferred ones at their deadline and before it. -/
theorem witness_Caches_writes :
    [(false, false, true), (true, true, true), (true, false, false)].all (fun e => [true, false].all fun done =>
      let s := writing false e.1 e.2.1 done
      let b := s.bucketKey 1024 0x200000
      s.power && s.running && (s.wg? s.input.unit).any fun x => decide (x.ctx = 1024) && !s.lazyCtx x.ctx && (x.writes[s.input.sub]?).any fun u =>
        (s.performs x u == e.2.2) && (done || x.writes.all fun z => s.performs x z == e.2.2) &&
        (decide (x.writes.map (fun z => decide (s.lastPerformed x.id b < z.seq)) = [!done, true])) &&
        decide (x.writes.map WriteThrough.seq = [1, 2]) && (decide (u.gen < s.moveGen b) == e.1) && (s.handing b == e.2.1) && s.input.ok) = true ∧
    (let s := writing true false false false
     (s.wg? s.input.unit).any fun x => s.lazyCtx x.ctx && decide (x.writes.map (fun z => decide (z.sent + 32768 ≤ s.tick)) = [true, false]) &&
       decide (x.writes.map WriteThrough.sent = [0, 100])) = true := by
  decide +kernel

/-- Caches: lines of an L1, the one that the input names not kept, kept beside another that is not, and kept like every other. -/
theorem witness_Caches_lines :
    let w (a : Nat) (k : Bool) : L1Word := { addr := a, value := 7, owned := false, keep := k }
    [([w 0 false, w 48 true], false, false), ([w 0 true, w 48 false], true, false), ([w 0 true, w 48 true], true, true)].all (fun (e : List L1Word × Bool × Bool) =>
      let s : State := given id (withWg (fun x => { x with l1 := e.1 }) (bench 1))
      s.power && s.running && decide (s.input.addr.toNat / 192 = 0) && (s.wg? s.input.unit).any fun x =>
        let kept (y : L1Word) : Bool := x.l1.any fun v => v.keep && decide (v.addr * 4 / 192 = y.addr * 4 / 192)
        ((x.l1.filter fun y => y.addr * 4 / 192 = 0).all kept == e.2.1) && (x.l1.all kept == e.2.2)) = true := by decide +kernel

/-- Caches: a request of a thread that a retired home refuses, and one that no home refuses. -/
theorem witness_Caches_requests : [(true, false), (true, true), (false, false)].all (fun e =>
    let s := writing false e.1 e.2 false
    let k := s.bucketKey 1024 0x200000
    let z : State := given (fun x => { x with ok := false }) (withThreads (fun t => { t with request := some (0, k) }) s)
    z.power && z.running && !z.input.ok && ((z.thread? z.input.tid).any fun t => t.request == some (0, k)) &&
      (decide (0 < z.moveGen k ∧ z.handing k = false) == (e.1 && !e.2))) = true := by decide +kernel

/-- Caches: a bucket of a map moves from its slice to the last; the scrub finds each number of errors, in a sector that is clean and
one that is dirty. -/
theorem witness_Caches_slices :
    [1023, 1024 * 255 + 1023].all (fun b => let s : State := given (fun x => { x with unit := b, sub := 0 }) (bench 1)
     s.power && s.running && s.slicesInService.getLsbD 0 && !s.islandMask.getLsbD 768 && decide (0 ≠ s.sliceOf b ∧ b < 1024 * 256) && !s.handing b) = true ∧
    [0, 1, 2].all (fun k => [true, false].all fun d => let s : State := given (fun x =>
        { x with unit := (bench 1).sliceOf (bucketOf 0x200000), sub := k, addr := 0x200000, ok := d }) (bench 1)
      s.power && s.running && decide (s.input.unit < 128 ∧ s.place 0x200000 = .memory ∧ s.sliceOf (bucketOf 0x200000) = s.input.unit)) = true := by
  decide +kernel

/-- Caches: an error that is corrected, one that an access meets and is not, in a clean and in a dirty sector, and one in a word of L1 and
in a clean sector. -/
theorem witness_Caches_errors :
    [Turn.corrected 9, .damage (.access ⟨0, 0, [0]⟩) 0x200000 9 none, .damage (.access ⟨0, 0, [0]⟩) 0x200000 9 (some [1]), .damage (.l1 0) 0x200000 9 none,
      .damage .clean 0x200000 9 none].all (fun t => let s : State := { bench 1 with agenda := [t] }
      s.power && s.running && s.bootState == 6 && !s.agenda.isEmpty && (s.wg? 0).isSome && decide (s.place 0x200000 = .memory) &&
        decide (s.weave ⟨0, 0, [0]⟩ = [0])) = true := by decide +kernel

/-- A machine whose group is parked under entry 4 of the log, and under entry 9 as well or not, with one of its threads to be passed
over. -/
def parked (action seq : Nat) (again : Bool) : State :=
  given (fun x => { x with unit := 1024, val := BitVec.ofNat 64 (action + seq * 2 ^ 32) })
    { withGroup (fun g => { g with holds := (if again then [.parked 9] else []) ++ [.parked 4] }) (inGraph 4 (bench 2)) with
      services := [{ ctx := 1024, seq := 4, place := 0, groups := [(0, 0)], count := 1, page := none, nodes := [], skip := [⟨0, 0, 1⟩], orders := [] }] }

/-- FaultService: each action on an entry that holds deliveries and on one that holds none, of a group that another entry holds too and of
one that none does. -/
theorem witness_FaultService : [0, 1].all (fun a => [(4, true), (5, false)].all fun e => [true, false].all fun again => let s := parked a e.1 again
    s.power && s.running && decide ((bf s.input.val 0 2).toNat = a) && (s.ctx? 1024).isSome &&
      ((s.serviceEntry 1024 (bf s.input.val 32 32).toNat).any (fun v => decide v.skip.Nodup && v.groups.all fun x => (s.grp? x.1 x.2).any fun g =>
        g.holds.all (fun h => h = .parked v.seq) == !again) == e.2) &&
      s.graphs.all fun x => x.nodes.all fun y => y.copyLaunches.isEmpty) = true := by decide +kernel

/-- Debugger: a halt request for a region of one group, for one of none, and none; the log takes its entry. -/
theorem witness_Debugger_halt :
    let s (v : Nat) : State := given (fun x => { x with unit := 1024, val := BitVec.ofNat 64 v }) (inGraph 5 (bench 1))
    [(8 + 5 * 65536, [(0, 0)]), (8 + 6 * 65536, []), (5 * 65536, [(0, 0)])].all (fun e =>
      let z := (s e.1).modCtx 1024 fun c => { c with hregion := bf (s e.1).input.val 16 24, traceEn := (s e.1).input.val.getLsbD 2, brkEn := (s e.1).input.val.getLsbD 1 }
      z.power && z.running && (z.ctx? 1024).isSome && decide (z.regionGroups 1024 (bf (s e.1).input.val 16 24).toNat = e.2)) = true ∧
    (let f : LogFields := { ctx := 1024, cause := 0x32, policy := 5, unit := 0, acc := 0, rcb := 5, node := 0, group := 0, faddr := 0,
                            pc := 0x100000, graphid := 77, launch := 0, nthr := 1 }
     ((((s 0).modThread ⟨0, 0, 0⟩ fun t => t.takeImage (trap .haltRequest 0)).modGraph 0 fun k => { k with faults := k.faults + 1 }).writeLog f).2.isSome) =
      true := by decide +kernel

/-- Debugger: a thread at an enabled breakpoint, in register 3; breakpoints that are not enabled. -/
theorem witness_Debugger_breakpoint : [true, false].all (fun on =>
    let s : State := given id { bench 1 with ctxs := (bench 1).ctxs.map fun c => { c with brkEn := on, brkpc := #v[0x100000, 0, 0x100005, 0x100001] } }
    s.power && s.running && ((s.grp? 0 0).any fun g => decide (g.stop = .running)) && (s.thread? s.input.tid).any fun th => th.isLive &&
      decide (th.wait = .running ∧ th.words.count = 0) && (s.ctx? 1024).any fun c => (c.brkEn == on) && ((c.brkpc[3]?).any fun r => r.getLsbD 0 &&
        decide (bf r 2 54 = th.pc.extractLsb' 2 54)) && [0, 1, 2].all fun m => (c.brkpc[m]?).any fun q =>
          !q.getLsbD 0 || decide (bf q 2 54 ≠ th.pc.extractLsb' 2 54)) = true := by decide +kernel

/-- Debugger: a resident thread at a word that begins a group, at one that does not, and a thread that is not resident. -/
theorem witness_Debugger_words :
    let s (w : Nat) : State := given id (warmed { bench 1 with mem := writeBytes [] 0x100000 (leBytes 4 w) })
    [(0x04A020A0, true), (0xFC000001, false)].all (fun e => (s e.1).power && (s e.1).running &&
      ((s e.1).wg? 0).any (fun w => w.res == .resident) && match ((s e.1).fetch 1024 0x100000).2 with
      | .ok ir => beginsGroup (decode ir) == e.2
      | .error _ => false) = true ∧
    (withWg (fun x => { x with res := .preempted true }) (s 0)).wg? 0 ≠ none ∧
    (((withWg (fun x => { x with res := .preempted true }) (s 0)).wg? 0).all fun w => w.res != .resident) = true := by decide +kernel

/-- Debugger: every kind of item of a thread of a halted group is named, with registers within the allotment and beyond it; and a thread
of a group that runs. -/
theorem witness_Debugger_items :
    [0, 63, 80, 81, 82, 83, 84, 85, 86, 96, 127].all (fun item => [0x200004, 0x200002].all fun v => [64, 8].all fun allot =>
      let s : State := given (fun x => { x with unit := 1024, val := BitVec.ofNat 64 v }) { withGroup (fun g => { g with holds := [.halted 2], allot := allot }) (bench 2) with
        ctxs := (bench 2).ctxs.map fun c => { c with dbgsel := BitVec.ofNat 64 (item * 256 + 2 ^ 17) } }
      s.power && s.running && decide (s.debugThread 1024 = some ⟨0, 0, 1⟩ ∧ s.debugItem 1024 = item) &&
        ((s.grp? 0 0).any fun g => g.allot == allot) && ((s.thread? ⟨0, 0, 1⟩).any fun t => t.arriving.isEmpty) && decide (bf s.input.val 0 2 = 0) == (v == 0x200004)) = true ∧
    ((bench 2).debugThread 1024).isNone = true := by decide +kernel

/-! ### The whole machine -/

/-- NothingSticks: threads that execute a word with the power on; a module without power whose turn is none or a thread's. -/
theorem witness_NothingSticks : ((bench 2).power && (bench 2).cur.isSome) = true ∧
    ∀ a ∈ [[], [Turn.advance 1], [Turn.issue ⟨0, 0, [0]⟩], [Turn.event .reset Input.none]],
      let s : State := { bench 1 with power := false, agenda := a }
      s.power = false ∧ ∀ inp rest, s.agenda ≠ .event .powerOn inp :: rest := by
  refine ⟨by decide +kernel, fun a ha => ⟨rfl, fun inp rest => ?_⟩⟩
  simp only [List.mem_cons, List.not_mem_nil, or_false] at ha
  rcases ha with rfl | rfl | rfl | rfl <;> simp

/-- MemoryStaysCanonical: reset and a module with a program have canonical memories, and each steps on. -/
theorem witness_MemoryStaysCanonical :
    [State.reset, State.reset.withFetchWord 32 0x10202011].all (fun s => Memory.wf s.mem && Memory.wf s.hostMem && match step s with
      | .next _ => true
      | _ => false) = true := by decide +kernel

end Sys2Proof.Tests
end

section
/-! PROOF. The Denusk elements of R53: values that the FP32 format holds exactly, and the conversion of a lane. -/

namespace Sys2Proof.Machine

/-! ### Exact rounding (R42, R45) -/

/-- No mode rounds up where nothing is dropped (R56). -/
@[simp] theorem Rnd.up_none (mode : Rnd) (neg odd : Bool) : mode.up neg odd .none = false := by
  cases mode <;> rfl

/-- Dropping two zero bits loses nothing. -/
theorem dropBits_two_of_mul_four (n : Nat) : dropBits (n * 4) 2 false = (n, .none) := by
  simp [dropBits]

/-- A multiple of the quantum is its own rounding, in every mode. -/
theorem roundAt_of_quantum_le (mode : Rnd) (neg : Bool) (m : Nat) {e q : Int} (h : q ≤ e) :
    roundAt mode neg m e false q = (m * 2 ^ (e - q).toNat, false) := by
  have scale : m * 2 ^ (e - q + 2).toNat = m * 2 ^ (e - q).toNat * 4 := by
    rw [show (e - q + 2).toNat = (e - q).toNat + 2 by omega, pow_add, mul_assoc]
    rfl
  simp [roundAt, h, scale, dropBits_two_of_mul_four]

/-- A number other than zero that is a multiple of its quantum, within the format's range, is written exactly, in every mode and
with no flag. -/
theorem Fmt.write_of_quantum_le (f : Fmt) (mode : Rnd) (neg : Bool) {m : Nat} {e q : Int} (hm : m ≠ 0)
    (hq : q = max (e + (Nat.log2 m : Int)) f.emin - f.frac) (h : q ≤ e)
    (hc : f.codeOf (m * 2 ^ (e - q).toNat) q ≤ f.maxCode) :
    f.write mode false (.fin neg m e) = (f.signed neg (f.codeOf (m * 2 ^ (e - q).toNat) q), 0) := by
  simp [Fmt.write, Fmt.round, hm, ← hq, roundAt_of_quantum_le mode neg m h, Nat.not_lt.mpr hc, Fmt.flushOut]

/-- A zero is written as the zero of its sign (R47). -/
theorem Fmt.write_zero (f : Fmt) (mode : Rnd) (neg : Bool) (e : Int) :
    f.write mode false (.fin neg 0 e) = (f.signed neg 0, 0) := by
  simp [Fmt.write, Fmt.round]

/-! ### The codes of FP32 -/

/-- The FP32 grid (R45): `r` times the power of two `q` with a full significand, or at the subnormal quantum. -/
structure OnFp32Grid (r : Nat) (q : Int) : Prop where
  lt : r < 2 ^ 24
  quantum : -149 ≤ q
  range : q ≤ 104
  full : q = -149 ∨ 2 ^ 23 ≤ r

/-- The code of a number of the grid: its exponent above its significand. -/
theorem fp32_codeOf (r : Nat) (q : Int) : fp32.codeOf r q = ((q + 149) * 2 ^ 23 + r).toNat := by
  simp only [Fmt.codeOf, fp32]
  congr 1
  omega

/-- Every number of the grid has a finite code. -/
theorem OnFp32Grid.codeOf_lt {r : Nat} {q : Int} (h : OnFp32Grid r q) : fp32.codeOf r q < 0x7F800000 := by
  obtain ⟨lt, quantum, range, -⟩ := h
  rw [fp32_codeOf]
  omega

/-- The sign bit of an FP32 code stands above its magnitude. -/
theorem fp32_signed (neg : Bool) (c : Nat) : fp32.signed neg c = (if neg then 2 ^ 31 else 0) + c := rfl

/-- The magnitude of a signed FP32 code. -/
theorem fp32_signed_mod {c : Nat} (neg : Bool) (h : c < 2 ^ 31) : fp32.signed neg c % 2 ^ 31 = c := by
  rw [fp32_signed]
  cases neg <;> simp <;> omega

/-- The sign of a signed FP32 code. -/
theorem fp32_signed_sign {c : Nat} (neg : Bool) (h : c < 2 ^ 31) : decide (fp32.signed neg c / 2 ^ 31 % 2 = 1) = neg := by
  rw [fp32_signed]
  cases neg <;> simp <;> omega

/-- What an FP32 code holds whose exponent field is not the greatest (R45). -/
theorem fp32_decode_finite {c : Nat} (h : c / 2 ^ 23 % 2 ^ 8 ≠ 255) : fp32.decode c =
    if c / 2 ^ 23 % 2 ^ 8 = 0 then .fin (decide (c / 2 ^ 31 % 2 = 1)) (c % 2 ^ 23) (-149)
    else .fin (decide (c / 2 ^ 31 % 2 = 1)) (2 ^ 23 + c % 2 ^ 23) ((c / 2 ^ 23 % 2 ^ 8 : Nat) - 127 - 23) := by
  simp only [Fmt.decode, fp32]
  exact if_neg h

/-- A number of the grid is read back from its code (R45). -/
theorem OnFp32Grid.decode_signed_codeOf {r : Nat} {q : Int} (h : OnFp32Grid r q) (neg : Bool) :
    fp32.decode (fp32.signed neg (fp32.codeOf r q)) = .fin neg r q := by
  have hlt := h.codeOf_lt
  have hc := fp32_codeOf r q
  have mag := fp32_signed_mod neg (hlt.trans (by decide))
  have sign := fp32_signed_sign neg (hlt.trans (by decide))
  obtain ⟨lt, quantum, range, full⟩ := h
  rw [fp32_decode_finite (by omega), sign]
  split <;> congr 1 <;> omega

/-! ### Numbers that FP32 holds -/

/-- Two ways to write a number over powers of two compare equal. -/
theorem FVal.cmp_scale (neg : Bool) (m : Nat) {e q : Int} (h : q ≤ e) :
    (FVal.fin neg (m * 2 ^ (e - q).toNat) q).cmp (.fin neg m e) = 0 := by
  simp [FVal.cmp, scaled, h]

/-- Zeros compare equal. -/
theorem FVal.cmp_zero (neg : Bool) (e q : Int) : (FVal.fin neg 0 q).cmp (.fin neg 0 e) = 0 := by
  simp [FVal.cmp, scaled]

/-- The quantum at which FP32 rounds a number. -/
def fp32Quantum (m : Nat) (e : Int) : Int := max (e + (Nat.log2 m : Int)) (-126) - 23

/-- A number of at most 24 bits, above FP32's least and below its greatest power of two, lies on the grid. -/
theorem onFp32Grid_of_lt {m : Nat} {e : Int} (hm : m ≠ 0) (lt : m < 2 ^ 24) (least : -149 ≤ e)
    (top : e + (Nat.log2 m : Int) ≤ 127) :
    fp32Quantum m e ≤ e ∧ OnFp32Grid (m * 2 ^ (e - fp32Quantum m e).toNat) (fp32Quantum m e) := by
  have low : 2 ^ Nat.log2 m ≤ m := Nat.log2_self_le hm
  have high : m < 2 ^ (Nat.log2 m + 1) := Nat.lt_log2_self
  have bits : Nat.log2 m < 24 := (Nat.log2_lt hm).mpr lt
  unfold fp32Quantum
  generalize Nat.log2 m = l at *
  generalize hq : max (e + (l : Int)) (-126) - 23 = q
  generalize hk : (e - q).toNat = k
  refine ⟨by omega, ?_, by omega, by omega, ?_⟩
  · calc m * 2 ^ k < 2 ^ (l + 1) * 2 ^ k := Nat.mul_lt_mul_of_pos_right high (by positivity)
      _ = 2 ^ (l + 1 + k) := (pow_add ..).symm
      _ ≤ 2 ^ 24 := Nat.pow_le_pow_right (by decide) (by omega)
  · by_cases sub : q = -149
    · exact .inl sub
    · refine .inr ?_
      calc 2 ^ 23 = 2 ^ (l + k) := by rw [show l + k = 23 by omega]
        _ = 2 ^ l * 2 ^ k := pow_add ..
        _ ≤ m * 2 ^ k := Nat.mul_le_mul_right _ low

/-- Such a number is written to FP32 exactly, in every mode and with no flag, as a code that is read as the same number. -/
theorem fp32_write_exact (neg : Bool) {m : Nat} {e : Int} (lt : m < 2 ^ 24) (least : -149 ≤ e)
    (top : e + (Nat.log2 m : Int) ≤ 127) :
    ∃ c, (∀ mode, fp32.write mode false (.fin neg m e) = (c, 0)) ∧ (fp32.decode c).cmp (.fin neg m e) = 0 ∧
      (fp32.decode c).isNeg = neg ∧ c % 2 ^ 31 < 0x7F800000 := by
  by_cases hm : m = 0
  · subst hm
    have zero : OnFp32Grid 0 (-149) := ⟨by decide, le_rfl, by decide, .inl rfl⟩
    have read := zero.decode_signed_codeOf neg
    refine ⟨fp32.signed neg 0, fun mode => fp32.write_zero mode neg e, ?_, ?_, ?_⟩
    · exact read ▸ FVal.cmp_zero neg e (-149)
    · exact read ▸ rfl
    · rw [fp32_signed_mod neg (by decide)]; decide
  · obtain ⟨hq, grid⟩ := onFp32Grid_of_lt hm lt least top
    have finite := grid.codeOf_lt
    have read := grid.decode_signed_codeOf neg
    refine ⟨_, fun mode => fp32.write_of_quantum_le (q := fp32Quantum m e) mode neg hm rfl hq ?_, ?_, ?_, ?_⟩
    · exact Nat.le_of_lt_succ finite
    · exact read ▸ FVal.cmp_scale neg m hq
    · exact read ▸ rfl
    · rwa [fp32_signed_mod neg (finite.trans (by decide))]

/-! ### The elements (R53) -/

/-- The exponent of an element's magnitude under a byte of the header: 255 is read as 254. -/
def denuskExponent (db4 : Bool) (x : Int) : Int := (if x = 255 then 254 else x) - 127 - (denuskWidth db4 - 1 : Nat)

/-- The exponent under a byte of the header, as the model picks it. -/
theorem denuskExponent_natCast (db4 : Bool) (x : Nat) :
    denuskExponent db4 x = (if x = 255 then 254 else (x : Int)) - 127 - (denuskWidth db4 - 1 : Nat) := by
  unfold denuskExponent
  norm_cast

/-- The least exponent: the header's byte is 0. -/
theorem denuskExponent_ge (db4 : Bool) {x : Int} (h : 0 ≤ x) : (if db4 then -128 else -132) ≤ denuskExponent db4 x := by
  cases db4 <;> simp [denuskExponent, denuskWidth] <;> omega

/-- The greatest exponent: the header's byte is 254 or 255. -/
theorem denuskExponent_le (db4 : Bool) {x : Int} (h : x < 256) : denuskExponent db4 x ≤ if db4 then 126 else 122 := by
  cases db4 <;> simp [denuskExponent, denuskWidth] <;> omega

/-- The value of an element whose selector, sign and magnitude are given. -/
theorem denuskDecode_fields (db4 : Bool) (ea eb : Nat) {sel sgn mag : Nat} (hsel : sel < 2) (hsgn : sgn < 2)
    (hmag : mag < 2 ^ denuskWidth db4) :
    denuskDecode db4 ea eb (sel * 2 ^ (denuskWidth db4 + 1) + sgn * 2 ^ denuskWidth db4 + mag) =
      .fin (sgn == 1) mag (denuskExponent db4 (if sel = 0 then ea else eb)) := by
  generalize hw : denuskWidth db4 = w at *
  have code : sel * 2 ^ (w + 1) + sgn * 2 ^ w + mag = 2 ^ w * (2 * sel + sgn) + mag := by ring
  have low : (2 ^ w * (2 * sel + sgn) + mag) % 2 ^ w = mag := by
    rw [Nat.mul_add_mod, Nat.mod_eq_of_lt hmag]
  have high : (2 ^ w * (2 * sel + sgn) + mag) / 2 ^ w = 2 * sel + sgn := by
    rw [Nat.mul_add_div (by positivity), Nat.div_eq_of_lt hmag, add_zero]
  have sign : (2 * sel + sgn) % 2 = sgn := by omega
  have selector : (2 * sel + sgn) / 2 % 2 = sel := by omega
  rw [code]
  simp only [denuskDecode, hw, low, pow_succ, ← Nat.div_div_eq_div_mul, high, sign, selector]
  rw [← Nat.cast_ite, denuskExponent_natCast, hw]
  rfl

/-- The bits of a Denusk magnitude. -/
theorem log2_lt_denuskWidth {db4 : Bool} {mag : Nat} (h : mag < 2 ^ denuskWidth db4) : Nat.log2 mag < denuskWidth db4 := by
  by_cases hm : mag = 0
  · subst hm; cases db4 <;> decide
  · exact (Nat.log2_lt hm).mpr h

/-- A magnitude under an exponent of a header is written to FP32 exactly. -/
theorem denusk_write_exact (neg db4 : Bool) {x : Int} {mag : Nat} (h0 : 0 ≤ x) (h1 : x < 256)
    (hmag : mag < 2 ^ denuskWidth db4) :
    ∃ c, (∀ mode, fp32.write mode false (.fin neg mag (denuskExponent db4 x)) = (c, 0)) ∧
      (fp32.decode c).cmp (.fin neg mag (denuskExponent db4 x)) = 0 ∧ (fp32.decode c).isNeg = neg ∧
      c % 2 ^ 31 < 0x7F800000 := by
  have ge := denuskExponent_ge db4 h0
  have le := denuskExponent_le db4 h1
  have bits := log2_lt_denuskWidth hmag
  cases db4 <;> simp only [denuskWidth, Bool.false_eq_true, if_true, if_false] at * <;>
    exact fp32_write_exact neg (by omega) (by omega) (by omega)

/-- The largest magnitude: all bits, under the greatest exponent. -/
theorem denusk_magnitude_le (db4 : Bool) {x : Int} {mag : Nat} (h1 : x < 256) (hmag : mag < 2 ^ denuskWidth db4) :
    (mag : ℚ) * 2 ^ denuskExponent db4 x ≤ if db4 then 3 * 2 ^ 126 else 63 * 2 ^ 122 := by
  have bound : ((2 : ℚ) ^ denuskExponent db4 x) ≤ 2 ^ (if db4 then (126 : Int) else 122) :=
    zpow_le_zpow_right₀ (by norm_num) (denuskExponent_le db4 h1)
  cases db4
  · have small : (mag : ℚ) ≤ 63 := by exact_mod_cast Nat.le_of_lt_succ hmag
    exact mul_le_mul small bound (by positivity) (by norm_num)
  · have small : (mag : ℚ) ≤ 3 := by exact_mod_cast Nat.le_of_lt_succ hmag
    exact mul_le_mul small bound (by positivity) (by norm_num)

/-- The least magnitude that is not zero: one under the least exponent. -/
theorem denusk_magnitude_ge (db4 : Bool) {x : Int} {mag : Nat} (h0 : 0 ≤ x) (hm : mag ≠ 0) :
    (2 : ℚ) ^ (if db4 then (-128 : Int) else -132) ≤ (mag : ℚ) * 2 ^ denuskExponent db4 x := by
  have one : (1 : ℚ) ≤ mag := by exact_mod_cast Nat.one_le_iff_ne_zero.mpr hm
  calc (2 : ℚ) ^ (if db4 then (-128 : Int) else -132) ≤ 2 ^ denuskExponent db4 x :=
        zpow_le_zpow_right₀ (by norm_num) (denuskExponent_ge db4 h0)
    _ ≤ mag * 2 ^ denuskExponent db4 x := le_mul_of_one_le_left (by positivity) one

/-! ### The conversion of a lane (R137) -/

/-- A vector instruction of one thread, where the mask is true and the operation does not trap. -/
theorem State.Alone.vector_eq {s : State} {f : Form} {w g : Nat} {v : View} (h : s.Alone f w g v) {lat : Option Nat}
    {op : Compute} {t : Thread} {r : Reg} (hm : v.t.maskTrue v.t.words = true) (ho : op v = .ok (t, r)) :
    s.vector f lat op = .next (s.setThread ⟨w, g, v.gtid⟩ (t.writeDest f.dst lat r).step) := by
  simp [State.vector, h.perLane_eq, vectorLane, hm, ho]

/-- A conversion from a Denusk type to FP32 writes the value of the element and leaves the thread's flags. -/
theorem exec_fcvt_denusk_fp32 {s : State} {w g : Nat} {v : View} {d a : BitVec 7} {p : BitVec 4} {r : BitVec 3}
    (h : s.Alone (instrForm (.fcvt d a p 8 r)) w g v) (hm : v.t.maskTrue v.t.words = true) (hp : p = 13 ∨ p = 14) :
    exec (.fcvt d a p 8 r) s = .next (s.setThread ⟨w, g, v.gtid⟩ (v.t.writeDest d none
      (BitVec.ofNat 64 (denuskLane (p == 14) (v.read a)))).step) := by
  have source : isDenuskType p = true := by simpa [isDenuskType] using hp
  have lat : convLat p 8 r = none := by simp [convLat, source]
  change execFcvt d a p 8 r s = _
  rw [execFcvt, if_neg (by decide), lat]
  exact h.vector_eq hm (by rw [if_pos source])

/-- Settles O11: an element's fields give its value, which is a short significand well within FP32's range, so that FP32's grid
holds it; a lane of the conversion writes it. -/
theorem denuskElements : Obligations.DenuskElements := by
  refine ⟨?_, by decide, ?_⟩
  · intro db4 ea eb sel sgn mag hea heb hsel hsgn w hmag x e v
    have value : v = .fin (sgn == 1) mag (denuskExponent db4 x) := denuskDecode_fields db4 ea eb hsel hsgn hmag
    have x0 : 0 ≤ x := by simp only [x]; split <;> omega
    have x1 : x < 256 := by simp only [x]; split <;> omega
    exact ⟨value, value ▸ denusk_write_exact _ db4 x0 x1 hmag, denusk_magnitude_le db4 x1 hmag,
      denusk_magnitude_ge db4 x0⟩
  · intro s w g v d a p r h _ hm hp
    simpa [denuskLane] using exec_fcvt_denusk_fp32 h hm hp

end Sys2Proof.Machine
end

section
/-! PROOF. The bit functions of R103 to R105, bit by bit: what each count is, and which bit of an operand each bit of a result is. -/

namespace Sys2Proof.Machine

open Sys2Proof

/-! ### Words built bit by bit -/

/-- A bit of a word that is built up by setting bits: one of the steps sets it. -/
theorem getLsbD_foldl {α : Type} {w j : Nat} {f : BitVec w → α → BitVec w} {p : α → Bool}
    (h : ∀ x a, (f x a).getLsbD j = (x.getLsbD j || p a)) (l : List α) (x : BitVec w) :
    (l.foldl f x).getLsbD j = (x.getLsbD j || l.any p) := by
  induction l generalizing x with
  | nil => simp
  | cons a r ih => simp [ih, h, Bool.or_assoc]

/-- A word in which one bit is set. -/
theorem getLsbD_or_one_shiftLeft {w k : Nat} (x : BitVec w) (j : Nat) (h : k < w) :
    (x ||| 1#w <<< j).getLsbD k = (x.getLsbD k || decide (j = k)) := by
  have bit : (1#w <<< j).getLsbD k = decide (j = k) := by
    rw [Bool.eq_iff_iff]
    simp
    omega
  rw [BitVec.getLsbD_or, bit]

/-- A test that singles out one number of a range. -/
theorem any_range_eq (n k : Nat) (p : Nat → Bool) :
    ((List.range n).any fun i => decide (i = k) && p i) = (decide (k < n) && p k) := by
  rw [Bool.eq_iff_iff]
  simp

/-- The bits of a word that is given by its bits. -/
theorem getLsbD_ofBits {w i : Nat} (f : Nat → Bool) (h : i < w) : (ofBits w f).getLsbD i = f i := by
  rw [ofBits, getLsbD_foldl (p := fun k => decide (k = i) && f k), any_range_eq]
  · simp [h]
  · intro x k
    by_cases hk : f k = true
    · simp only [hk, if_true, getLsbD_or_one_shiftLeft x k h, Bool.and_true]
    · simp [hk]

/-! ### Counts (R103) -/

/-- A number is the first at which a test succeeds, or the bound when there is none. -/
def FirstTrue (w : Nat) (p : Nat → Bool) (n : Nat) : Prop := n ≤ w ∧ (∀ i, i < n → p i = false) ∧ (n < w → p n = true)

/-- There is one such number. -/
theorem FirstTrue.eq_iff {w m : Nat} {p : Nat → Bool} (h : FirstTrue w p m) (n : Nat) : m = n ↔ FirstTrue w p n := by
  refine ⟨fun e => e ▸ h, fun h' => ?_⟩
  obtain ⟨le, before, hit⟩ := h
  obtain ⟨le', before', hit'⟩ := h'
  rcases Nat.lt_trichotomy m n with lt | rfl | gt
  · exact absurd (hit (by omega)) (by simp [before' m lt])
  · rfl
  · exact absurd (hit' (by omega)) (by simp [before n gt])

/-- The number of places that pass a test, as a sum. -/
theorem length_filter_eq_sum (p : Nat → Bool) (l : List Nat) : (l.filter p).length = (l.map fun i => (p i).toNat).sum := by
  induction l with
  | nil => rfl
  | cons i r ih =>
    rw [List.filter_cons, List.map_cons, List.sum_cons, ← ih]
    cases p i <;> simp [Nat.add_comm]

theorem trailZeros_firstTrue {w : Nat} (x : BitVec w) : FirstTrue w x.getLsbD (trailZeros x) := by
  unfold trailZeros
  cases e : (List.range w).find? fun i => x.getLsbD i with
  | none =>
    rw [List.find?_range_eq_none] at e
    exact ⟨le_rfl, by simpa using e, fun h => absurd h (lt_irrefl w)⟩
  | some i =>
    obtain ⟨hit, lt, before⟩ := List.find?_range_eq_some.mp e
    exact ⟨(List.mem_range.mp lt).le, by simpa using before, fun _ => hit⟩

/-- Above the highest set bit all are zero, and it is set. -/
theorem leadZeros_firstTrue {w : Nat} (x : BitVec w) : FirstTrue w (fun i => x.getLsbD (w - 1 - i)) (leadZeros x) := by
  unfold leadZeros
  split
  · next zero => exact ⟨le_rfl, by simp [zero], fun h => absurd h (lt_irrefl w)⟩
  · next h =>
    have nonzero : x.toNat ≠ 0 := fun e => h (BitVec.eq_of_toNat_eq (by simpa using e))
    have high : Nat.log2 x.toNat < w := (Nat.log2_lt nonzero).mpr x.isLt
    refine ⟨by omega, fun i hi => Nat.testBit_lt_two_pow ?_, fun _ => ?_⟩
    · exact (Nat.log2_lt nonzero).mp (by omega)
    · change x.toNat.testBit (w - 1 - (w - 1 - Nat.log2 x.toNat)) = true
      rw [Nat.sub_sub_self (by omega)]
      exact Nat.testBit_log2 nonzero

theorem trailZeros_eq_iff {w : Nat} (x : BitVec w) (n : Nat) :
    trailZeros x = n ↔ n ≤ w ∧ (∀ i, i < n → x.getLsbD i = false) ∧ (n < w → x.getLsbD n = true) :=
  (trailZeros_firstTrue x).eq_iff n

theorem leadZeros_eq_iff {w : Nat} (x : BitVec w) (n : Nat) : leadZeros x = n ↔
    n ≤ w ∧ (∀ i, w - n ≤ i → i < w → x.getLsbD i = false) ∧ (n < w → x.getLsbD (w - 1 - n) = true) := by
  rw [(leadZeros_firstTrue x).eq_iff n, FirstTrue]
  refine and_congr_right fun le => and_congr_left fun _ => ⟨fun h i ge lt => ?_, fun h i lt => h _ (by omega) (by omega)⟩
  have mirrored := h (w - 1 - i) (by omega)
  rwa [show w - 1 - (w - 1 - i) = i by omega] at mirrored

/-! ### Fields (R104) -/

theorem fieldPos_lt (c : Reg) : fieldPos c < 64 := (bf c 0 6).isLt

/-- A field ends within the register. -/
theorem fieldPos_add_fieldLen_le (c : Reg) : fieldPos c + fieldLen c ≤ 64 := by
  have := fieldPos_lt c
  unfold fieldLen
  omega

@[simp] theorem getLsbD_lowMask (m i : Nat) : (lowMask m).getLsbD i = (decide (i < 64) && decide (i < m)) := by
  rw [lowMask, BitVec.getLsbD_ofNat, Nat.testBit_two_pow_sub_one]

theorem getLsbD_extractField (a c : Reg) (i : Nat) :
    (extractField a c).getLsbD i = (decide (i < fieldLen c) && a.getLsbD (fieldPos c + i)) := by
  have := fieldPos_add_fieldLen_le c
  have within : i < fieldLen c → i < 64 := by omega
  rw [Bool.eq_iff_iff]
  simp [extractField]
  tauto

/-- The bits from the field's last on are copies of it. -/
theorem getLsbD_extractSigned (a c : Reg) {i : Nat} (h : i < 64) : (extractSigned a c).getLsbD i =
    (decide (fieldLen c ≠ 0) && a.getLsbD (fieldPos c + min i (fieldLen c - 1))) := by
  have last : fieldLen c ≠ 0 → (extractField a c).getLsbD (fieldLen c - 1) = a.getLsbD (fieldPos c + (fieldLen c - 1)) := by
    intro nonempty
    simp [getLsbD_extractField]
    omega
  have extended : (extractSigned a c).getLsbD i = ((extractField a c).getLsbD i ||
      (decide (fieldLen c ≠ 0) && (extractField a c).getLsbD (fieldLen c - 1) && !decide (i < fieldLen c))) := by
    simp only [extractSigned, Bool.and_eq_true, decide_eq_true_eq]
    split
    · next copies =>
      simp only [BitVec.getLsbD_or, BitVec.getLsbD_not, getLsbD_lowMask, h, copies, decide_true, Bool.true_and, ne_eq,
        not_false_eq_true]
    · next stays =>
      rw [not_and, Bool.not_eq_true] at stays
      by_cases empty : fieldLen c = 0
      · simp [empty]
      · simp [stays empty]
  rw [extended, getLsbD_extractField]
  by_cases empty : fieldLen c = 0
  · simp [empty]
  rw [last empty]
  by_cases inside : i < fieldLen c
  · simp [inside, empty, show min i (fieldLen c - 1) = i by omega]
  · simp [inside, empty, show min i (fieldLen c - 1) = fieldLen c - 1 by omega]

theorem getLsbD_insertField (a b c : Reg) {i : Nat} (h : i < 64) : (insertField a b c).getLsbD i =
    if fieldPos c ≤ i ∧ i < fieldPos c + fieldLen c then a.getLsbD (i - fieldPos c) else b.getLsbD i := by
  have mask : (lowMask (fieldLen c) <<< fieldPos c).getLsbD i =
      decide (fieldPos c ≤ i ∧ i < fieldPos c + fieldLen c) := by
    rw [Bool.eq_iff_iff]
    simp
    omega
  simp only [insertField, BitVec.getLsbD_or, BitVec.getLsbD_and, BitVec.getLsbD_not, mask, BitVec.getLsbD_shiftLeft]
  split
  · next inside => simp [inside, h]
  · next outside => simp [outside, h]

/-! ### Bytes (R103) -/

/-- A bit of a byte that is moved to a byte's place. -/
theorem getLsbD_byte_shiftLeft (y : Byte) (k : Nat) {j i : Nat} (hj : j < 8) (hi : i < 8) :
    (y.setWidth 64 <<< (8 * k)).getLsbD (8 * j + i) = (decide (k = j) && y.getLsbD i) := by
  simp only [BitVec.getLsbD_shiftLeft, BitVec.getLsbD_setWidth]
  rcases Nat.lt_trichotomy k j with lt | rfl | gt
  · simp [show k ≠ j by omega, BitVec.getLsbD_of_ge y (8 * j + i - 8 * k) (by omega)]
  · simp [show 8 * k + i < 64 by omega, show i < 64 by omega]
  · simp [show k ≠ j by omega, show 8 * j + i < 8 * k by omega]

theorem byteOf_permuteBytes (a b : Reg) {j : Nat} (h : j < 8) : byteOf (permuteBytes a b) j =
    if (bf b (4 * j) 4).toNat < 8 then byteOf a (bf b (4 * j) 4).toNat else 0 := by
  let picked (k : Nat) : Byte := if (bf b (4 * k) 4).toNat < 8 then byteOf a (bf b (4 * k) 4).toNat else 0
  refine BitVec.eq_of_getLsbD_eq fun i hi => ?_
  have placed : (permuteBytes a b).getLsbD (8 * j + i) = (picked j).getLsbD i := by
    rw [permuteBytes, getLsbD_foldl (p := fun k => decide (k = j) && (picked k).getLsbD i), any_range_eq]
    · simp [h]
    · intro x k
      rw [BitVec.getLsbD_or, ← getLsbD_byte_shiftLeft (picked k) k h hi]
      simp only [picked, apply_ite (BitVec.setWidth 64)]
      rfl
  rw [byteOf, BitVec.getLsbD_extractLsb', placed]
  simp [hi, picked]

/-! ### Strides (R105) -/

/-- The stride of a control word. -/
def strideOf (b : Reg) : Nat := (bf b 0 4).toNat

/-- The offset of a control word. -/
def offsetOf (b : Reg) : Nat := (bf b 8 3).toNat

theorem stridePos_eq_some (b : Reg) (i j : Nat) :
    stridePos b i = some j ↔ 1 ≤ strideOf b ∧ strideOf b ≤ 8 ∧ strideOf b * i + offsetOf b = j ∧ j ≤ 63 := by
  change (if strideOf b = 0 ∨ strideOf b > 8 then none
    else if strideOf b * i + offsetOf b ≤ 63 then some (strideOf b * i + offsetOf b) else none) = some j ↔ _
  split
  · simp; omega
  · split <;> simp <;> omega

/-- A bit of a spread word is the bit of A whose position it is. -/
theorem getLsbD_interleave (a b : Reg) {j : Nat} (h : j < 64) : (interleave a b).getLsbD j =
    ((List.range 64).any fun i => decide (stridePos b i = some j) && a.getLsbD i) := by
  rw [interleave, getLsbD_foldl (p := fun i => decide (stridePos b i = some j) && a.getLsbD i)]
  · simp
  · intro x i
    cases hp : stridePos b i with
    | none => simp
    | some k =>
      by_cases ha : a.getLsbD i = true
      · simp only [ha, if_true, Option.some.injEq, Bool.and_true]
        exact getLsbD_or_one_shiftLeft x k h
      · simp [ha]

/-- A bit of a gathered word is the bit of A at its position, if it has one. -/
theorem getLsbD_deinterleave (a b : Reg) {i : Nat} (h : i < 64) :
    (deinterleave a b).getLsbD i = (stridePos b i).any a.getLsbD := by
  rw [deinterleave, getLsbD_foldl (p := fun k => decide (k = i) && (stridePos b k).any a.getLsbD), any_range_eq]
  · simp [h]
  · intro x k
    cases hp : stridePos b k with
    | none => simp
    | some j =>
      by_cases ha : a.getLsbD j = true
      · simp only [ha, if_true, Option.any_some, Bool.and_true]
        exact getLsbD_or_one_shiftLeft x k h
      · simp [ha]

/-- A control word whose stride is out of bounds gives no bit a position. -/
theorem stridePos_eq_none {b : Reg} (h : strideOf b = 0 ∨ 8 < strideOf b) (i : Nat) : stridePos b i = none :=
  if_pos h

/-- A position within the register is that of a bit within the register. -/
theorem lt_of_position_le {b : Reg} {i : Nat} (h1 : 1 ≤ strideOf b) (h : strideOf b * i + offsetOf b ≤ 63) : i < 64 := by
  have := Nat.le_mul_of_pos_left i h1
  omega

section Stride

variable {b : Reg} (h1 : 1 ≤ strideOf b) (h8 : strideOf b ≤ 8)
include h1 h8

theorem getLsbD_interleave_eq_true (a : Reg) {j : Nat} (h : j < 64) :
    (interleave a b).getLsbD j = true ↔ ∃ i, strideOf b * i + offsetOf b = j ∧ a.getLsbD i = true := by
  rw [getLsbD_interleave a b h]
  simp only [List.any_eq_true, List.mem_range, Bool.and_eq_true, decide_eq_true_eq, stridePos_eq_some]
  constructor
  · rintro ⟨i, -, ⟨-, -, e, -⟩, ha⟩
    exact ⟨i, e, ha⟩
  · rintro ⟨i, e, ha⟩
    exact ⟨i, BitVec.lt_of_getLsbD ha, ⟨h1, h8, e, by omega⟩, ha⟩

/-- `bilv` puts bit i at its position. -/
theorem getLsbD_interleave_position (a : Reg) {i : Nat} (h : strideOf b * i + offsetOf b ≤ 63) :
    (interleave a b).getLsbD (strideOf b * i + offsetOf b) = a.getLsbD i := by
  rw [Bool.eq_iff_iff, getLsbD_interleave_eq_true h1 h8 a (by omega)]
  constructor
  · rintro ⟨k, e, hk⟩
    obtain rfl : k = i := Nat.eq_of_mul_eq_mul_left h1 (by omega)
    exact hk
  · exact fun hi => ⟨i, rfl, hi⟩

/-- `bilv` clears a bit that is no position. -/
theorem getLsbD_interleave_elsewhere (a : Reg) {j : Nat} (h : ∀ i, j ≠ strideOf b * i + offsetOf b) :
    (interleave a b).getLsbD j = false := by
  by_cases hj : j < 64
  · rw [← Bool.not_eq_true, getLsbD_interleave_eq_true h1 h8 a hj]
    rintro ⟨i, e, -⟩
    exact h i e.symm
  · exact BitVec.getLsbD_of_ge _ _ (by omega)

/-- A bit of what `bilv` writes, found from its own place. -/
theorem getLsbD_interleave_div (a : Reg) {j : Nat} (h : j < 64) : (interleave a b).getLsbD j =
    (decide (offsetOf b ≤ j ∧ (j - offsetOf b) % strideOf b = 0) && a.getLsbD ((j - offsetOf b) / strideOf b)) := by
  by_cases hit : offsetOf b ≤ j ∧ (j - offsetOf b) % strideOf b = 0
  · obtain ⟨le, divides⟩ := hit
    have place : strideOf b * ((j - offsetOf b) / strideOf b) + offsetOf b = j := by
      rw [Nat.mul_div_cancel' (Nat.dvd_of_mod_eq_zero divides), Nat.sub_add_cancel le]
    have moved := getLsbD_interleave_position h1 h8 a (i := (j - offsetOf b) / strideOf b) (by omega)
    rw [place] at moved
    simp [moved, le, divides]
  · rw [decide_eq_false hit, Bool.false_and]
    refine getLsbD_interleave_elsewhere h1 h8 a fun i e => hit ⟨by omega, ?_⟩
    rw [e, Nat.add_sub_cancel, Nat.mul_mod_right]

/-- `bdilv` brings back the bit at a position; a position beyond the register gives zero. -/
theorem getLsbD_deinterleave_position (a : Reg) {i : Nat} (h : i < 64) :
    (deinterleave a b).getLsbD i = a.getLsbD (strideOf b * i + offsetOf b) := by
  rw [getLsbD_deinterleave a b h]
  by_cases inside : strideOf b * i + offsetOf b ≤ 63
  · rw [(stridePos_eq_some b i _).mpr ⟨h1, h8, rfl, inside⟩, Option.any_some]
  · cases e : stridePos b i with
    | none => exact (BitVec.getLsbD_of_ge _ _ (by omega)).symm
    | some j =>
      obtain ⟨-, -, place, le⟩ := (stridePos_eq_some b i j).mp e
      omega

/-- `bdilv` undoes `bilv` on the bits that are kept. -/
theorem getLsbD_deinterleave_interleave (a : Reg) {i : Nat} (h : strideOf b * i + offsetOf b ≤ 63) :
    (deinterleave (interleave a b) b).getLsbD i = a.getLsbD i := by
  rw [getLsbD_deinterleave_position h1 h8 _ (lt_of_position_le h1 h), getLsbD_interleave_position h1 h8 a h]

end Stride

/-- An illegal stride spreads nothing. -/
theorem getLsbD_interleave_illegal (a : Reg) {b : Reg} (h : strideOf b = 0 ∨ 8 < strideOf b) {j : Nat} (hj : j < 64) :
    (interleave a b).getLsbD j = false := by
  simp [getLsbD_interleave a b hj, stridePos_eq_none h]

/-- An illegal stride gathers nothing. -/
theorem getLsbD_deinterleave_illegal (a : Reg) {b : Reg} (h : strideOf b = 0 ∨ 8 < strideOf b) {i : Nat} (hi : i < 64) :
    (deinterleave a b).getLsbD i = false := by
  rw [getLsbD_deinterleave a b hi, stridePos_eq_none h, Option.any_none]

end Sys2Proof.Machine
end

section
/-! PROOF. The ways of running an integer instruction: a group that completes or traps together, and lanes of which some trap. -/

namespace Sys2Proof.Machine

open Sys2Proof

variable {s : State}

/-! ### Integer operations (R28, R116) -/

@[simp] theorem Thread.raise_zero (t : Thread) : t.raise 0 = t := by
  simp [Thread.raise]

/-- One thread that acts together with no other. -/
theorem State.Alone.lanes_eq {f : Form} {w g : Nat} {v : View} (h : s.Alone f w g v) (th : View → Thread) :
    s.lanes w g [v.gtid] th = s.setThread ⟨w, g, v.gtid⟩ (th v) := by
  simp only [State.lanes, List.foldl_cons, List.foldl_nil, h.view]

/-- A group keeps its scalars while its threads arrive. -/
theorem State.grp?_gathered {w g : Nat} {gr : Group} (h : s.grp? w g = some gr) :
    ∃ ts, (s.gathered w g gr).grp? w g = some { gr with threads := ts } :=
  ⟨_, grp?_arriveUniform w g gr.liveGtids h⟩

/-- An integer instruction that completes for its group. -/
theorem State.Together.intOp_eq {f : Form} {w g : Nat} {gr : Group} {pc : BitVec 56} {ws : Words}
    (h : s.Together f w g gr pc ws) (hf : f.scalar = true) {lat : Option Nat} {a b : BitVec 7}
    {op : Operands → Except Trap (Reg × FlagSet)} {r : Reg} {fl : FlagSet} (ho : op (gr.operands a b ws) = .ok (r, fl)) :
    s.intOp f a b lat op = .next (s.uniformResult w g gr f.dst r fl) := by
  obtain ⟨ts, arrived⟩ := State.grp?_gathered h.grp
  have same : ({ gr with threads := ts } : Group).operands a b ws = gr.operands a b ws := rfl
  rw [State.intOp, if_pos hf, h.uniform_eq]
  simp only [arrived, same, ho, State.uniformResult]

/-- An integer instruction that traps for its group. -/
theorem State.Together.intOp_trap_eq {f : Form} {w g : Nat} {gr : Group} {pc : BitVec 56} {ws : Words}
    (h : s.Together f w g gr pc ws) (hf : f.scalar = true) {lat : Option Nat} {a b : BitVec 7}
    {op : Operands → Except Trap (Reg × FlagSet)} {x : Trap} (ho : op (gr.operands a b ws) = .error x) :
    s.intOp f a b lat op = .next ((s.gathered w g gr).takeFault ((s.gathered w g gr).groupDelivery w g x)) := by
  obtain ⟨ts, arrived⟩ := State.grp?_gathered h.grp
  have same : ({ gr with threads := ts } : Group).operands a b ws = gr.operands a b ws := rfl
  rw [State.intOp, if_pos hf, h.uniform_eq]
  simp only [arrived, same, ho]

/-! ### Lanes of which some trap (R141, R330) -/

/-- The trap of a lane, from its view before the instruction. -/
def State.laneTrap (s : State) (w g : Nat) (traps : View → Option Trap) (t : Nat) : Option Trap :=
  (s.view? w g t).bind traps

/-- The lanes of an issue that trap, each with its trap. -/
def State.laneHits (s : State) (w g : Nat) (ts : List Nat) (traps : View → Option Trap) : List (Nat × Trap) :=
  ts.filterMap fun t => (s.laneTrap w g traps t).map (t, ·)

/-- What a lane comes to: its trap, or its thread after the instruction. -/
def laneResult (traps : View → Option Trap) (th : View → Thread) (v : View) : Except Trap Thread :=
  match traps v with
  | some x => .error x
  | none => .ok (th v)

theorem laneResult_of_some {traps : View → Option Trap} {th : View → Thread} {v : View} {x : Trap} (h : traps v = some x) :
    laneResult traps th v = .error x := by
  simp only [laneResult, h]

theorem laneResult_of_none {traps : View → Option Trap} {th : View → Thread} {v : View} (h : traps v = none) :
    laneResult traps th v = .ok (th v) := by
  simp only [laneResult, h]

/-- Sets the thread of one lane to what a function makes of its view before the instruction. -/
def State.setLane (s : State) (w g : Nat) (th : View → Thread) (x : State) (t : Nat) : State :=
  ((s.view? w g t).map fun v => x.setThread ⟨w, g, t⟩ (th v)).getD x

/-- Lanes that act together are set one after another. -/
theorem State.lanes_eq_foldl (w g : Nat) (ts : List Nat) (th : View → Thread) :
    s.lanes w g ts th = ts.foldl (s.setLane w g th) s := by
  unfold State.lanes
  congr 1
  funext x t
  unfold State.setLane
  cases s.view? w g t <;> rfl

/-- Lanes that each act on their own thread alone, and of which some trap: those act together that do not, and the traps are
collected. -/
theorem foldl_lane_traps {f : Form} {body : Lane} {w g : Nat} {th : View → Thread} {traps : View → Option Trap}
    (hb : ∀ y v v', View.Same v v' → body y v' = (y, laneResult traps th v))
    (ts : List Nat) (hn : ts.Nodup) (x : State) (hits : List (Nat × Trap))
    (hv : ∀ t ∈ ts, ∃ v v', s.view? w g t = some v ∧ x.view? w g t = some v' ∧ View.Same v v' ∧ f.check v = .ok ()) :
    ts.foldl (State.lane f body w g) (x, hits) =
      ((ts.filter fun t => (s.laneTrap w g traps t).isNone).foldl (s.setLane w g th) x, hits ++ s.laneHits w g ts traps) := by
  induction ts generalizing x hits with
  | nil => simp [State.laneHits]
  | cons t r ih =>
    obtain ⟨fresh, hn⟩ := List.nodup_cons.mp hn
    obtain ⟨v, v', before, now, same, passes⟩ := hv t (List.mem_cons_self ..)
    rw [List.foldl_cons]
    cases trapped : traps v with
    | some e =>
      have step : State.lane f body w g (x, hits) t = (x, hits ++ [(t, e)]) := by
        simp only [State.lane, now, same.check, passes, hb x v v' same, laneResult_of_some trapped]
      rw [step, ih hn x _ fun u hu => hv u (List.mem_cons_of_mem _ hu)]
      simp [State.laneHits, State.laneTrap, before, trapped]
    | none =>
      have step : State.lane f body w g (x, hits) t = (x.setThread ⟨w, g, t⟩ (th v), hits) := by
        simp only [State.lane, now, same.check, passes, hb x v v' same, laneResult_of_none trapped]
      rw [step, ih hn]
      · simp [State.laneHits, State.laneTrap, State.setLane, before, trapped]
      · intro u hu
        obtain ⟨a, a', ba, na, sa, ca⟩ := hv u (List.mem_cons_of_mem _ hu)
        obtain ⟨a'', na', sa'⟩ := State.view?_setThread_ne (x := th v) (ne_of_mem_of_not_mem hu fresh) na
        exact ⟨a, a'', ba, na', sa.trans sa', ca⟩

/-- A word that each thread executes for itself, when some threads trap: they are one delivery. -/
theorem State.Executes.perLane_traps_eq {f : Form} {w g : Nat} {ts : List Nat} (h : s.Executes f w g ts) {body : Lane}
    {th : View → Thread} {traps : View → Option Trap}
    (hb : ∀ y v v', View.Same v v' → body y v' = (y, laneResult traps th v)) :
    s.perLane f body = .next ((s.lanes w g (ts.filter fun t => (s.laneTrap w g traps t).isNone) th).takeHits w g
      (s.laneHits w g ts traps)) := by
  have e := foldl_lane_traps (s := s) (f := f) hb ts h.nodup s [] fun t ht => by
    obtain ⟨v, k, c⟩ := h.checks t ht
    exact ⟨v, v, k, k, View.Same.refl v, c⟩
  simp only [State.perLane, h.cur, e, List.nil_append, State.lanes_eq_foldl]

/-- The lanes' faults as a delivery (R330). -/
theorem State.takeHits_laneHits (x : State) (w g : Nat) (ts : List Nat) (traps : View → Option Trap) :
    x.takeHits w g (s.laneHits w g ts traps) =
      let hits := ts.filterMap fun t => (s.laneTrap w g traps t).map fun e => ((⟨w, g, t⟩ : ThreadId), e)
      if hits = [] then x else x.takeFault { hits := hits } := by
  have named : (s.laneHits w g ts traps).map (fun h => ((⟨w, g, h.1⟩ : ThreadId), h.2)) =
      ts.filterMap fun t => (s.laneTrap w g traps t).map fun e => ((⟨w, g, t⟩ : ThreadId), e) := by
    simp [State.laneHits, List.map_filterMap, Function.comp_def]
  simp only [← named, List.map_eq_nil_iff, State.takeHits, Delivery.ofGroup, List.isEmpty_iff]

end Sys2Proof.Machine
end

section
/-! PROOF. The instructions of major 0x03 (R103 to R106): the address sum, what each of the others computes, and the bit fields of a
lane. -/

namespace Sys2Proof.Machine

open Sys2Proof Sys2Proof.Rules

variable {s : State}

/-! ### The address sum (R106) -/

/-- The byte above a 56-bit address holds something. -/
theorem top_byte_ne_zero_iff (x : Reg) : bf x 56 8 ≠ 0 ↔ 2 ^ 56 ≤ x.toNat := by
  have top : (bf x 56 8).toNat = x.toNat / 2 ^ 56 := by
    have := x.isLt
    rw [BitVec.extractLsb'_toNat, Nat.shiftRight_eq_div_pow]
    omega
  rw [Ne, ← BitVec.toNat_inj, top]
  simp

/-- The operation of `addr`. -/
def addressSum (o : Operands) : Except Trap (Reg × FlagSet) :=
  if 2 ^ 56 ≤ (o.a + o.b).toNat then .error { cause := .nonCanonical, addr := o.a + o.b } else .ok (o.a + o.b, 0)

theorem exec_addr (d a b : BitVec 7) (s : State) :
    exec (.addr d a b) s = s.intOp (aluForm d [a, b]) a b (some 4) addressSum := by
  change s.intOp (aluForm d [a, b]) a b (some 4)
    (fun o => if bf (o.a + o.b) 56 8 ≠ 0 then .error (trap .nonCanonical (o.a + o.b)) else .ok (o.a + o.b, 0)) = _
  simp only [top_byte_ne_zero_iff]
  rfl

theorem addressSum_of_lt {o : Operands} (h : (o.a + o.b).toNat < 2 ^ 56) : addressSum o = .ok (o.a + o.b, 0) :=
  if_neg (Nat.not_le.mpr h)

theorem addressSum_of_le {o : Operands} (h : 2 ^ 56 ≤ (o.a + o.b).toNat) :
    addressSum o = .error { cause := .nonCanonical, addr := o.a + o.b } :=
  if_pos h

/-- Whether a lane of `addr` traps, and with what. -/
def sumTrap (a b : BitVec 7) (v : View) : Option Trap :=
  if v.t.maskTrue v.t.words = true ∧ 2 ^ 56 ≤ (v.read a + v.read b).toNat then
    some { cause := .nonCanonical, addr := v.read a + v.read b }
  else none

/-- `addr` in lanes: those whose sum is not canonical are one delivery, and the others write theirs. -/
theorem exec_addr_vector {w g : Nat} {ts : List Nat} {d a b : BitVec 7} (h : s.Executes (aluForm d [a, b]) w g ts)
    (hd : isScalarDst d = false) :
    exec (.addr d a b) s =
      .next ((s.lanes w g (ts.filter fun t => (s.laneTrap w g (sumTrap a b) t).isNone)
        (View.vectorResult d (some 4) (fun v => v.t) fun v => v.read a + v.read b)).takeHits w g
          (s.laneHits w g ts (sumTrap a b))) := by
  have vec : (aluForm d [a, b]).scalar = false := by simp [Form.scalar, aluForm, hd]
  rw [exec_addr, State.intOp, vec]
  refine h.perLane_traps_eq fun y v v' same => ?_
  simp only [vectorLane, same.thread, same.operands, same.inactiveDest]
  by_cases active : v.t.maskTrue v.t.words = true
  · by_cases far : 2 ^ 56 ≤ (v.read a + v.read b).toNat
    · rw [addressSum_of_le (o := v.operands a b) far, laneResult_of_some (if_pos ⟨active, far⟩), if_pos active]
      rfl
    · have near : addressSum (v.operands a b) = .ok (v.read a + v.read b, 0) := addressSum_of_lt (Nat.not_le.mp far)
      rw [near, laneResult_of_none (if_neg fun h => far h.2), if_pos active, View.vectorResult, if_pos active]
      simp only [Thread.raise_zero, aluForm]
  · rw [laneResult_of_none (if_neg fun h => active h.1), if_neg active, View.vectorResult, if_neg active]
    rfl

/-! ### The other instructions of major 0x03 (R103 to R105) -/

/-- A function of two operands of the full width. -/
theorem binop_64 (f : Reg → Reg → Reg) : binop 64 f = fun o => .ok (f o.a o.b, 0) := by
  funext o
  simp [binop]

/-- The low bits of A, zero-extended. -/
theorem unop_zext (n : Nat) :
    unop (fun x => (x.setWidth n).setWidth 64) = fun o => .ok (BitVec.ofNat 64 (o.a.toNat % 2 ^ n), 0) := by
  funext o
  rw [unop]
  congr 2
  apply BitVec.eq_of_toNat_eq
  simp

theorem triop_funnel32 : (triop fun x y c => (funnel 32 (x.setWidth 32) (y.setWidth 32) (c.setWidth 32).toNat).setWidth 64) =
    fun o => .ok (BitVec.ofNat 64
      ((o.a.toNat % 2 ^ 32 * 2 ^ 32 + o.b.toNat % 2 ^ 32) * 2 ^ (o.c.toNat % 32) / 2 ^ 32 % 2 ^ 32), 0) := by
  funext o
  rw [triop, funnel]
  congr 2
  apply BitVec.eq_of_toNat_eq
  simp

theorem triop_dotBytes_signed : (triop fun x y c => (dotBytes true x y c).setWidth 64) =
    fun o => .ok ((BitVec.ofInt 32 (o.c.toNat % 2 ^ 32 +
      ((List.range 4).map fun j => (bf o.a (8 * j) 8).toInt * (bf o.b (8 * j) 8).toInt).sum)).setWidth 64, 0) := by
  funext o
  simp [triop, dotBytes, byteOf]

theorem triop_dotBytes_natural : (triop fun x y c => (dotBytes false x y c).setWidth 64) =
    fun o => .ok ((BitVec.ofNat 32 (o.c.toNat % 2 ^ 32 +
      ((List.range 4).map fun j => (bf o.a (8 * j) 8).toNat * (bf o.b (8 * j) 8).toNat).sum)).setWidth 64, 0) := by
  funext o
  have cast : (((List.range 4).map fun j => ((bf o.a (8 * j) 8).toNat : Int) * (bf o.b (8 * j) 8).toNat).sum) =
      ((((List.range 4).map fun j => (bf o.a (8 * j) 8).toNat * (bf o.b (8 * j) 8).toNat).sum : Nat) : Int) := by
    rw [Nat.cast_list_sum, List.map_map]
    simp [Function.comp_def]
  simp only [triop, dotBytes, byteOf, Bool.false_eq_true, if_false, cast, BitVec.toNat_setWidth]
  rw [← Nat.cast_add, BitVec.ofInt_natCast]

theorem triop_funnel64 : (triop fun x y c => funnel 64 x y c.toNat) =
    fun o => .ok (BitVec.ofNat 64 ((o.a.toNat * 2 ^ 64 + o.b.toNat) * 2 ^ (o.c.toNat % 64) / 2 ^ 64), 0) := rfl

/-- The forms of the major name their destination, which may be an s-register. -/
theorem bits_form (d a b : BitVec 7) :
    ∀ r ∈ bits d a b, (instrForm r.instr).dst = r.dst ∧ (instrForm r.instr).rule = .uniform := by
  simp only [bits, List.cons_append, List.nil_append, List.forall_mem_cons, List.not_mem_nil,
    false_imp_iff, implies_true, and_true]
  and_intros
  all_goals rfl

/-- Each computes its value of its operands; none traps, and none raises a flag. -/
theorem bits_exec (d a b : BitVec 7) : ∀ r ∈ bits d a b, ∀ s,
    exec r.instr s = s.intOp (instrForm r.instr) r.a r.b r.lat fun o => .ok (r.value o, 0) := by
  simp only [bits, List.cons_append, List.nil_append, List.forall_mem_cons, List.not_mem_nil,
    false_imp_iff, implies_true, and_true]
  refine ⟨fun _ => rfl, fun _ => rfl, fun _ => rfl, fun _ => rfl, fun _ => rfl, fun _ => rfl, fun _ => rfl, fun _ => rfl,
    ?extractSigned, ?extract, fun _ => rfl, ?spread, ?gather, ?permute, ?funnel32, ?funnel64, fun _ => rfl, fun _ => rfl,
    fun _ => rfl, ?low8, ?low16, ?low32, fun _ => rfl, ?dotSigned, ?dotNatural⟩
  case extractSigned => intro s; rw [← binop_64 extractSigned]; rfl
  case extract => intro s; rw [← binop_64 extractField]; rfl
  case spread => intro s; rw [← binop_64 interleave]; rfl
  case gather => intro s; rw [← binop_64 deinterleave]; rfl
  case permute => intro s; rw [← binop_64 permuteBytes]; rfl
  case funnel32 => intro s; rw [← triop_funnel32]; rfl
  case funnel64 => intro s; rw [← triop_funnel64]; rfl
  case low8 => intro s; rw [← unop_zext 8]; rfl
  case low16 => intro s; rw [← unop_zext 16]; rfl
  case low32 => intro s; rw [← unop_zext 32]; rfl
  case dotSigned => intro s; rw [← triop_dotBytes_signed]; rfl
  case dotNatural => intro s; rw [← triop_dotBytes_natural]; rfl

section Bits

variable {d a b : BitVec 7} {r : IntRule} (hr : r ∈ bits d a b)
include hr

/-- Such an instruction runs once for its group exactly where its destination is an s-register (R116). -/
theorem scalar_of_mem_bits : (instrForm r.instr).scalar = isScalarDst r.dst := by
  obtain ⟨dst, uniform⟩ := bits_form d a b r hr
  simp [Form.scalar, dst, uniform]

/-- In lanes it completes. -/
theorem exec_bits_vector {w g : Nat} {ts : List Nat} (h : s.Executes (instrForm r.instr) w g ts)
    (hd : isScalarDst r.dst = false) : exec r.instr s = .next (s.lanes w g ts (View.vectorResult r.dst r.lat
      (fun v => v.t) fun v => r.value (v.operands r.a r.b))) := by
  obtain ⟨dst, -⟩ := bits_form d a b r hr
  rw [bits_exec d a b r hr, h.intOp_eq (fl := fun _ => 0) ((scalar_of_mem_bits hr).trans hd) fun _ => rfl, dst]
  simp only [Thread.raise_zero]

/-- Once for its group it completes. -/
theorem exec_bits_group {w g : Nat} {gr : Group} {pc : BitVec 56} {ws : Words}
    (h : s.Together (instrForm r.instr) w g gr pc ws) (hd : isScalarDst r.dst = true) :
    exec r.instr s = .next (s.uniformResult w g gr r.dst (r.value (gr.operands r.a r.b ws)) 0) := by
  obtain ⟨dst, -⟩ := bits_form d a b r hr
  rw [bits_exec d a b r hr, h.intOp_eq ((scalar_of_mem_bits hr).trans hd) rfl, dst]

/-- In one active lane it writes its value. -/
theorem exec_bits_alone {w g : Nat} {v : View} (h : s.Alone (instrForm r.instr) w g v) (hd : isScalarDst r.dst = false)
    (hm : v.t.maskTrue v.t.words = true) : exec r.instr s = .next (s.setThread ⟨w, g, v.gtid⟩
      (v.t.writeDest r.dst r.lat (r.value (v.operands r.a r.b))).step) := by
  rw [exec_bits_vector hr h.executes hd, h.lanes_eq, View.vectorResult, if_pos hm]

end Bits

/-! ### Bit fields and strides in a lane (R104, R105) -/

section Lane

variable {w g : Nat} {v : View} {d a b : BitVec 7} (hd : isScalarDst d = false) (hm : v.t.maskTrue v.t.words = true)
include hd hm

theorem exec_bfxI64_alone (h : s.Alone (instrForm (.bfxI64 d a b)) w g v) : exec (.bfxI64 d a b) s =
    .next (s.setThread ⟨w, g, v.gtid⟩ (v.t.writeDest d (some 6) (extractSigned (v.read a) (v.read b))).step) := by
  have rule : (⟨.bfxI64 d a b, d, a, b, some 6, fun o => extractSigned o.a o.b, quiet⟩ : IntRule) ∈ bits d a b := by simp [bits]
  simpa only [View.operands] using exec_bits_alone rule h hd hm

theorem exec_bfxN64_alone (h : s.Alone (instrForm (.bfxN64 d a b)) w g v) : exec (.bfxN64 d a b) s =
    .next (s.setThread ⟨w, g, v.gtid⟩ (v.t.writeDest d (some 6) (extractField (v.read a) (v.read b))).step) := by
  have rule : (⟨.bfxN64 d a b, d, a, b, some 6, fun o => extractField o.a o.b, quiet⟩ : IntRule) ∈ bits d a b := by simp [bits]
  simpa only [View.operands] using exec_bits_alone rule h hd hm

theorem exec_bfi_alone (h : s.Alone (instrForm (.bfi d a b)) w g v) : exec (.bfi d a b) s =
    .next (s.setThread ⟨w, g, v.gtid⟩ (v.t.writeDest d (some 6) (insertField (v.read a) (v.read b) (v.operands a b).c)).step) := by
  have rule : (⟨.bfi d a b, d, a, b, some 6, fun o => insertField o.a o.b o.c, quiet⟩ : IntRule) ∈ bits d a b := by simp [bits]
  simpa only [View.operands] using exec_bits_alone rule h hd hm

theorem exec_bilv_alone (h : s.Alone (instrForm (.bilv d a b)) w g v) : exec (.bilv d a b) s =
    .next (s.setThread ⟨w, g, v.gtid⟩ (v.t.writeDest d (some 6) (interleave (v.read a) (v.read b))).step) := by
  have rule : (⟨.bilv d a b, d, a, b, some 6, fun o => interleave o.a o.b, quiet⟩ : IntRule) ∈ bits d a b := by simp [bits]
  simpa only [View.operands] using exec_bits_alone rule h hd hm

theorem exec_bdilv_alone (h : s.Alone (instrForm (.bdilv d a b)) w g v) : exec (.bdilv d a b) s =
    .next (s.setThread ⟨w, g, v.gtid⟩ (v.t.writeDest d (some 6) (deinterleave (v.read a) (v.read b))).step) := by
  have rule : (⟨.bdilv d a b, d, a, b, some 6, fun o => deinterleave o.a o.b, quiet⟩ : IntRule) ∈ bits d a b := by simp [bits]
  simpa only [View.operands] using exec_bits_alone rule h hd hm

end Lane

/-- The bit functions of R103 to R105. -/
theorem bitFunctionsRule : BitFunctionsRule := by
  have signed (a c : Reg) (i : Nat) (h : i < 64) : (extractSigned a c).getLsbD i =
      if fieldLen c = 0 then false else a.getLsbD (fieldPos c + min i (fieldLen c - 1)) := by
    rw [getLsbD_extractSigned a c h]
    by_cases empty : fieldLen c = 0 <;> simp [empty]
  refine ⟨⟨fun w x i h => getLsbD_ofBits _ h, fun w x => length_filter_eq_sum _ _, fun w x n => trailZeros_eq_iff x n,
    fun w x n => leadZeros_eq_iff x n, fun a c i _ => getLsbD_extractField a c i, fun a b c i h => getLsbD_insertField a b c h,
    signed, fun a b j h => byteOf_permuteBytes a b h⟩, ?_⟩
  rintro a b s o rfl rfl h1 h8
  refine ⟨fun i h => getLsbD_interleave_position h1 h8 a h, fun j _ h => getLsbD_interleave_elsewhere h1 h8 a h,
    fun i h => getLsbD_deinterleave_position h1 h8 a (lt_of_position_le h1 h), fun i hi h => ?_⟩
  rw [getLsbD_deinterleave_position h1 h8 a hi]
  exact BitVec.getLsbD_of_ge _ _ h

/-- The control words of R104 and R105. -/
theorem bitControlsRule : BitControlsRule := by
  refine ⟨?_, ?_, by decide⟩
  · intro s w g v d a b hd hm
    refine ⟨fun h => ?_, fun h => ?_, fun h => ?_, fun h => ⟨fun illegal => ?_, fun h1 h8 => ?_⟩,
      fun h => ⟨fun illegal => ?_, fun h1 h8 => ?_⟩⟩
    · exact ⟨_, exec_bfxN64_alone hd hm h, fun j _ => getLsbD_extractField (v.read a) (v.read b) j⟩
    · exact ⟨_, exec_bfxI64_alone hd hm h, fun j hj => getLsbD_extractSigned (v.read a) (v.read b) hj⟩
    · exact ⟨_, exec_bfi_alone hd hm h, fun j hj => getLsbD_insertField (v.read a) (v.read b) (v.operands a b).c hj⟩
    · exact ⟨_, exec_bilv_alone hd hm h, fun j hj => getLsbD_interleave_illegal (v.read a) illegal hj⟩
    · exact ⟨_, exec_bilv_alone hd hm h, fun j hj => getLsbD_interleave_div h1 h8 (v.read a) hj⟩
    · exact ⟨_, exec_bdilv_alone hd hm h, fun j hj => getLsbD_deinterleave_illegal (v.read a) illegal hj⟩
    · exact ⟨_, exec_bdilv_alone hd hm h, fun j hj => getLsbD_deinterleave_position h1 h8 (v.read a) hj⟩
  · rintro a c s o rfl rfl h1 h8 i h
    exact getLsbD_deinterleave_interleave h1 h8 a h

/-- Settles O7: each function's bits, and a lane that writes the function of its operands. -/
theorem bitFields : Obligations.BitFields := ⟨bitFunctionsRule, bitControlsRule⟩

/-- Settles O8: the sum in lanes and once per group, and that no other operation of the major has a trap. -/
theorem addressCheck : Obligations.AddressCheck := by
  refine ⟨fun s w g ts d a b h hd => ?_, fun s w g gr pc ws d a b h hd => ?_, fun d a b r hr => ?_⟩
  · intro sum traps hits rest
    have same : traps = fun t => (s.laneTrap w g (sumTrap a b) t).map fun e => ((⟨w, g, t⟩ : ThreadId), e) := by
      funext t
      simp only [traps, State.laneTrap]
      cases s.view? w g t with
      | none => rfl
      | some v => simp only [Option.bind_some, sumTrap, sum]; split <;> rfl
    rw [exec_addr_vector h hd, State.takeHits_laneHits]
    simp only [hits, rest, same, Option.isNone_map, sum]
  · have scalar : (aluForm d [a, b]).scalar = true := by simp [Form.scalar, aluForm, hd]
    rw [exec_addr]
    exact ⟨fun lt => h.intOp_eq scalar (addressSum_of_lt lt), fun le => h.intOp_trap_eq scalar (addressSum_of_le le)⟩
  · exact ⟨fun s w g ts h hd => ⟨_, exec_bits_vector hr h hd⟩, fun s w g gr pc ws h hd => ⟨_, exec_bits_group hr h hd⟩⟩

end Sys2Proof.Machine
end
